-- ==== Sys2Proof/Word.lean ====
section
/-! DEFINITION. The word types of the machine and their plainest arithmetic (spec 00, R2 and R3). -/

namespace Sys2Proof

/-- A 64-bit thread value, address or special-register value. -/
abbrev Word := BitVec 64

/-- One word of an instruction. -/
abbrev Half := BitVec 32

/-- A byte of memory. -/
abbrev Byte := BitVec 8

/-- One bit per thread of a warp: bit `n` is thread `n` (R81). -/
abbrev Mask := BitVec 32

end Sys2Proof
end

