-- ==== Sys2Proof/Config.lean ====
section
/-! DEFINITION. What the part fixes (spec 01, R6, R21; 19, R438), and the free values: constants without a body, so that
nothing can be proved of what they are. A free value is applied to the counter `State.fresh`, or to the place it is read
from (log entries 6 and 7). -/

namespace Sys2Proof.Config

/-- R438: %caps of the FN-YJ4. -/
def caps : Word := 0x000000000880383F

/-- R437: the units that %caps reports. -/
def hasCodec : Bool := caps.getLsbD 0
def hasLp : Bool := caps.getLsbD 1
def hasFlash : Bool := caps.getLsbD 2
def hasTrace : Bool := caps.getLsbD 5
def peerLinks : Nat := caps.toNat / 2 ^ 8 % 2 ^ 4

def cores : Nat := 128
def dies : Nat := 4
def slotsPerCore : Nat := 64
def groupsPerCore : Nat := 16
def hbmBytes : Nat := 512 * 2 ^ 30
def lpBytes : Nat := 2 ^ 40
def vaultBytes : Nat := 0x1800000
def cellPool : Nat := 131072
def storeUnits : Nat := 128
def requestLimit : Nat := 8192

/-- A value that the manual leaves open, fresh at each use (DESIGN CHOICE, log entry 6). -/
opaque freeNat : Nat → Nat

/-- The contents of an accumulator element that nothing has written since its group started (R279): epoch, element
(DESIGN CHOICE, log entry 7). -/
opaque freeAcc : Nat → Nat → BitVec 32

/-- The device serial number of the management window (R424): the manual gives none (DESIGN CHOICE, log entry 6). -/
opaque serial : Word

/-- One byte of an attestation signature (R434, R466): report number, offset (DESIGN CHOICE, log entry 18). -/
opaque signature : Nat → Nat → Byte

/-- One byte of the digest of the boot ROM, or of the image of the boot flash, in a report (R434): which, 0, offset (DESIGN CHOICE, log entry 18). -/
opaque imageDigest : Nat → Nat → Nat → Byte

/-- R430: the device on the other side of a link accepts an address: link, address (DESIGN CHOICE, log entry 22). -/
opaque peerAccepts : Nat → Nat → Bool

/-- R432: an image passes the checks of the boot ROM: its bytes, the count of blown fuse bits (DESIGN CHOICE, log entry 18). -/
opaque imageAccepted : List Byte → Nat → Bool

/-- R432: the image of the boot flash passes those checks, with a count of blown bits; and what it makes of the fuse (DESIGN CHOICE, log entry 18). -/
opaque bootAccepted : Nat → Bool
opaque bootFuse : Nat → Nat

/-- R435: the host grants the Harbourmaster's DMA a byte of host memory (DESIGN CHOICE, log entry 120). -/
opaque dmaGranted : Nat → Bool

/-- R432: what an accepted image makes of the rollback fuse: its bytes, the count (DESIGN CHOICE, log entry 18). -/
opaque imageFuse : List Byte → Nat → Nat

/-- What the codec makes of a line that it stores (R221, R223): by the number of the store (DESIGN CHOICE, log entry 10). -/
opaque codecChoice : Nat → Nat

/-- R218: the lines of a home slice, 4 MiB in all (R21). -/
def sliceLines : Nat := 32768

/-- Where the scheduler allocates its areas (R213, R361, R369, R371): in HBM, and for data areas in the address space (DESIGN CHOICE,
log entry 20). -/
def areaPa : Nat := 0x7000000000
def areaVa : Nat := 0xFF80000000000000
def areaBytes : Nat := 0xE00000000

end Sys2Proof.Config
end

