-- ==== Sys2Proof/Syntax.lean ====
section
/-! DEFINITION. The instructions and the device's other steps: one constructor per row of spec/opcode_table.json. A compact
instruction carries the fields of R29, an extended one the fields of R31, R32 and R35; which of them a constructor uses is
said in WellFormed.lean. The steps of spec/95 that are no instruction words carry the operands that say which one happens. -/

namespace Sys2Proof

/-- The compact form (R27, R29). -/
structure Compact where
  ge : Bool
  gn : Bool
  gp : BitVec 4
  s  : Bool
  b  : BitVec 6
  a  : BitVec 6
  d  : BitVec 6
  deriving DecidableEq, Repr

/-- LEN of R26: the length of the instruction. `w32` is the compact form's. -/
inductive Len where
  | w32 | w64 | w96 | w160
  deriving DecidableEq, Repr

/-- Bytes of an instruction of each length (R26). -/
def Len.bytes : Len → Nat
  | .w32 => 4 | .w64 => 8 | .w96 => 12 | .w160 => 20

/-- The fields of an extended form (R27, R31, R32, R35). `mod` is word 1 bits [31:23]; a literal word that the form does not
have is zero. -/
structure Ext where
  len  : Len
  ge   : Bool
  gn   : Bool
  gp   : BitVec 4
  s    : Bool
  a    : BitVec 6
  d    : BitVec 6
  mod  : BitVec 9
  lsel : BitVec 2
  sat  : Bool
  z    : Bool
  rm   : BitVec 3
  ty   : BitVec 4
  c    : BitVec 6
  b    : BitVec 6
  l32  : Half
  l64  : Word
  deriving DecidableEq, Repr

/-- Bits [lo+n-1 : lo] of word 1, for lo from 23 upwards: a part of MOD, numbered as the class tables number it. -/
def Ext.m (x : Ext) (lo n : Nat) : Nat := x.mod.toNat / 2 ^ (lo - 23) % 2 ^ n

/-- One bit of MOD, numbered as in word 1. -/
def Ext.mb (x : Ext) (bit : Nat) : Bool := x.mod.getLsbD (bit - 23)

/-- What lowered the arithmetic clock (R8, R435, R440). -/
inductive ClockLimit where
  | power | current | thermal | coolant
  deriving DecidableEq, Repr

/-- An access that arrives over a peer link (R430, R431): the other module's load, store, atomic (its operation code, width in
bytes and operand) or compare and swap. -/
inductive PeerAccess where
  | load  (lp : Bool) (pa n : Nat)
  | store (lp : Bool) (pa : Nat) (bytes : List Byte) (release : Bool)
  | atom  (lp : Bool) (pa n op : Nat) (isFloat signed : Bool) (operand : Word)
  | cas   (lp : Bool) (pa n : Nat) (new old : Word)
  deriving DecidableEq, Repr

/-- The rows of spec/opcode_table.json, in the table's order. -/
inductive Instr where
  /-- NOP_COMPACT, R30. -/
  | nopCompact (c : Compact)
  /-- VMOV_COMPACT, R30. -/
  | vmovCompact (c : Compact)
  /-- IADD_U64_COMPACT, R30. -/
  | iaddU64Compact (c : Compact)
  /-- ISUB_U64_COMPACT, R30. -/
  | isubU64Compact (c : Compact)
  /-- IMUL_U64_COMPACT, R30. -/
  | imulU64Compact (c : Compact)
  /-- IMAD_U64_COMPACT, R30. -/
  | imadU64Compact (c : Compact)
  /-- IMIN_I64_COMPACT, R30. -/
  | iminI64Compact (c : Compact)
  /-- IMAX_I64_COMPACT, R30. -/
  | imaxI64Compact (c : Compact)
  /-- IADD_U32X2_COMPACT, R30. -/
  | iaddU32x2Compact (c : Compact)
  /-- AND_B64_COMPACT, R30. -/
  | andB64Compact (c : Compact)
  /-- OR_B64_COMPACT, R30. -/
  | orB64Compact (c : Compact)
  /-- XOR_B64_COMPACT, R30. -/
  | xorB64Compact (c : Compact)
  /-- SHL_B64_COMPACT, R30. -/
  | shlB64Compact (c : Compact)
  /-- SHR_B64_COMPACT, R30. -/
  | shrB64Compact (c : Compact)
  /-- SAR_I64_COMPACT, R30. -/
  | sarI64Compact (c : Compact)
  /-- FADD_F64_COMPACT, R30. -/
  | faddF64Compact (c : Compact)
  /-- FSUB_F64_COMPACT, R30. -/
  | fsubF64Compact (c : Compact)
  /-- FMUL_F64_COMPACT, R30. -/
  | fmulF64Compact (c : Compact)
  /-- FFMA_F64_COMPACT, R30. -/
  | ffmaF64Compact (c : Compact)
  /-- FMIN_F64_COMPACT, R30. -/
  | fminF64Compact (c : Compact)
  /-- FMAX_F64_COMPACT, R30. -/
  | fmaxF64Compact (c : Compact)
  /-- FADD_F32X2_COMPACT, R30. -/
  | faddF32x2Compact (c : Compact)
  /-- FSUB_F32X2_COMPACT, R30. -/
  | fsubF32x2Compact (c : Compact)
  /-- FMUL_F32X2_COMPACT, R30. -/
  | fmulF32x2Compact (c : Compact)
  /-- FFMA_F32X2_COMPACT, R30. -/
  | ffmaF32x2Compact (c : Compact)
  /-- FADD_BF16X4_COMPACT, R30. -/
  | faddBf16x4Compact (c : Compact)
  /-- FMUL_BF16X4_COMPACT, R30. -/
  | fmulBf16x4Compact (c : Compact)
  /-- FFMA_BF16X4_COMPACT, R30. -/
  | ffmaBf16x4Compact (c : Compact)
  /-- LD_GLOBAL_COMPACT, R30. -/
  | ldGlobalCompact (c : Compact)
  /-- ST_GLOBAL_COMPACT, R30. -/
  | stGlobalCompact (c : Compact)
  /-- LD_SCRATCH_COMPACT, R30. -/
  | ldScratchCompact (c : Compact)
  /-- ST_SCRATCH_COMPACT, R30. -/
  | stScratchCompact (c : Compact)
  /-- BRA, R111. -/
  | bra (x : Ext)
  /-- BRX, R112. -/
  | brx (x : Ext)
  /-- CALL, R113. -/
  | call (x : Ext)
  /-- CALLX, R113. -/
  | callx (x : Ext)
  /-- RET, R114. -/
  | ret (x : Ext)
  /-- LOOP_SET_O, R115. -/
  | loopSetO (x : Ext)
  /-- LOOP_SET_I, R115. -/
  | loopSetI (x : Ext)
  /-- LOOP_I, R106. -/
  | loopI (x : Ext)
  /-- LOOP_O, R106. -/
  | loopO (x : Ext)
  /-- LOOP_IO, R106. -/
  | loopIo (x : Ext)
  /-- LBRK, R116. -/
  | lbrk (x : Ext)
  /-- LBRK_Z, R116. -/
  | lbrkZ (x : Ext)
  /-- REJOIN, R117. -/
  | rejoin (x : Ext)
  /-- YIELD, R118. -/
  | yield (x : Ext)
  /-- EXIT, R107. -/
  | exit (x : Ext)
  /-- EXIT_TO, R108. -/
  | exitTo (x : Ext)
  /-- SLEEP, R120. -/
  | sleep (x : Ext)
  /-- SLEEP_WAKE, R120. -/
  | sleepWake (wk : Nat)
  /-- NOP, R121. -/
  | nop (x : Ext)
  /-- LAUNCH, R374. -/
  | launch (x : Ext)
  /-- CALLG, R374. -/
  | callg (x : Ext)
  /-- SIGNAL, R375. -/
  | signal (x : Ext)
  /-- WAITC, R377. -/
  | waitc (x : Ext)
  /-- TESTC, R378. -/
  | testc (x : Ext)
  /-- KARM, R376. -/
  | karm (x : Ext)
  /-- KARM_WATCH_CHECK, R376. -/
  | karmWatchCheck (id : Nat)
  /-- STAGE_PUT, R379. -/
  | stagePut (x : Ext)
  /-- STAGE_GET, R379. -/
  | stageGet (x : Ext)
  /-- STEP, R388. -/
  | step (x : Ext)
  /-- CANCEL, R380. -/
  | cancel (x : Ext)
  /-- IADD, R128. -/
  | iadd (x : Ext)
  /-- ISUB, R128. -/
  | isub (x : Ext)
  /-- IADDC, R130. -/
  | iaddc (x : Ext)
  /-- ISUBB, R130. -/
  | isubb (x : Ext)
  /-- IMUL, R128. -/
  | imul (x : Ext)
  /-- IMULH, R128. -/
  | imulh (x : Ext)
  /-- IMAD, R128. -/
  | imad (x : Ext)
  /-- IDIV, R131. -/
  | idiv (x : Ext)
  /-- IREM, R131. -/
  | irem (x : Ext)
  /-- IMIN, R128. -/
  | imin (x : Ext)
  /-- IMAX, R128. -/
  | imax (x : Ext)
  /-- IABS, R128. -/
  | iabs (x : Ext)
  /-- INEG, R128. -/
  | ineg (x : Ext)
  /-- ICLAMP, R128. -/
  | iclamp (x : Ext)
  /-- SADD, R129. -/
  | sadd (x : Ext)
  /-- ICMP, R132. -/
  | icmp (x : Ext)
  /-- AND, R133. -/
  | andB (x : Ext)
  /-- OR, R133. -/
  | orB (x : Ext)
  /-- XOR, R133. -/
  | xorB (x : Ext)
  /-- NOT, R133. -/
  | notB (x : Ext)
  /-- LOP3, R133. -/
  | lop3 (x : Ext)
  /-- SHL, R134. -/
  | shl (x : Ext)
  /-- SHR, R134. -/
  | shr (x : Ext)
  /-- SAR, R134. -/
  | sar (x : Ext)
  /-- ROT, R134. -/
  | rot (x : Ext)
  /-- BFX, R135. -/
  | bfx (x : Ext)
  /-- BFI, R135. -/
  | bfi (x : Ext)
  /-- POPC, R136. -/
  | popc (x : Ext)
  /-- CLZ, R136. -/
  | clz (x : Ext)
  /-- CTZ, R136. -/
  | ctz (x : Ext)
  /-- BREV, R136. -/
  | brev (x : Ext)
  /-- LEA, R137. -/
  | lea (x : Ext)
  /-- FADD, R150. -/
  | fadd (x : Ext)
  /-- FSUB, R150. -/
  | fsub (x : Ext)
  /-- FMUL, R150. -/
  | fmul (x : Ext)
  /-- FFMA, R150. -/
  | ffma (x : Ext)
  /-- FDIV, R150. -/
  | fdiv (x : Ext)
  /-- FSQRT, R150. -/
  | fsqrt (x : Ext)
  /-- FMIN, R151. -/
  | fmin (x : Ext)
  /-- FMAX, R151. -/
  | fmax (x : Ext)
  /-- FMINM, R151. -/
  | fminm (x : Ext)
  /-- FMAXM, R151. -/
  | fmaxm (x : Ext)
  /-- FCMP, R152. -/
  | fcmp (x : Ext)
  /-- FCLASS, R153. -/
  | fclass (x : Ext)
  /-- FABS, R154. -/
  | fabs (x : Ext)
  /-- FNEG, R154. -/
  | fneg (x : Ext)
  /-- FCOPYS, R154. -/
  | fcopys (x : Ext)
  /-- FRINT, R155. -/
  | frint (x : Ext)
  /-- FSCALE, R156. -/
  | fscale (x : Ext)
  /-- FGETEXP, R157. -/
  | fgetexp (x : Ext)
  /-- FGETMAN, R157. -/
  | fgetman (x : Ext)
  /-- FREM, R158. -/
  | frem (x : Ext)
  /-- FDOT2, R159. -/
  | fdot2 (x : Ext)
  /-- FPMODE_GET, R160. -/
  | fpmodeGet (x : Ext)
  /-- FPMODE_RM, R160. -/
  | fpmodeRm (x : Ext)
  /-- FPMODE_FTZ, R160. -/
  | fpmodeFtz (x : Ext)
  /-- FFLAGS_GET, R161. -/
  | fflagsGet (x : Ext)
  /-- FFLAGS_CLR, R161. -/
  | fflagsClr (x : Ext)
  /-- FFLAGS_SET, R161. -/
  | fflagsSet (x : Ext)
  /-- FFLAGS_TE, R161. -/
  | fflagsTe (x : Ext)
  /-- FRCP, R183. -/
  | frcp (x : Ext)
  /-- FRSQ, R183. -/
  | frsq (x : Ext)
  /-- FEXP2, R184. -/
  | fexp2 (x : Ext)
  /-- FLOG2, R183. -/
  | flog2 (x : Ext)
  /-- FSIN, R183. -/
  | fsin (x : Ext)
  /-- FCOS, R183. -/
  | fcos (x : Ext)
  /-- FTANH, R185. -/
  | ftanh (x : Ext)
  /-- FSIGM, R185. -/
  | fsigm (x : Ext)
  /-- CVT, R187. -/
  | cvt (x : Ext)
  /-- PACK, R188. -/
  | pack (x : Ext)
  /-- UNPACK, R189. -/
  | unpack (x : Ext)
  /-- RNG, R192. -/
  | rng (x : Ext)
  /-- RNGK, R191. -/
  | rngk (x : Ext)
  /-- VMOV, R83. -/
  | vmov (x : Ext)
  /-- VSET, R84. -/
  | vset (x : Ext)
  /-- VSEL, R85. -/
  | vsel (x : Ext)
  /-- VCOAL, R86. -/
  | vcoal (x : Ext)
  /-- VRUNS, R87. -/
  | vruns (x : Ext)
  /-- VNAME, R88. -/
  | vname (x : Ext)
  /-- VQUOTA_GET, R89. -/
  | vquotaGet (x : Ext)
  /-- VQUOTA_SET, R89. -/
  | vquotaSet (x : Ext)
  /-- VFREE, R90. -/
  | vfree (x : Ext)
  /-- GLOP, R91. -/
  | glop (x : Ext)
  /-- GTOV, R92. -/
  | gtov (x : Ext)
  /-- VTOG, R93. -/
  | vtog (x : Ext)
  /-- GCNT, R94. -/
  | gcnt (x : Ext)
  /-- SHFL, R198. -/
  | shfl (x : Ext)
  /-- BCAST, R199. -/
  | bcast (x : Ext)
  /-- VOTE, R201. -/
  | vote (x : Ext)
  /-- MATCH, R202. -/
  | matchLanes (x : Ext)
  /-- VRED, R204. -/
  | vred (x : Ext)
  /-- VSCAN, R205. -/
  | vscan (x : Ext)
  /-- XPAT, R208. -/
  | xpat (x : Ext)
  /-- XTAB, R200. -/
  | xtab (x : Ext)
  /-- ELECT, R209. -/
  | elect (x : Ext)
  /-- LANES, R210. -/
  | lanes (x : Ext)
  /-- LD, R226. -/
  | ld (x : Ext)
  /-- ST, R226. -/
  | st (x : Ext)
  /-- LDMX, R228. -/
  | ldmx (x : Ext)
  /-- STMX, R229. -/
  | stmx (x : Ext)
  /-- LDC, R231. -/
  | ldc (x : Ext)
  /-- STC, R230. -/
  | stc (x : Ext)
  /-- PREF, R232. -/
  | pref (x : Ext)
  /-- CCTL_INV, R233. -/
  | cctlInv (x : Ext)
  /-- CCTL_DEMOTE, R233. -/
  | cctlDemote (x : Ext)
  /-- CCTL_CLEAN, R233. -/
  | cctlClean (x : Ext)
  /-- CCTL_INVALL, R233. -/
  | cctlInvall (x : Ext)
  /-- RINIT, R236. -/
  | rinit (x : Ext)
  /-- RPUSH_GET, R235. -/
  | rpushGet (x : Ext)
  /-- RPUSH_PUT, R235. -/
  | rpushPut (x : Ext)
  /-- RPOP_GET, R235. -/
  | rpopGet (x : Ext)
  /-- RPOP_PUT, R235. -/
  | rpopPut (x : Ext)
  /-- RSTAT, R236. -/
  | rstat (x : Ext)
  /-- ATOM, R262. -/
  | atom (x : Ext)
  /-- CAS, R264. -/
  | cas (x : Ext)
  /-- LDACQ, R265. -/
  | ldacq (x : Ext)
  /-- STREL, R266. -/
  | strel (x : Ext)
  /-- FENCE, R267. -/
  | fence (x : Ext)
  /-- BAR, R269. -/
  | bar (x : Ext)
  /-- BARR, R269. -/
  | barr (x : Ext)
  /-- BARW, R269. -/
  | barw (x : Ext)
  /-- WAITV, R271. -/
  | waitv (x : Ext)
  /-- WAITV_NOTIFY, R271. -/
  | waitvNotify (wk lane : Nat)
  /-- MMA, R286. -/
  | mma (x : Ext)
  /-- ACCZ, R287. -/
  | accz (x : Ext)
  /-- ACCLD, R289. -/
  | accld (x : Ext)
  /-- ACCST, R289. -/
  | accst (x : Ext)
  /-- ACCCP, R288. -/
  | acccp (x : Ext)
  /-- ACCRD, R290. -/
  | accrd (x : Ext)
  /-- ACCWR, R290. -/
  | accwr (x : Ext)
  /-- MSTAT, R291. -/
  | mstat (x : Ext)
  /-- MBIND, R292. -/
  | mbind (x : Ext)
  /-- MBIND_FREE, R292. -/
  | mbindFree (x : Ext)
  /-- TCOPY, R302. -/
  | tcopy (x : Ext)
  /-- TGATHER, R302. -/
  | tgather (x : Ext)
  /-- TSCATTER, R302. -/
  | tscatter (x : Ext)
  /-- TFEED, R303. -/
  | tfeed (x : Ext)
  /-- TFILL, R302. -/
  | tfill (x : Ext)
  /-- TCONV, R302. -/
  | tconv (x : Ext)
  /-- TRING, R304. -/
  | tring (x : Ext)
  /-- TSTAT, R305. -/
  | tstat (x : Ext)
  /-- PGNEW, R329. -/
  | pgnew (x : Ext)
  /-- PGAPP, R330. -/
  | pgapp (x : Ext)
  /-- PGAPP_REF, R330. -/
  | pgappRef (x : Ext)
  /-- PGFREE, R331. -/
  | pgfree (x : Ext)
  /-- PGPIN, R334. -/
  | pgpin (x : Ext)
  /-- PGPIN_HOLD, R334. -/
  | pgpinHold (x : Ext)
  /-- PGUNPIN, R334. -/
  | pgunpin (x : Ext)
  /-- PGUNPIN_HOLD, R334. -/
  | pgunpinHold (x : Ext)
  /-- PGTRUNC, R332. -/
  | pgtrunc (x : Ext)
  /-- PGDEMOTE, R333. -/
  | pgdemote (x : Ext)
  /-- PGINFO, R335. -/
  | pginfo (x : Ext)
  /-- PGLOOK, R337. -/
  | pglook (x : Ext)
  /-- PGSUM, R336. -/
  | pgsum (x : Ext)
  /-- PGMASS_GET, R335. -/
  | pgmassGet (x : Ext)
  /-- PGMASS_SET, R335. -/
  | pgmassSet (x : Ext)
  /-- PSEL, R350. -/
  | psel (x : Ext)
  /-- ATTS, R343. -/
  | atts (x : Ext)
  /-- ATTV, R344. -/
  | attv (x : Ext)
  /-- ATTF, R345. -/
  | attf (x : Ext)
  /-- PFXH, R352. -/
  | pfxh (x : Ext)
  /-- PFXL, R354. -/
  | pfxl (x : Ext)
  /-- PFXI, R354. -/
  | pfxi (x : Ext)
  /-- PFXD, R354. -/
  | pfxd (x : Ext)
  /-- PFXD_UNPIN, R354. -/
  | pfxdUnpin (x : Ext)
  /-- TRAP, R410. -/
  | trap (x : Ext)
  /-- RTE, R406. -/
  | rte (x : Ext)
  /-- MOVS_READ, R411. -/
  | movsRead (x : Ext)
  /-- MOVS_WRITE, R411. -/
  | movsWrite (x : Ext)
  /-- MOVSP, R412. -/
  | movsp (x : Ext)
  /-- LOGREC, R413. -/
  | logrec (x : Ext)
  /-- CNTRD, R414. -/
  | cntrd (x : Ext)
  /-- CNTCFG_SEL, R415. -/
  | cntcfgSel (x : Ext)
  /-- CNTCFG_CLR, R415. -/
  | cntcfgClr (x : Ext)
  /-- CNTCFG_FRZ, R415. -/
  | cntcfgFrz (x : Ext)
  /-- CNTCFG_RUN, R415. -/
  | cntcfgRun (x : Ext)
  /-- BKPT, R410. -/
  | bkpt (x : Ext)
  /-- TLBINV_VA, R416. -/
  | tlbinvVa (x : Ext)
  /-- TLBINV_ALL, R416. -/
  | tlbinvAll (x : Ext)
  /-- LONG_LATENCY_RESULT_WRITE, R42. -/
  | longLatencyResultWrite (wk id : Nat) (lanes : Mask)
  /-- WARP_TRAP_ACTION, R401. -/
  | warpTrapAction (wk : Nat)
  /-- TIMER_EXPIRY, R408. -/
  | timerExpiry (wk : Nat)
  /-- L1_FILL, R215. -/
  | l1Fill (id : Nat)
  /-- L1_LEASE_EXPIRY, R215. -/
  | l1LeaseExpiry (core line : Nat)
  /-- HOME_SLICE_READ, R216. -/
  | homeSliceRead (id : Nat)
  /-- HOME_SLICE_WRITE, R215. -/
  | homeSliceWrite (id : Nat)
  /-- HELD_POOL_WRITE_PROCEED, R467. -/
  | heldPoolWriteProceed
  /-- HPOOL_PRESSURE_MOVE, R467. -/
  | hpoolPressureMove
  /-- VAULT_ACCESS, R217. -/
  | vaultAccess (id : Nat)
  /-- STORE_COMPLETION_RETURN, R252. -/
  | storeCompletionReturn (id : Nat)
  /-- ACQUIRE_COMPLETE, R255. -/
  | acquireComplete (wk : Nat)
  /-- FENCE_COMPLETE, R256. -/
  | fenceComplete (wk : Nat)
  /-- BEACON_TICKET, R257. -/
  | beaconTicket (id : Nat)
  /-- FRONTIER_ATOMIC_PERFORM, R383. -/
  | frontierAtomicPerform (id : Nat)
  /-- ORDERING_WAIT_DEADLOCK, R386. -/
  | orderingWaitDeadlock (launch : Word)
  /-- COMMIT, R389. -/
  | commit
  /-- PEER_DIGEST_EXCHANGE, R395. -/
  | peerDigestExchange (launch : Word) (digest : BitVec 128)
  /-- EBB_VISIT, R319. -/
  | ebbVisit (lpn : Nat)
  /-- EBB_SWAP, R322. -/
  | ebbSwap (lpn : Nat)
  /-- HATCH_SWEEP_VISIT, R324. -/
  | hatchSweepVisit
  /-- HATCH_FETCH, R325. -/
  | hatchFetch (lpn : Nat) (ok : Bool)
  /-- GANTRY_PASS_START, R277. -/
  | gantryPassStart (g : Nat)
  /-- GANTRY_PASS_DRAIN, R281. -/
  | gantryPassDrain (g : Nat)
  /-- TENDER_OP_START, R295. -/
  | tenderOpStart (id : Nat)
  /-- ENGINE_OP_FINISH, R363. -/
  | engineOpFinish (id : Nat)
  /-- LQ_TAIL_DOORBELL, R356. -/
  | lqTailDoorbell (q : Nat) (tail : BitVec 32)
  /-- LAUNCH_ADMISSION, R359. -/
  | launchAdmission (src : Option Nat)
  /-- GROUP_DISPATCH, R366. -/
  | groupDispatch
  /-- LAUNCH_END, R362. -/
  | launchEnd (launch : Word)
  /-- PREEMPTION, R371. -/
  | preemption
  /-- STAGE_TARGET_ADJUST, R370. -/
  | stageTargetAdjust
  /-- DEVICE_RESET, R432. -/
  | deviceReset (accepted : Bool)
  /-- BREAKWATER_POWER_LIMIT, R435. -/
  | breakwaterPowerLimit
  /-- RAIL_CURRENT_LIMIT, R435. -/
  | railCurrentLimit
  /-- THERMAL_THROTTLE, R435. -/
  | thermalThrottle
  /-- THERMAL_TRIP, R435. -/
  | thermalTrip
  /-- COOLANT_FLOW_LOW, R440. -/
  | coolantFlowLow
  /-- PORTCULLIS_ALARM, R436. -/
  | portcullisAlarm (source : Nat)
  /-- DEBUG_UNLOCK_ATTEMPT, R436. -/
  | debugUnlockAttempt
  /-- ATTEST, R434. -/
  | attest
  /-- STAGE_FIRMWARE_IMAGE, R466. -/
  | stageFirmwareImage
  /-- ACTIVATE_FIRMWARE_IMAGE, R466. -/
  | activateFirmwareImage
  /-- READ_PORTCULLIS_LOG, R466. -/
  | readPortcullisLog
  /-- CLEAR_HALTED_LAUNCH, R466. -/
  | clearHaltedLaunch
  /-- PROVISION_IDENTITY_KEY, R466. -/
  | provisionIdentityKey
  /-- MAILBOX_UNASSIGNED_COMMAND, R466. -/
  | mailboxUnassignedCommand
  /-- TT_INV, R427. -/
  | ttInv
  /-- DESCRIPTOR_APERTURE_WRITE, R425. -/
  | descriptorApertureWrite (word : Nat) (value : Word)
  /-- TRC_CTL_WRITE, R420. -/
  | trcCtlWrite (value : Word)
  /-- REPL_RESUME, R395. -/
  | replResume
  /-- MANAGEMENT_REGISTER_WRITE, R424. -/
  | managementRegisterWrite (off : Nat) (value : Word)
  /-- HOST_CXL_READ, R426. -/
  | hostCxlRead (lp : Bool) (pa n : Nat)
  /-- HOST_CXL_WRITE, R426. -/
  | hostCxlWrite (lp : Bool) (pa : Nat) (bytes : List Byte)
  /-- PEER_INBOUND_ACCESS, R430. -/
  | peerInboundAccess (link : Nat) (acc : PeerAccess)
  /-- PEER_WRITE_ACK, R431. -/
  | peerWriteAck (id : Nat)
  /-- PEER_LINK_DOWN, R431. -/
  | peerLinkDown (link : Nat)
  /-- TRACE_RECORD_WRITE, R421. -/
  | traceRecordWrite
  /-- CLOCK_LIMIT_CLEARS, R8. -/
  | clockLimitClears (limit : ClockLimit)
  /-- PEER_LINK_TRAINED, R430. -/
  | peerLinkTrained (link : Nat)
  /-- HATCH_SPILL_COMPLETE, R324. -/
  | hatchSpillComplete (lpn : Nat)
  deriving DecidableEq, Repr

end Sys2Proof
end

