-- ==== Sys2Proof/WellFormed.lean ====
section
/-! DEFINITION. Which encodings are instructions: the class tables of the manual (R82, R110, R127, R149, R180, R197, R225, R261,
R285, R300, R327, R339, R373, R387, R409) as one list of rows, and the checks of R34, R35, R39, R40, R45 and R47 over a row. -/

namespace Sys2Proof

/-- What a 6-bit operand field holds (R40). -/
inductive FieldKind where
  | zero            -- the form does not use it
  | v               -- v0–v63
  | vl              -- v0–v63, or supplied by a literal and then zero (R35)
  | g | k | q | x   -- g0–g15, k0–k7, q0–q15, x0–x7
  | sa | sb | st    -- A streams 0–15, B streams 16–19, any stream 0–19
  | bar             -- barrier: 0–15 under `.gp`, 0–3 under `.cw`
  | code            -- a code that the row checks itself
  deriving DecidableEq, Repr

/-- How a form uses a literal word that LSEL does not (R35). -/
inductive LitUse where
  | unused | optional | required
  deriving DecidableEq, Repr

/-- A row of a class table. -/
structure OpRow where
  opc   : Nat
  instr : Ext → Instr
  tys   : Ext → Nat := fun _ => 1          -- bit n: TY n is accepted
  rm    : Ext → Bool := fun _ => false     -- RM 0–5 are accepted
  sat   : Ext → Bool := fun _ => false
  z     : Ext → Bool := fun _ => false
  lsels : Ext → Nat := fun _ => 1          -- bit n: LSEL n is accepted
  d     : Ext → FieldKind := fun _ => .zero
  a     : Ext → FieldKind := fun _ => .zero
  b     : Ext → FieldKind := fun _ => .zero
  c     : Ext → FieldKind := fun _ => .zero
  modOk : Ext → Bool := fun x => x.mod == 0
  l32   : Ext → LitUse := fun _ => .unused
  l64   : Ext → LitUse := fun _ => .unused
  s     : Bool := false                    -- carries S = 1 (R45)
  priv  : Ext → Bool := fun _ => false     -- needs privileged mode (R38, R409)
  ok    : Ext → Bool := fun _ => true      -- what else the instruction's description asks of the fields

/-- The literal as it stands in the instruction, for the forms whose type leaves it unchanged (R36). -/
def Ext.rawLit (x : Ext) : Nat := if x.len = .w160 then x.l64.toNat else x.l32.toNat

/-- No MOD bit is set at or above bit `n` of word 1. -/
def Ext.modBelow (x : Ext) (n : Nat) : Bool := x.mod.toNat < 2 ^ (n - 23)

/-- Bits [1:0] of a target offset are zero (R110). -/
def Ext.alignedTarget (x : Ext) : Bool := x.l32.toNat % 4 == 0

/-- Element width of a TY (R33). -/
def tyWidth (ty : Nat) : Nat :=
  match ty with
  | 0 | 1 | 2 | 9 => 64
  | 3 | 4 | 10 => 32
  | 5 | 6 | 11 => 16
  | _ => 8

/-- TY 0x9 to 0xB are floating (R33). -/
def tyFloat (ty : Nat) : Bool := decide (9 ≤ ty)

def tyInts : Nat := 0x1FE
def tyFloats : Nat := 0xE00

/-- R186: the limits of `cvt`'s part. -/
def cvtPartOk (dt st part : Nat) : Bool :=
  let nd := 64 / tyWidth dt
  let ns := 64 / tyWidth st
  if ns = nd then part == 0 else if ns > nd then decide (part < ns / nd) else decide (part < nd / ns)

/-- R188: the pairs of `pack`. -/
def packPairOk (dt st : Nat) : Bool :=
  if tyFloat dt then (st == 9 && dt == 10) || (st == 10 && dt == 11)
  else decide (1 ≤ st) && decide (st ≤ 8) && tyWidth st == 2 * tyWidth dt

/-- R189: the pairs of `unpack` (DEDUCED, log entry 30). -/
def unpackPairOk (dt st : Nat) : Bool :=
  if tyFloat dt then (st == 11 && dt == 10) || (st == 10 && dt == 9)
  else decide (1 ≤ st) && decide (st ≤ 8) && 2 * tyWidth st == tyWidth dt

/-- R261: the operations that `atom` accepts at a TY. -/
def atomOpOk (op ty : Nat) : Bool :=
  match op with
  | 0 | 1 | 2 | 6 => true
  | 3 | 4 | 5 => decide (ty ≤ 4)
  | 7 | 8 => ty == 1 || ty == 3
  | _ => false

/-- R163, R225: the formats of `ldmx` and `stmx`. -/
def mxFormatOk (f : Nat) : Bool := decide (f ≤ 4) || f == 8

/-- R41, R407: the special registers that exist, and those that `movs` and `movsp` write. -/
def sregReadable (n : Nat) : Bool := decide (n ≤ 0x12) || (decide (0x40 ≤ n) && decide (n ≤ 0x47)) || (decide (0x50 ≤ n) && decide (n ≤ 0x53))
def sregMovsWritable (n : Nat) : Bool := decide (0x0F ≤ n) && decide (n ≤ 0x12)
def sregMovspWritable (n : Nat) : Bool := n == 0x45 || n == 0x47

/-- R414: the counters that exist. -/
def counterExists (n : Nat) : Bool := decide (n ≤ 0x13) || (decide (0x1F ≤ n) && decide (n ≤ 0x27))

/-- R242, R241, R212: order, scope and space stand within the lists of a class 0x9 row. -/
def syncOk (orders spaces : Nat) (x : Ext) : Bool :=
  orders.testBit (x.m 29 3) && decide (x.m 26 3 ≤ 6) && spaces.testBit (x.m 23 3)

/-- The member-mask bit of class 0x7 (R195, R197). -/
def Ext.isMember (x : Ext) : Bool := x.mb 31
def memberLit (x : Ext) : LitUse := if x.isMember then .required else .unused

/-- Class 0x0, control (R110) (DEDUCED, log entry 33). -/
def opRows0 : List OpRow := [
  { opc := 0x000, instr := .bra, l32 := (fun _ => .required), ok := Ext.alignedTarget },
  { opc := 0x001, instr := .brx, a := (fun _ => .v) },
  { opc := 0x002, instr := .call, l32 := (fun _ => .required), ok := Ext.alignedTarget },
  { opc := 0x003, instr := .callx, a := (fun _ => .v) },
  { opc := 0x004, instr := .ret },
  { opc := 0x005, instr := (fun x => match x.m 23 3 with | 0 => .loopO x | 1 => .loopI x | 2 => .loopIo x | 4 => .loopSetO x | _ => .loopSetI x), tys := (fun x => if x.mb 25 then 2 else 1), lsels := (fun x => if x.mb 25 then 3 else 1), b := (fun x => if x.mb 25 then .vl else .zero), modOk := (fun x => x.modBelow 26 && (decide (x.m 23 3 ≤ 2) || x.m 23 3 == 4 || x.m 23 3 == 5)), l32 := (fun x => if !x.mb 25 then .required else if x.lsel = 1 then .optional else .unused), l64 := (fun x => if x.m 23 3 = 2 then .required else .unused), ok := (fun x => if x.mb 25 then x.lsel != 1 || x.l64 == 0 else (x.alignedTarget && decide (x.l64.toNat < 2 ^ 32) && x.l64.toNat % 4 == 0)) },
  { opc := 0x006, instr := (fun x => if x.mb 24 then .lbrkZ x else .lbrk x), modOk := (fun x => x.modBelow 25), l32 := (fun _ => .required), ok := Ext.alignedTarget },
  { opc := 0x007, instr := .rejoin, a := (fun x => if x.mb 23 then .zero else .g), modOk := (fun x => x.modBelow 24), l32 := (fun x => if x.mb 23 then .required else .unused), s := true },
  { opc := 0x008, instr := .yield, s := true },
  { opc := 0x009, instr := (fun x => if x.mb 23 then .exitTo x else .exit x), modOk := (fun x => x.modBelow 24), l32 := (fun x => if x.mb 23 then .required else .unused), l64 := (fun x => if x.mb 23 then .required else .unused), ok := Ext.alignedTarget, s := true },
  { opc := 0x00A, instr := .sleep, tys := (fun _ => 0x2), b := (fun _ => .vl), lsels := (fun _ => 3), s := true },
  { opc := 0x00B, instr := .nop }]

/-- Class 0x1, launch and completion (R373, R387). -/
def opRows1 : List OpRow := [
  { opc := 0x020, instr := .launch, d := (fun _ => .v), a := (fun _ => .v), b := (fun _ => .k), lsels := (fun _ => 9), z := (fun _ => true) },
  { opc := 0x021, instr := .callg, d := (fun _ => .v), a := (fun _ => .v), b := (fun _ => .k), lsels := (fun _ => 9), z := (fun _ => true) },
  { opc := 0x022, instr := .signal, a := (fun _ => .v), b := (fun _ => .vl), tys := (fun _ => 0x2), modOk := (fun x => x.m 23 3 == 0 && (x.m 26 3 == 5 || x.m 26 3 == 6) && x.modBelow 29), lsels := (fun _ => 11) },
  { opc := 0x023, instr := .waitc, a := (fun _ => .k), s := true },
  { opc := 0x024, instr := .testc, d := (fun _ => .v), a := (fun _ => .k), z := (fun _ => true) },
  { opc := 0x025, instr := .karm, d := (fun _ => .k), a := (fun _ => .v), b := (fun _ => .vl), tys := (fun _ => 0x2), lsels := (fun _ => 11) },
  { opc := 0x026, instr := .stagePut, a := (fun _ => .v), modOk := (fun x => x.modBelow 26 && (x.m 23 3 == 0 || x.m 23 3 == 2)), lsels := (fun _ => 9) },
  { opc := 0x027, instr := .stageGet, d := (fun _ => .v), a := (fun _ => .v), modOk := (fun x => x.modBelow 26 && (x.m 23 3 == 0 || x.m 23 3 == 2)), lsels := (fun _ => 9), z := (fun _ => true) },
  { opc := 0x028, instr := .step, d := (fun x => if x.mb 23 then .v else .zero), modOk := (fun x => x.modBelow 24), z := (fun x => x.mb 23), l32 := (fun _ => .optional), ok := (fun x => decide (x.len = .w64) || (decide (1 ≤ x.l32.toNat) && decide (x.l32.toNat ≤ 2 ^ 20))), s := true },
  { opc := 0x029, instr := .cancel, a := (fun _ => .v) }]

/-- Class 0x2, integer (R127). -/
def opRows2 : List OpRow := [
  { opc := 0x040, instr := .iadd, d := (fun _ => .v), a := (fun _ => .v), tys := (fun _ => tyInts), z := (fun _ => true), b := (fun _ => .vl), lsels := (fun _ => 3), sat := (fun _ => true) },
  { opc := 0x041, instr := .isub, d := (fun _ => .v), a := (fun _ => .v), tys := (fun _ => tyInts), z := (fun _ => true), b := (fun _ => .vl), lsels := (fun _ => 3), sat := (fun _ => true) },
  { opc := 0x042, instr := .iaddc, d := (fun _ => .v), a := (fun _ => .v), tys := (fun _ => 0x2), z := (fun _ => true), b := (fun _ => .vl), lsels := (fun _ => 3), c := (fun _ => .g), modOk := (fun x => x.modBelow 27) },
  { opc := 0x043, instr := .isubb, d := (fun _ => .v), a := (fun _ => .v), tys := (fun _ => 0x2), z := (fun _ => true), b := (fun _ => .vl), lsels := (fun _ => 3), c := (fun _ => .g), modOk := (fun x => x.modBelow 27) },
  { opc := 0x044, instr := .imul, d := (fun _ => .v), a := (fun _ => .v), tys := (fun _ => tyInts), z := (fun _ => true), b := (fun _ => .vl), lsels := (fun _ => 3), sat := (fun _ => true) },
  { opc := 0x045, instr := .imulh, d := (fun _ => .v), a := (fun _ => .v), tys := (fun _ => tyInts), z := (fun _ => true), b := (fun _ => .vl), lsels := (fun _ => 3) },
  { opc := 0x046, instr := .imad, d := (fun _ => .v), a := (fun _ => .v), tys := (fun _ => tyInts), z := (fun _ => true), b := (fun _ => .vl), c := (fun _ => .vl), lsels := (fun _ => 7), sat := (fun _ => true) },
  { opc := 0x047, instr := .idiv, d := (fun _ => .v), a := (fun _ => .v), tys := (fun _ => tyInts), z := (fun _ => true), b := (fun _ => .vl), lsels := (fun _ => 3) },
  { opc := 0x048, instr := .irem, d := (fun _ => .v), a := (fun _ => .v), tys := (fun _ => tyInts), z := (fun _ => true), b := (fun _ => .vl), lsels := (fun _ => 3) },
  { opc := 0x049, instr := .imin, d := (fun _ => .v), a := (fun _ => .v), tys := (fun _ => tyInts), z := (fun _ => true), b := (fun _ => .vl), lsels := (fun _ => 3) },
  { opc := 0x04A, instr := .imax, d := (fun _ => .v), a := (fun _ => .v), tys := (fun _ => tyInts), z := (fun _ => true), b := (fun _ => .vl), lsels := (fun _ => 3) },
  { opc := 0x04B, instr := .iabs, d := (fun _ => .v), a := (fun _ => .v), tys := (fun _ => 0x154), z := (fun _ => true), lsels := (fun _ => 1), sat := (fun _ => true) },
  { opc := 0x04C, instr := .ineg, d := (fun _ => .v), a := (fun _ => .v), tys := (fun _ => tyInts), z := (fun _ => true), lsels := (fun _ => 1), sat := (fun _ => true) },
  { opc := 0x04D, instr := .iclamp, d := (fun _ => .v), a := (fun _ => .v), tys := (fun _ => tyInts), z := (fun _ => true), b := (fun _ => .vl), c := (fun _ => .vl), lsels := (fun _ => 7) },
  { opc := 0x04E, instr := .sadd, d := (fun _ => .v), a := (fun _ => .v), tys := (fun _ => tyInts), z := (fun _ => true), b := (fun _ => .vl), c := (fun _ => .vl), lsels := (fun _ => 7) },
  { opc := 0x04F, instr := .icmp, d := (fun _ => .g), a := (fun _ => .v), tys := (fun _ => tyInts), z := (fun _ => true), b := (fun _ => .vl), lsels := (fun _ => 3), modOk := (fun x => x.modBelow 27 && decide (x.m 23 3 ≤ 5) && (!x.mb 26 || tyWidth x.ty.toNat != 64)) }]

/-- Class 0x3, bit and address (R127). -/
def opRows3 : List OpRow := [
  { opc := 0x060, instr := .andB, d := (fun _ => .v), a := (fun _ => .v), tys := (fun _ => 0x1), z := (fun _ => true), b := (fun _ => .vl), lsels := (fun _ => 3) },
  { opc := 0x061, instr := .orB, d := (fun _ => .v), a := (fun _ => .v), tys := (fun _ => 0x1), z := (fun _ => true), b := (fun _ => .vl), lsels := (fun _ => 3) },
  { opc := 0x062, instr := .xorB, d := (fun _ => .v), a := (fun _ => .v), tys := (fun _ => 0x1), z := (fun _ => true), b := (fun _ => .vl), lsels := (fun _ => 3) },
  { opc := 0x063, instr := .notB, d := (fun _ => .v), a := (fun _ => .v), tys := (fun _ => 0x1), z := (fun _ => true), lsels := (fun _ => 1) },
  { opc := 0x064, instr := .lop3, d := (fun _ => .v), a := (fun _ => .v), tys := (fun _ => 0x1), z := (fun _ => true), b := (fun _ => .vl), c := (fun _ => .vl), lsels := (fun _ => 7), modOk := (fun x => x.modBelow 31) },
  { opc := 0x065, instr := .shl, d := (fun _ => .v), a := (fun _ => .v), tys := (fun _ => 0x1FF), z := (fun _ => true), b := (fun _ => .vl), lsels := (fun _ => 3) },
  { opc := 0x066, instr := .shr, d := (fun _ => .v), a := (fun _ => .v), tys := (fun _ => 0xAB), z := (fun _ => true), b := (fun _ => .vl), lsels := (fun _ => 3) },
  { opc := 0x067, instr := .sar, d := (fun _ => .v), a := (fun _ => .v), tys := (fun _ => 0x154), z := (fun _ => true), b := (fun _ => .vl), lsels := (fun _ => 3) },
  { opc := 0x068, instr := .rot, d := (fun _ => .v), a := (fun _ => .v), tys := (fun _ => 0xAB), z := (fun _ => true), b := (fun _ => .vl), lsels := (fun _ => 3), modOk := (fun x => x.modBelow 24) },
  { opc := 0x069, instr := .bfx, d := (fun _ => .v), a := (fun _ => .v), tys := (fun _ => 0x1F), z := (fun _ => true), b := (fun _ => .vl), lsels := (fun _ => 3) },
  { opc := 0x06A, instr := .bfi, d := (fun _ => .v), a := (fun _ => .v), tys := (fun _ => 0xB), z := (fun _ => true), b := (fun _ => .vl), c := (fun _ => .vl), lsels := (fun _ => 7) },
  { opc := 0x06B, instr := .popc, d := (fun _ => .v), a := (fun _ => .v), tys := (fun _ => 0xAB), z := (fun _ => true), lsels := (fun _ => 1) },
  { opc := 0x06C, instr := .clz, d := (fun _ => .v), a := (fun _ => .v), tys := (fun _ => 0xAB), z := (fun _ => true), lsels := (fun _ => 1) },
  { opc := 0x06D, instr := .ctz, d := (fun _ => .v), a := (fun _ => .v), tys := (fun _ => 0xAB), z := (fun _ => true), lsels := (fun _ => 1) },
  { opc := 0x06E, instr := .brev, d := (fun _ => .v), a := (fun _ => .v), tys := (fun _ => 0xAB), z := (fun _ => true), lsels := (fun _ => 1) },
  { opc := 0x06F, instr := .lea, d := (fun _ => .v), a := (fun _ => .v), tys := (fun _ => 0x2), z := (fun _ => true), b := (fun _ => .v), lsels := (fun _ => 9), modOk := (fun x => x.modBelow 27) }]

/-- Class 0x4, floating point (R149). The `.get` forms of `fpmode` and `fflags` take no literal (DESIGN CHOICE, log entry 100). -/
def opRows4 : List OpRow := [
  { opc := 0x080, instr := .fadd, d := (fun _ => .v), a := (fun _ => .v), tys := (fun _ => tyFloats), z := (fun _ => true), b := (fun _ => .vl), rm := (fun _ => true), lsels := (fun _ => 3) },
  { opc := 0x081, instr := .fsub, d := (fun _ => .v), a := (fun _ => .v), tys := (fun _ => tyFloats), z := (fun _ => true), b := (fun _ => .vl), rm := (fun _ => true), lsels := (fun _ => 3) },
  { opc := 0x082, instr := .fmul, d := (fun _ => .v), a := (fun _ => .v), tys := (fun _ => tyFloats), z := (fun _ => true), b := (fun _ => .vl), rm := (fun _ => true), lsels := (fun _ => 3) },
  { opc := 0x083, instr := .ffma, d := (fun _ => .v), a := (fun _ => .v), tys := (fun _ => tyFloats), z := (fun _ => true), b := (fun _ => .vl), c := (fun _ => .vl), rm := (fun _ => true), lsels := (fun _ => 7) },
  { opc := 0x084, instr := .fdiv, d := (fun _ => .v), a := (fun _ => .v), tys := (fun _ => tyFloats), z := (fun _ => true), b := (fun _ => .vl), rm := (fun _ => true), lsels := (fun _ => 3) },
  { opc := 0x085, instr := .fsqrt, d := (fun _ => .v), a := (fun _ => .v), tys := (fun _ => tyFloats), z := (fun _ => true), rm := (fun _ => true), lsels := (fun _ => 1) },
  { opc := 0x086, instr := .fmin, d := (fun _ => .v), a := (fun _ => .v), tys := (fun _ => tyFloats), z := (fun _ => true), b := (fun _ => .vl), lsels := (fun _ => 3) },
  { opc := 0x087, instr := .fmax, d := (fun _ => .v), a := (fun _ => .v), tys := (fun _ => tyFloats), z := (fun _ => true), b := (fun _ => .vl), lsels := (fun _ => 3) },
  { opc := 0x088, instr := .fminm, d := (fun _ => .v), a := (fun _ => .v), tys := (fun _ => tyFloats), z := (fun _ => true), b := (fun _ => .vl), lsels := (fun _ => 3) },
  { opc := 0x089, instr := .fmaxm, d := (fun _ => .v), a := (fun _ => .v), tys := (fun _ => tyFloats), z := (fun _ => true), b := (fun _ => .vl), lsels := (fun _ => 3) },
  { opc := 0x08A, instr := .fcmp, d := (fun _ => .g), a := (fun _ => .v), tys := (fun _ => tyFloats), z := (fun _ => true), b := (fun _ => .vl), lsels := (fun _ => 3), modOk := (fun x => x.modBelow 28 && decide (x.m 23 4 ≤ 7) && (!x.mb 27 || x.ty != 9)) },
  { opc := 0x08B, instr := .fclass, d := (fun _ => .v), a := (fun _ => .v), tys := (fun _ => tyFloats), z := (fun _ => true), lsels := (fun _ => 1) },
  { opc := 0x08C, instr := .fabs, d := (fun _ => .v), a := (fun _ => .v), tys := (fun _ => tyFloats), z := (fun _ => true), lsels := (fun _ => 1) },
  { opc := 0x08D, instr := .fneg, d := (fun _ => .v), a := (fun _ => .v), tys := (fun _ => tyFloats), z := (fun _ => true), lsels := (fun _ => 1) },
  { opc := 0x08E, instr := .fcopys, d := (fun _ => .v), a := (fun _ => .v), tys := (fun _ => tyFloats), z := (fun _ => true), b := (fun _ => .vl), lsels := (fun _ => 3) },
  { opc := 0x08F, instr := .frint, d := (fun _ => .v), a := (fun _ => .v), tys := (fun _ => tyFloats), z := (fun _ => true), rm := (fun _ => true), lsels := (fun _ => 1), modOk := (fun x => x.modBelow 24) },
  { opc := 0x090, instr := .fscale, d := (fun _ => .v), a := (fun _ => .v), tys := (fun _ => tyFloats), z := (fun _ => true), b := (fun _ => .vl), rm := (fun _ => true), lsels := (fun _ => 3) },
  { opc := 0x091, instr := .fgetexp, d := (fun _ => .v), a := (fun _ => .v), tys := (fun _ => tyFloats), z := (fun _ => true), lsels := (fun _ => 1) },
  { opc := 0x092, instr := .fgetman, d := (fun _ => .v), a := (fun _ => .v), tys := (fun _ => tyFloats), z := (fun _ => true), lsels := (fun _ => 1) },
  { opc := 0x093, instr := .frem, d := (fun _ => .v), a := (fun _ => .v), tys := (fun _ => tyFloats), z := (fun _ => true), b := (fun _ => .vl), lsels := (fun _ => 3) },
  { opc := 0x094, instr := .fdot2, d := (fun _ => .v), a := (fun _ => .v), tys := (fun _ => 0xC00), z := (fun _ => true), b := (fun _ => .vl), c := (fun _ => .vl), rm := (fun _ => true), lsels := (fun _ => 7) },
  { opc := 0x095, instr := (fun x => match x.m 23 2 with | 0 => .fpmodeGet x | 1 => .fpmodeRm x | _ => .fpmodeFtz x), d := (fun x => if x.m 23 2 = 0 then .v else .zero), b := (fun x => if x.m 23 2 = 0 then .zero else .vl), lsels := (fun x => if x.m 23 2 = 0 then 1 else 3), z := (fun x => x.m 23 2 == 0), modOk := (fun x => x.modBelow 25 && x.m 23 2 != 3), ok := (fun x => x.lsel != 1 || (x.m 23 2 == 1 && decide (x.rawLit ≤ 4)) || (x.m 23 2 == 2 && decide (x.rawLit ≤ 1))) },
  { opc := 0x096, instr := (fun x => match x.m 23 2 with | 0 => .fflagsGet x | 1 => .fflagsClr x | 2 => .fflagsSet x | _ => .fflagsTe x), d := (fun x => if x.m 23 2 = 0 then .v else .zero), b := (fun x => if x.m 23 2 = 0 then .zero else .vl), lsels := (fun x => if x.m 23 2 = 0 then 1 else 3), z := (fun x => x.m 23 2 == 0), modOk := (fun x => x.modBelow 25), ok := (fun x => x.lsel != 1 || decide (x.rawLit < 32)) }]

/-- Class 0x5, special function, conversion, random (R180). -/
def opRows5 : List OpRow := [
  { opc := 0x0A0, instr := .frcp, d := (fun _ => .v), a := (fun _ => .v), tys := (fun _ => tyFloats), z := (fun _ => true), rm := (fun _ => true) },
  { opc := 0x0A1, instr := .frsq, d := (fun _ => .v), a := (fun _ => .v), tys := (fun _ => tyFloats), z := (fun _ => true), rm := (fun _ => true) },
  { opc := 0x0A2, instr := .fexp2, d := (fun _ => .v), a := (fun _ => .v), tys := (fun _ => tyFloats), z := (fun _ => true) },
  { opc := 0x0A3, instr := .flog2, d := (fun _ => .v), a := (fun _ => .v), tys := (fun _ => tyFloats), z := (fun _ => true) },
  { opc := 0x0A4, instr := .fsin, d := (fun _ => .v), a := (fun _ => .v), tys := (fun _ => tyFloats), z := (fun _ => true) },
  { opc := 0x0A5, instr := .fcos, d := (fun _ => .v), a := (fun _ => .v), tys := (fun _ => tyFloats), z := (fun _ => true) },
  { opc := 0x0A6, instr := .ftanh, d := (fun _ => .v), a := (fun _ => .v), tys := (fun _ => tyFloats), z := (fun _ => true) },
  { opc := 0x0A7, instr := .fsigm, d := (fun _ => .v), a := (fun _ => .v), tys := (fun _ => tyFloats), z := (fun _ => true) },
  { opc := 0x0A8, instr := .cvt, d := (fun _ => .v), a := (fun _ => .v), tys := (fun _ => 0xFFE), z := (fun _ => true), rm := (fun x => tyFloat x.ty.toNat || tyFloat (x.m 23 4)), sat := (fun x => !tyFloat x.ty.toNat && !tyFloat (x.m 23 4)), modOk := (fun x => x.modBelow 30 && decide (1 ≤ x.m 23 4) && decide (x.m 23 4 ≤ 11) && cvtPartOk x.ty.toNat (x.m 23 4) (x.m 27 3)) },
  { opc := 0x0A9, instr := .pack, d := (fun _ => .v), a := (fun _ => .v), b := (fun _ => .vl), tys := (fun _ => 0xDF8), z := (fun _ => true), lsels := (fun _ => 3), rm := (fun x => tyFloat x.ty.toNat), sat := (fun x => !tyFloat x.ty.toNat), modOk := (fun x => x.modBelow 27 && packPairOk x.ty.toNat (x.m 23 4)) },
  { opc := 0x0AA, instr := .unpack, d := (fun _ => .v), a := (fun _ => .v), tys := (fun _ => 0x61E), z := (fun _ => true), modOk := (fun x => x.modBelow 28 && unpackPairOk x.ty.toNat (x.m 23 4)) },
  { opc := 0x0AB, instr := .rng, d := (fun _ => .v), a := (fun _ => .v), b := (fun _ => .vl), tys := (fun _ => 0x602), z := (fun _ => true), lsels := (fun _ => 3), modOk := (fun x => x.modBelow 30) },
  { opc := 0x0AC, instr := .rngk, d := (fun _ => .v), a := (fun _ => .v), b := (fun _ => .vl), tys := (fun _ => 0x2), z := (fun _ => true), lsels := (fun _ => 3) }]

/-- Class 0x6, register, run and guard (R82). -/
def opRows6 : List OpRow := [
  { opc := 0x0C0, instr := .vmov, d := (fun _ => .v), a := (fun x => if x.lsel = 1 then .zero else .v), b := (fun _ => .zero), tys := (fun _ => 0xFFF), z := (fun _ => true), lsels := (fun _ => 3) },
  { opc := 0x0C1, instr := .vset, d := (fun _ => .v), a := (fun _ => .v), b := (fun _ => .vl), tys := (fun _ => tyInts), z := (fun _ => true), lsels := (fun _ => 3), modOk := (fun x => x.modBelow 25) },
  { opc := 0x0C2, instr := .vsel, d := (fun _ => .v), a := (fun _ => .v), b := (fun _ => .vl), c := (fun x => if x.mb 23 then .zero else .g), tys := (fun _ => 0xFFF), z := (fun _ => true), lsels := (fun _ => 3), modOk := (fun x => if x.mb 23 then decide (x.m 24 8 < 2 ^ (64 / tyWidth x.ty.toNat)) else x.modBelow 24) },
  { opc := 0x0C3, instr := .vcoal, d := (fun _ => .v), a := (fun _ => .v), z := (fun _ => true) },
  { opc := 0x0C4, instr := .vruns, d := (fun _ => .v), a := (fun _ => .v), z := (fun _ => true), modOk := (fun x => x.modBelow 25) },
  { opc := 0x0C5, instr := .vname, d := (fun _ => .v), a := (fun _ => .v), z := (fun _ => true) },
  { opc := 0x0C6, instr := (fun x => if x.mb 23 then .vquotaSet x else .vquotaGet x), d := (fun _ => .v), b := (fun x => if x.mb 23 then .v else .zero), z := (fun _ => true), modOk := (fun x => x.modBelow 24) },
  { opc := 0x0C7, instr := .vfree, l64 := (fun _ => .required) },
  { opc := 0x0C8, instr := .glop, d := (fun _ => .g), a := (fun _ => .g), b := (fun _ => .g), z := (fun _ => true), modOk := (fun x => x.modBelow 27) },
  { opc := 0x0C9, instr := .gtov, d := (fun _ => .v), a := (fun _ => .g), z := (fun _ => true), modOk := (fun x => x.modBelow 24) },
  { opc := 0x0CA, instr := .vtog, d := (fun _ => .g), a := (fun _ => .v), z := (fun _ => true), modOk := (fun x => x.modBelow 31 && (x.m 23 2 == 3 || x.m 25 6 == 0)) },
  { opc := 0x0CB, instr := .gcnt, d := (fun _ => .v), a := (fun _ => .g), z := (fun _ => true), modOk := (fun x => x.modBelow 24) }]

/-- Class 0x7, cross-lane (R197). The lane of a `bcast` in the 160-bit form, with `.m` or without, is below 32 in its
L64 too (DESIGN CHOICE, log entry 103). -/
def opRows7 : List OpRow := [
  { opc := 0x0E0, instr := .shfl, d := (fun _ => .v), a := (fun _ => .v), b := (fun _ => .vl), z := (fun _ => true), lsels := (fun _ => 3), modOk := (fun x => decide (x.m 25 3 ≤ 4) && x.m 28 3 == 0), l32 := memberLit },
  { opc := 0x0E1, instr := .bcast, d := (fun _ => .v), a := (fun _ => .v), b := (fun _ => .vl), z := (fun _ => true), lsels := (fun _ => 3), modOk := (fun x => x.m 23 8 == 0), l32 := memberLit, ok := (fun x => x.lsel != 1 || decide (x.rawLit < 32)) },
  { opc := 0x0E2, instr := .vote, d := (fun x => if x.m 23 2 = 3 then .v else .g), a := (fun _ => .g), z := (fun _ => true), modOk := (fun x => x.m 25 6 == 0), l32 := memberLit },
  { opc := 0x0E3, instr := .matchLanes, d := (fun _ => .v), a := (fun _ => .v), z := (fun _ => true), tys := (fun _ => 0xE01), modOk := (fun x => x.m 24 7 == 0), l32 := memberLit },
  { opc := 0x0E4, instr := .vred, d := (fun _ => .v), a := (fun _ => .v), z := (fun _ => true), tys := (fun _ => 0xFFE), rm := (fun x => tyFloat x.ty.toNat), modOk := (fun x => decide (x.m 23 3 ≤ 5) && (!tyFloat x.ty.toNat || decide (x.m 23 3 ≤ 2)) && x.m 27 4 == 0), l32 := memberLit },
  { opc := 0x0E5, instr := .vscan, d := (fun _ => .v), a := (fun _ => .v), z := (fun _ => true), tys := (fun _ => 0xFFE), rm := (fun x => tyFloat x.ty.toNat), modOk := (fun x => decide (x.m 23 3 ≤ 5) && (!tyFloat x.ty.toNat || decide (x.m 23 3 ≤ 2)) && x.m 26 1 == 0 && x.m 28 3 == 0), l32 := memberLit },
  { opc := 0x0E6, instr := .xpat, d := (fun _ => .v), a := (fun _ => .v), b := (fun _ => .v), c := (fun _ => .x), z := (fun _ => true), modOk := (fun x => x.m 23 8 == 0), l32 := memberLit },
  { opc := 0x0E7, instr := .xtab, d := (fun _ => .v), a := (fun _ => .v), b := (fun _ => .vl), z := (fun _ => true), tys := (fun _ => 0xFFF), lsels := (fun _ => 3), modOk := (fun x => x.m 23 8 == 0), l32 := memberLit },
  { opc := 0x0E8, instr := .elect, d := (fun _ => .g), z := (fun _ => true), modOk := (fun x => x.m 23 8 == 0), l32 := memberLit },
  { opc := 0x0E9, instr := .lanes, d := (fun _ => .v), z := (fun _ => true), modOk := (fun x => x.modBelow 25) }]

/-- Class 0x8, memory (R225). -/
def opRows8 : List OpRow := [
  { opc := 0x100, instr := .ld, d := (fun _ => .v), a := (fun _ => .v), z := (fun _ => true), lsels := (fun _ => 9), modOk := (fun x => Nat.testBit 0b11111 (x.m 23 3) && x.m 30 2 != 3 && (!x.mb 28 || x.m 26 2 != 0) && (!x.mb 29 || x.m 23 3 == 0 || x.m 23 3 == 3)) },
  { opc := 0x101, instr := .st, a := (fun _ => .v), b := (fun _ => .vl), lsels := (fun _ => 11), modOk := (fun x => Nat.testBit 0b10111 (x.m 23 3) && x.m 30 2 != 3 && x.m 28 2 == 0) },
  { opc := 0x102, instr := .ldmx, d := (fun _ => .v), a := (fun _ => .v), z := (fun _ => true), tys := (fun _ => tyFloats), rm := (fun _ => true), lsels := (fun _ => 9), modOk := (fun x => Nat.testBit 0b11111 (x.m 23 3) && x.m 30 2 != 3 && mxFormatOk (x.m 26 4)) },
  { opc := 0x103, instr := .stmx, a := (fun _ => .v), b := (fun _ => .v), tys := (fun _ => tyFloats), sat := (fun _ => true), lsels := (fun _ => 9), modOk := (fun x => Nat.testBit 0b10111 (x.m 23 3) && x.m 30 2 != 3 && mxFormatOk (x.m 26 4)) },
  { opc := 0x104, instr := .ldc, d := (fun _ => .v), a := (fun _ => .v), z := (fun _ => true), lsels := (fun _ => 9), modOk := (fun x => Nat.testBit 0b11111 (x.m 23 3) && x.modBelow 26) },
  { opc := 0x105, instr := .stc, a := (fun _ => .v), b := (fun _ => .v), lsels := (fun _ => 9), modOk := (fun x => Nat.testBit 0b10111 (x.m 23 3) && x.modBelow 26) },
  { opc := 0x106, instr := .pref, a := (fun _ => .v), lsels := (fun _ => 9), modOk := (fun x => Nat.testBit 0b01001 (x.m 23 3) && x.m 30 2 != 3 && x.m 27 3 == 0) },
  { opc := 0x107, instr := (fun x => match x.m 23 3 with | 0 => .cctlInv x | 1 => .cctlDemote x | 2 => .cctlClean x | _ => .cctlInvall x), a := (fun _ => .v), lsels := (fun _ => 9), modOk := (fun x => x.modBelow 26 && decide (x.m 23 3 ≤ 3)) },
  { opc := 0x108, instr := .rinit, a := (fun _ => .v), b := (fun _ => .v), c := (fun _ => .q) },
  { opc := 0x109, instr := (fun x => if x.mb 23 then .rpushPut x else .rpushGet x), d := (fun x => if x.mb 23 then .zero else .v), a := (fun x => if x.mb 23 then .v else .zero), c := (fun _ => .q), z := (fun x => !x.mb 23), modOk := (fun x => x.modBelow 24) },
  { opc := 0x10A, instr := (fun x => if x.mb 23 then .rpopPut x else .rpopGet x), d := (fun x => if x.mb 23 then .zero else .v), a := (fun x => if x.mb 23 then .v else .zero), c := (fun _ => .q), z := (fun x => !x.mb 23), modOk := (fun x => x.modBelow 24) },
  { opc := 0x10B, instr := .rstat, d := (fun _ => .v), c := (fun _ => .q), z := (fun _ => true) }]

/-- Class 0x9, atomics and synchronisation (R261). -/
def opRows9 : List OpRow := [
  { opc := 0x120, instr := .atom, d := (fun x => if x.c.getLsbD 5 then .zero else .v), a := (fun _ => .v), b := (fun _ => .vl), c := (fun _ => .code), tys := (fun _ => 0x61E), z := (fun x => !x.c.getLsbD 5), lsels := (fun _ => 11), modOk := (syncOk 0b11111 0b111), ok := (fun x => !x.c.getLsbD 4 && atomOpOk (x.c.toNat % 16) x.ty.toNat) },
  { opc := 0x121, instr := .cas, d := (fun _ => .v), a := (fun _ => .v), b := (fun _ => .vl), c := (fun _ => .vl), tys := (fun _ => 0xA), z := (fun _ => true), lsels := (fun _ => 15), modOk := (syncOk 0b11111 0b111) },
  { opc := 0x122, instr := .ldacq, d := (fun _ => .v), a := (fun _ => .v), tys := (fun _ => 0xA), z := (fun _ => true), lsels := (fun _ => 9), modOk := (syncOk 0b10010 0b111) },
  { opc := 0x123, instr := .strel, a := (fun _ => .v), b := (fun _ => .vl), tys := (fun _ => 0xA), lsels := (fun _ => 11), modOk := (syncOk 0b10100 0b111) },
  { opc := 0x124, instr := .fence, modOk := (syncOk 0b11110 0b1) },
  { opc := 0x125, instr := .bar, b := (fun _ => .bar), modOk := (fun x => syncOk 0b1 0b1 x && (x.m 26 3 == 2 || x.m 26 3 == 3)), l32 := (fun _ => .optional) },
  { opc := 0x126, instr := .barr, d := (fun _ => .v), b := (fun _ => .bar), z := (fun _ => true), modOk := (fun x => syncOk 0b1 0b1 x && (x.m 26 3 == 2 || x.m 26 3 == 3)), l32 := (fun _ => .optional) },
  { opc := 0x127, instr := .barw, a := (fun _ => .v), b := (fun _ => .bar), modOk := (fun x => syncOk 0b1 0b1 x && (x.m 26 3 == 2 || x.m 26 3 == 3)) },
  { opc := 0x128, instr := .waitv, d := (fun _ => .v), a := (fun _ => .v), b := (fun _ => .vl), c := (fun _ => .code), tys := (fun _ => 0xA), z := (fun _ => true), lsels := (fun _ => 11), modOk := (syncOk 0b11 0b111), ok := (fun x => decide (x.c.toNat ≤ 5)) }]

/-- Class 0xA, matrix (R285). -/
def opRowsA : List OpRow := [
  { opc := 0x140, instr := .mma, d := (fun _ => .k), a := (fun _ => .v), b := (fun _ => .sa), c := (fun _ => .sb), modOk := (fun x => x.modBelow 26), l32 := (fun _ => .required), ok := (fun x => decide (x.l32.toNat < 2 ^ 15) && decide (x.l32.toNat / 2 ^ 7 % 16 + x.l32.toNat / 2 ^ 11 + 1 ≤ 16)) },
  { opc := 0x141, instr := .accz, l32 := (fun _ => .required), ok := (fun x => decide (x.l32.toNat < 128)) },
  { opc := 0x142, instr := .accld, d := (fun _ => .k), a := (fun _ => .v), b := (fun _ => .v), modOk := (fun x => decide (x.m 23 4 ≤ 2) && decide (x.m 27 3 ≤ 2) && x.modBelow 30), l32 := (fun _ => .required), ok := (fun x => decide (x.l32.toNat < 128)) },
  { opc := 0x143, instr := .accst, d := (fun _ => .k), a := (fun _ => .v), b := (fun _ => .v), modOk := (fun x => decide (x.m 23 4 ≤ 2) && decide (x.m 27 3 ≤ 2) && x.modBelow 30), l32 := (fun _ => .required), ok := (fun x => decide (x.l32.toNat < 128)), sat := (fun _ => true) },
  { opc := 0x144, instr := .acccp, modOk := (fun x => x.modBelow 24), l32 := (fun _ => .required), ok := (fun x => decide (x.l32.toNat < 2 ^ 15) && !x.l32.getLsbD 7) },
  { opc := 0x145, instr := .accrd, d := (fun _ => .v), a := (fun _ => .v), tys := (fun _ => 0x400), z := (fun _ => true) },
  { opc := 0x146, instr := .accwr, a := (fun _ => .v), b := (fun _ => .v), tys := (fun _ => 0x400) },
  { opc := 0x147, instr := .mstat, d := (fun _ => .v), a := (fun x => if x.m 23 2 = 3 then .v else .zero), b := (fun x => if x.m 23 2 = 1 ∨ x.m 23 2 = 2 then .st else .zero), z := (fun _ => true), modOk := (fun x => x.modBelow 25) },
  { opc := 0x148, instr := (fun x => if x.mb 23 then .mbindFree x else .mbind x), d := (fun _ => .st), a := (fun x => if x.mb 23 then .zero else .v), modOk := (fun x => x.modBelow 24) }]

/-- Class 0xB, Tender (R300). -/
def opRowsB : List OpRow := [
  { opc := 0x160, instr := .tcopy, d := (fun _ => .k), a := (fun _ => .v), modOk := (fun x => decide (x.m 23 3 ≤ 3) && decide (x.m 26 3 ≤ 2) && x.m 29 1 == 0 && x.m 30 2 != 3) },
  { opc := 0x161, instr := .tgather, d := (fun _ => .k), a := (fun _ => .v), modOk := (fun x => decide (x.m 23 3 ≤ 3) && decide (x.m 26 3 ≤ 2) && x.m 29 1 == 0 && x.m 30 2 != 3) },
  { opc := 0x162, instr := .tscatter, d := (fun _ => .k), a := (fun _ => .v), modOk := (fun x => decide (x.m 23 3 ≤ 3) && decide (x.m 26 3 ≤ 2) && x.m 29 1 == 0 && x.m 30 2 != 3) },
  { opc := 0x163, instr := .tfeed, d := (fun _ => .k), a := (fun _ => .v), b := (fun _ => .st), modOk := (fun x => decide (x.m 23 3 ≤ 3) && x.modBelow 30) },
  { opc := 0x164, instr := .tfill, d := (fun _ => .k), a := (fun _ => .v), modOk := (fun x => x.m 25 1 == 0 && decide (x.m 26 3 ≤ 2) && x.m 29 1 == 0 && x.m 30 2 != 3) },
  { opc := 0x165, instr := .tconv, d := (fun _ => .k), a := (fun _ => .v), modOk := (fun x => decide (x.m 23 3 ≤ 3) && decide (x.m 26 3 ≤ 2) && x.m 29 1 == 0 && x.m 30 2 != 3) },
  { opc := 0x166, instr := .tring, d := (fun _ => .k), a := (fun _ => .v), b := (fun _ => .q), modOk := (fun x => decide (x.m 23 3 ≤ 3) && x.modBelow 26) },
  { opc := 0x167, instr := .tstat, d := (fun _ => .v), a := (fun _ => .k), z := (fun _ => true), modOk := (fun x => decide (x.m 23 2 ≤ 2) && x.modBelow 25) }]

/-- Class 0xC, page (R327). -/
def opRowsC : List OpRow := [
  { opc := 0x180, instr := .pgnew, d := (fun _ => .k), a := (fun _ => .v) },
  { opc := 0x181, instr := (fun x => if x.mb 23 then .pgappRef x else .pgapp x), d := (fun _ => .k), a := (fun _ => .v), modOk := (fun x => x.modBelow 24) },
  { opc := 0x182, instr := .pgfree, d := (fun _ => .k), a := (fun _ => .v) },
  { opc := 0x183, instr := (fun x => if x.mb 23 then .pgpinHold x else .pgpin x), a := (fun _ => .v), modOk := (fun x => x.modBelow 24) },
  { opc := 0x184, instr := (fun x => if x.mb 23 then .pgunpinHold x else .pgunpin x), a := (fun _ => .v), modOk := (fun x => x.modBelow 24) },
  { opc := 0x185, instr := .pgtrunc, d := (fun _ => .k), a := (fun _ => .v) },
  { opc := 0x186, instr := .pgdemote, d := (fun _ => .k), a := (fun _ => .v) },
  { opc := 0x187, instr := .pginfo, d := (fun _ => .v), a := (fun _ => .v), z := (fun _ => true), modOk := (fun x => x.modBelow 25) },
  { opc := 0x188, instr := .pglook, d := (fun _ => .k), a := (fun _ => .v) },
  { opc := 0x189, instr := .pgsum, d := (fun _ => .k), a := (fun _ => .v) },
  { opc := 0x18A, instr := (fun x => if x.mb 23 then .pgmassSet x else .pgmassGet x), d := (fun x => if x.mb 23 then .zero else .v), a := (fun _ => .v), b := (fun x => if x.mb 23 then .v else .zero), z := (fun x => !x.mb 23), modOk := (fun x => x.modBelow 24) }]

/-- Class 0xD, attention, selection, prefix (R339). -/
def opRowsD : List OpRow := [
  { opc := 0x1A0, instr := .psel, d := (fun _ => .k), a := (fun _ => .v) },
  { opc := 0x1A1, instr := .atts, d := (fun _ => .k), a := (fun _ => .v), modOk := (fun x => x.modBelow 24) },
  { opc := 0x1A2, instr := .attv, d := (fun _ => .k), a := (fun _ => .v) },
  { opc := 0x1A3, instr := .attf, d := (fun _ => .k), a := (fun _ => .v), modOk := (fun x => x.modBelow 25 && x.mod != 0) },
  { opc := 0x1A4, instr := .pfxh, d := (fun _ => .k), a := (fun _ => .v), modOk := (fun x => x.modBelow 24) },
  { opc := 0x1A5, instr := .pfxl, d := (fun _ => .v), a := (fun _ => .v), b := (fun _ => .v), z := (fun _ => true), modOk := (fun x => x.modBelow 24) },
  { opc := 0x1A6, instr := .pfxi, d := (fun _ => .v), a := (fun _ => .v), b := (fun _ => .v), z := (fun _ => true) },
  { opc := 0x1A7, instr := (fun x => if x.mb 23 then .pfxdUnpin x else .pfxd x), d := (fun _ => .v), a := (fun _ => .v), b := (fun _ => .v), z := (fun _ => true), modOk := (fun x => x.modBelow 24) }]

/-- Class 0xE, system and debug (R409). -/
def opRowsE : List OpRow := [
  { opc := 0x1C0, instr := .trap, l32 := (fun _ => .optional), ok := (fun x => decide (x.l32.toNat < 2 ^ 16)), s := true },
  { opc := 0x1C1, instr := .rte, s := true, priv := (fun _ => true) },
  { opc := 0x1C2, instr := (fun x => if x.mb 30 then .movsWrite x else .movsRead x), d := (fun x => if x.mb 30 then .zero else .v), b := (fun x => if x.mb 30 then .v else .zero), z := (fun x => !x.mb 30), modOk := (fun x => x.modBelow 31 && (if x.mb 30 then sregMovsWritable (x.m 23 7) else sregReadable (x.m 23 7))), priv := (fun x => !x.mb 30 && decide (0x40 ≤ x.m 23 7)) },
  { opc := 0x1C3, instr := .movsp, b := (fun _ => .v), modOk := (fun x => x.modBelow 30 && sregMovspWritable (x.m 23 7)), priv := (fun _ => true) },
  { opc := 0x1C4, instr := .logrec, a := (fun _ => .v), b := (fun _ => .v), l32 := (fun _ => .required), ok := (fun x => decide (x.l32.toNat < 2 ^ 16)), priv := (fun _ => true) },
  { opc := 0x1C5, instr := .cntrd, d := (fun _ => .v), z := (fun _ => true), modOk := (fun x => x.modBelow 30 && counterExists (x.m 23 7)) },
  { opc := 0x1C6, instr := (fun x => match x.m 23 2 with | 0 => .cntcfgSel x | 1 => .cntcfgClr x | 2 => .cntcfgFrz x | _ => .cntcfgRun x), b := (fun x => if x.m 23 2 ≤ 1 then .vl else .zero), tys := (fun x => if x.lsel = 1 then 2 else 1), lsels := (fun x => if x.m 23 2 ≤ 1 then 3 else 1), modOk := (fun x => x.modBelow 28 && (x.m 23 2 == 0 || x.m 25 3 == 0)), ok := (fun x => x.lsel != 1 || (x.m 23 2 == 0 && decide (x.rawLit ≤ 0x0B)) || (x.m 23 2 == 1 && decide (x.rawLit ≤ 0x1FF))), priv := (fun _ => true) },
  { opc := 0x1C7, instr := .bkpt, s := true },
  { opc := 0x1C8, instr := (fun x => if x.mb 23 then .tlbinvAll x else .tlbinvVa x), a := (fun x => if x.mb 23 then .zero else .v), lsels := (fun x => if x.mb 23 then 1 else 9), modOk := (fun x => x.modBelow 24), priv := (fun _ => true) }]

/-- The opcode map of R37: the rows of one class. Class 0xF has none. -/
def opRowsOf (cls : Nat) : List OpRow :=
  match cls with
  | 0 => opRows0
  | 1 => opRows1
  | 2 => opRows2
  | 3 => opRows3
  | 4 => opRows4
  | 5 => opRows5
  | 6 => opRows6
  | 7 => opRows7
  | 8 => opRows8
  | 9 => opRows9
  | 10 => opRowsA
  | 11 => opRowsB
  | 12 => opRowsC
  | 13 => opRowsD
  | 14 => opRowsE
  | _ => []

/-- The row of an opcode (R31: CLASS × 32 + OP). -/
def opRow (opc : Nat) : Option OpRow := (opRowsOf (opc / 32)).find? (fun r => r.opc == opc)

/-- A field that the form does not use, or that a literal supplies, is zero (R34, R35). -/
def FieldKind.zeroOk (k : FieldKind) (fromLit : Bool) (f : BitVec 6) : Bool :=
  match k with
  | .zero => f == 0
  | .vl => !fromLit || f == 0
  | _ => true

/-- A handle lies in its file (R40): the check of the last row of R47's table. -/
def FieldKind.inRange (k : FieldKind) (x : Ext) (f : BitVec 6) : Bool :=
  match k with
  | .g | .q | .sa => decide (f.toNat < 16)
  | .k | .x => decide (f.toNat < 8)
  | .sb => decide (16 ≤ f.toNat) && decide (f.toNat < 20)
  | .st => decide (f.toNat < 20)
  | .bar => decide (f.toNat < if x.m 26 3 = 2 then 16 else 4)
  | _ => true

/-- R36: L32 fits the type of the literal. -/
def Ext.widenOk (x : Ext) : Bool :=
  match tyWidth x.ty.toNat with
  | 16 => decide (x.l32.toNat < 2 ^ 16)
  | 8 => decide (x.l32.toNat < 2 ^ 8)
  | _ => true

/-- C is a data source that LSEL 0b11 may supply: only `cas` has one (R35, R261). -/
def OpRow.cLit (r : OpRow) : Bool := r.opc == 0x121

/-- R35, R39: the length carries what LSEL and the description need, and no unconsumed literal word is nonzero. -/
def OpRow.litsOk (r : OpRow) (x : Ext) : Bool :=
  match x.len with
  | .w32 => false
  | .w64 => x.lsel == 0 && r.l32 x != .required && r.l64 x != .required && x.l32 == 0 && x.l64 == 0
  | .w96 => x.l64 == 0 && r.l64 x != .required &&
    (if x.lsel = 0 then r.l32 x != .unused || x.l32 == 0
     else r.l32 x != .required && (x.lsel == 3 || x.widenOk))
  | .w160 =>
    if x.lsel = 0 then (r.l32 x != .unused || x.l32 == 0) && (r.l64 x != .unused || x.l64 == 0)
    else if x.lsel = 3 then r.l32 x != .required && (r.cLit || x.l64 == 0)
    else r.l64 x != .required && (r.l32 x != .unused || x.l32 == 0)

/-- The guard fields (R27): GP and GN are zero without GE. -/
def guardOk (ge gn : Bool) (gp : BitVec 4) : Bool := ge || (!gn && gp == 0)

/-- Every case of R47's table that raises illegal instruction (0x01), once the row is known. -/
def OpRow.legal (r : OpRow) (x : Ext) : Bool :=
  (r.tys x).testBit x.ty.toNat && decide (x.ty.toNat < 12) &&
  (if r.rm x then decide (x.rm.toNat ≤ 5) else x.rm == 0) &&
  (r.sat x || !x.sat) && (r.z x || !x.z) && guardOk x.ge x.gn x.gp &&
  (r.lsels x).testBit x.lsel.toNat &&
  (r.d x).zeroOk false x.d && (r.a x).zeroOk false x.a && (r.b x).zeroOk (x.lsel == 1) x.b &&
  (r.c x).zeroOk (x.lsel == 2 || (x.lsel == 3 && x.len == .w160)) x.c &&
  r.modOk x && r.litsOk x && r.ok x && (!r.s || x.s)

/-- Every handle of the encoding is in range (R40). -/
def OpRow.handlesOk (r : OpRow) (x : Ext) : Bool :=
  (r.d x).inRange x x.d && (r.a x).inRange x x.a && (r.b x).inRange x x.b && (r.c x).inRange x x.c &&
  (!(r.opc == 0x042 || r.opc == 0x043) || decide (x.m 23 4 < 16))

/-- The fields that a compact opcode does not use (R30): a bit each for D, A and B. -/
def compactUnused (cop : Nat) : Bool × Bool × Bool :=
  match cop with
  | 0x00 => (true, true, true)
  | 0x01 | 0x1C | 0x1E => (false, false, true)
  | 0x1D | 0x1F => (true, false, false)
  | _ => (false, false, false)

/-- R30, R47: a compact instruction has its unused fields and an unused guard at zero. -/
def Compact.legal (c : Compact) (cop : Nat) : Bool :=
  guardOk c.ge c.gn c.gp && (!(compactUnused cop).1 || c.d == 0) && (!(compactUnused cop).2.1 || c.a == 0) &&
  (!(compactUnused cop).2.2 || c.b == 0)

/-- How an instruction is written: a compact opcode, an extended opcode, or a step that is no instruction word. -/
inductive Form where
  | compact (cop : Nat) (c : Compact)
  | ext (opc : Nat) (x : Ext)
  | event
  deriving DecidableEq, Repr

/-- The form and opcode of each constructor (R30, R37). -/
def Instr.form (i : Instr) : Form :=
  match i with
  | .nopCompact c => .compact 0x00 c
  | .vmovCompact c => .compact 0x01 c
  | .iaddU64Compact c => .compact 0x02 c
  | .isubU64Compact c => .compact 0x03 c
  | .imulU64Compact c => .compact 0x04 c
  | .imadU64Compact c => .compact 0x05 c
  | .iminI64Compact c => .compact 0x06 c
  | .imaxI64Compact c => .compact 0x07 c
  | .iaddU32x2Compact c => .compact 0x08 c
  | .andB64Compact c => .compact 0x09 c
  | .orB64Compact c => .compact 0x0A c
  | .xorB64Compact c => .compact 0x0B c
  | .shlB64Compact c => .compact 0x0C c
  | .shrB64Compact c => .compact 0x0D c
  | .sarI64Compact c => .compact 0x0E c
  | .faddF64Compact c => .compact 0x0F c
  | .fsubF64Compact c => .compact 0x10 c
  | .fmulF64Compact c => .compact 0x11 c
  | .ffmaF64Compact c => .compact 0x12 c
  | .fminF64Compact c => .compact 0x13 c
  | .fmaxF64Compact c => .compact 0x14 c
  | .faddF32x2Compact c => .compact 0x15 c
  | .fsubF32x2Compact c => .compact 0x16 c
  | .fmulF32x2Compact c => .compact 0x17 c
  | .ffmaF32x2Compact c => .compact 0x18 c
  | .faddBf16x4Compact c => .compact 0x19 c
  | .fmulBf16x4Compact c => .compact 0x1A c
  | .ffmaBf16x4Compact c => .compact 0x1B c
  | .ldGlobalCompact c => .compact 0x1C c
  | .stGlobalCompact c => .compact 0x1D c
  | .ldScratchCompact c => .compact 0x1E c
  | .stScratchCompact c => .compact 0x1F c
  | .bra x => .ext 0x000 x
  | .brx x => .ext 0x001 x
  | .call x => .ext 0x002 x
  | .callx x => .ext 0x003 x
  | .ret x => .ext 0x004 x
  | .loopSetO x => .ext 0x005 x
  | .loopSetI x => .ext 0x005 x
  | .loopI x => .ext 0x005 x
  | .loopO x => .ext 0x005 x
  | .loopIo x => .ext 0x005 x
  | .lbrk x => .ext 0x006 x
  | .lbrkZ x => .ext 0x006 x
  | .rejoin x => .ext 0x007 x
  | .yield x => .ext 0x008 x
  | .exit x => .ext 0x009 x
  | .exitTo x => .ext 0x009 x
  | .sleep x => .ext 0x00A x
  | .sleepWake _ => .event
  | .nop x => .ext 0x00B x
  | .launch x => .ext 0x020 x
  | .callg x => .ext 0x021 x
  | .signal x => .ext 0x022 x
  | .waitc x => .ext 0x023 x
  | .testc x => .ext 0x024 x
  | .karm x => .ext 0x025 x
  | .karmWatchCheck _ => .event
  | .stagePut x => .ext 0x026 x
  | .stageGet x => .ext 0x027 x
  | .step x => .ext 0x028 x
  | .cancel x => .ext 0x029 x
  | .iadd x => .ext 0x040 x
  | .isub x => .ext 0x041 x
  | .iaddc x => .ext 0x042 x
  | .isubb x => .ext 0x043 x
  | .imul x => .ext 0x044 x
  | .imulh x => .ext 0x045 x
  | .imad x => .ext 0x046 x
  | .idiv x => .ext 0x047 x
  | .irem x => .ext 0x048 x
  | .imin x => .ext 0x049 x
  | .imax x => .ext 0x04A x
  | .iabs x => .ext 0x04B x
  | .ineg x => .ext 0x04C x
  | .iclamp x => .ext 0x04D x
  | .sadd x => .ext 0x04E x
  | .icmp x => .ext 0x04F x
  | .andB x => .ext 0x060 x
  | .orB x => .ext 0x061 x
  | .xorB x => .ext 0x062 x
  | .notB x => .ext 0x063 x
  | .lop3 x => .ext 0x064 x
  | .shl x => .ext 0x065 x
  | .shr x => .ext 0x066 x
  | .sar x => .ext 0x067 x
  | .rot x => .ext 0x068 x
  | .bfx x => .ext 0x069 x
  | .bfi x => .ext 0x06A x
  | .popc x => .ext 0x06B x
  | .clz x => .ext 0x06C x
  | .ctz x => .ext 0x06D x
  | .brev x => .ext 0x06E x
  | .lea x => .ext 0x06F x
  | .fadd x => .ext 0x080 x
  | .fsub x => .ext 0x081 x
  | .fmul x => .ext 0x082 x
  | .ffma x => .ext 0x083 x
  | .fdiv x => .ext 0x084 x
  | .fsqrt x => .ext 0x085 x
  | .fmin x => .ext 0x086 x
  | .fmax x => .ext 0x087 x
  | .fminm x => .ext 0x088 x
  | .fmaxm x => .ext 0x089 x
  | .fcmp x => .ext 0x08A x
  | .fclass x => .ext 0x08B x
  | .fabs x => .ext 0x08C x
  | .fneg x => .ext 0x08D x
  | .fcopys x => .ext 0x08E x
  | .frint x => .ext 0x08F x
  | .fscale x => .ext 0x090 x
  | .fgetexp x => .ext 0x091 x
  | .fgetman x => .ext 0x092 x
  | .frem x => .ext 0x093 x
  | .fdot2 x => .ext 0x094 x
  | .fpmodeGet x => .ext 0x095 x
  | .fpmodeRm x => .ext 0x095 x
  | .fpmodeFtz x => .ext 0x095 x
  | .fflagsGet x => .ext 0x096 x
  | .fflagsClr x => .ext 0x096 x
  | .fflagsSet x => .ext 0x096 x
  | .fflagsTe x => .ext 0x096 x
  | .frcp x => .ext 0x0A0 x
  | .frsq x => .ext 0x0A1 x
  | .fexp2 x => .ext 0x0A2 x
  | .flog2 x => .ext 0x0A3 x
  | .fsin x => .ext 0x0A4 x
  | .fcos x => .ext 0x0A5 x
  | .ftanh x => .ext 0x0A6 x
  | .fsigm x => .ext 0x0A7 x
  | .cvt x => .ext 0x0A8 x
  | .pack x => .ext 0x0A9 x
  | .unpack x => .ext 0x0AA x
  | .rng x => .ext 0x0AB x
  | .rngk x => .ext 0x0AC x
  | .vmov x => .ext 0x0C0 x
  | .vset x => .ext 0x0C1 x
  | .vsel x => .ext 0x0C2 x
  | .vcoal x => .ext 0x0C3 x
  | .vruns x => .ext 0x0C4 x
  | .vname x => .ext 0x0C5 x
  | .vquotaGet x => .ext 0x0C6 x
  | .vquotaSet x => .ext 0x0C6 x
  | .vfree x => .ext 0x0C7 x
  | .glop x => .ext 0x0C8 x
  | .gtov x => .ext 0x0C9 x
  | .vtog x => .ext 0x0CA x
  | .gcnt x => .ext 0x0CB x
  | .shfl x => .ext 0x0E0 x
  | .bcast x => .ext 0x0E1 x
  | .vote x => .ext 0x0E2 x
  | .matchLanes x => .ext 0x0E3 x
  | .vred x => .ext 0x0E4 x
  | .vscan x => .ext 0x0E5 x
  | .xpat x => .ext 0x0E6 x
  | .xtab x => .ext 0x0E7 x
  | .elect x => .ext 0x0E8 x
  | .lanes x => .ext 0x0E9 x
  | .ld x => .ext 0x100 x
  | .st x => .ext 0x101 x
  | .ldmx x => .ext 0x102 x
  | .stmx x => .ext 0x103 x
  | .ldc x => .ext 0x104 x
  | .stc x => .ext 0x105 x
  | .pref x => .ext 0x106 x
  | .cctlInv x => .ext 0x107 x
  | .cctlDemote x => .ext 0x107 x
  | .cctlClean x => .ext 0x107 x
  | .cctlInvall x => .ext 0x107 x
  | .rinit x => .ext 0x108 x
  | .rpushGet x => .ext 0x109 x
  | .rpushPut x => .ext 0x109 x
  | .rpopGet x => .ext 0x10A x
  | .rpopPut x => .ext 0x10A x
  | .rstat x => .ext 0x10B x
  | .atom x => .ext 0x120 x
  | .cas x => .ext 0x121 x
  | .ldacq x => .ext 0x122 x
  | .strel x => .ext 0x123 x
  | .fence x => .ext 0x124 x
  | .bar x => .ext 0x125 x
  | .barr x => .ext 0x126 x
  | .barw x => .ext 0x127 x
  | .waitv x => .ext 0x128 x
  | .waitvNotify _ _ => .event
  | .mma x => .ext 0x140 x
  | .accz x => .ext 0x141 x
  | .accld x => .ext 0x142 x
  | .accst x => .ext 0x143 x
  | .acccp x => .ext 0x144 x
  | .accrd x => .ext 0x145 x
  | .accwr x => .ext 0x146 x
  | .mstat x => .ext 0x147 x
  | .mbind x => .ext 0x148 x
  | .mbindFree x => .ext 0x148 x
  | .tcopy x => .ext 0x160 x
  | .tgather x => .ext 0x161 x
  | .tscatter x => .ext 0x162 x
  | .tfeed x => .ext 0x163 x
  | .tfill x => .ext 0x164 x
  | .tconv x => .ext 0x165 x
  | .tring x => .ext 0x166 x
  | .tstat x => .ext 0x167 x
  | .pgnew x => .ext 0x180 x
  | .pgapp x => .ext 0x181 x
  | .pgappRef x => .ext 0x181 x
  | .pgfree x => .ext 0x182 x
  | .pgpin x => .ext 0x183 x
  | .pgpinHold x => .ext 0x183 x
  | .pgunpin x => .ext 0x184 x
  | .pgunpinHold x => .ext 0x184 x
  | .pgtrunc x => .ext 0x185 x
  | .pgdemote x => .ext 0x186 x
  | .pginfo x => .ext 0x187 x
  | .pglook x => .ext 0x188 x
  | .pgsum x => .ext 0x189 x
  | .pgmassGet x => .ext 0x18A x
  | .pgmassSet x => .ext 0x18A x
  | .psel x => .ext 0x1A0 x
  | .atts x => .ext 0x1A1 x
  | .attv x => .ext 0x1A2 x
  | .attf x => .ext 0x1A3 x
  | .pfxh x => .ext 0x1A4 x
  | .pfxl x => .ext 0x1A5 x
  | .pfxi x => .ext 0x1A6 x
  | .pfxd x => .ext 0x1A7 x
  | .pfxdUnpin x => .ext 0x1A7 x
  | .trap x => .ext 0x1C0 x
  | .rte x => .ext 0x1C1 x
  | .movsRead x => .ext 0x1C2 x
  | .movsWrite x => .ext 0x1C2 x
  | .movsp x => .ext 0x1C3 x
  | .logrec x => .ext 0x1C4 x
  | .cntrd x => .ext 0x1C5 x
  | .cntcfgSel x => .ext 0x1C6 x
  | .cntcfgClr x => .ext 0x1C6 x
  | .cntcfgFrz x => .ext 0x1C6 x
  | .cntcfgRun x => .ext 0x1C6 x
  | .bkpt x => .ext 0x1C7 x
  | .tlbinvVa x => .ext 0x1C8 x
  | .tlbinvAll x => .ext 0x1C8 x
  | .longLatencyResultWrite _ _ _ => .event
  | .warpTrapAction _ => .event
  | .timerExpiry _ => .event
  | .l1Fill _ => .event
  | .l1LeaseExpiry _ _ => .event
  | .homeSliceRead _ => .event
  | .homeSliceWrite _ => .event
  | .heldPoolWriteProceed => .event
  | .hpoolPressureMove => .event
  | .vaultAccess _ => .event
  | .storeCompletionReturn _ => .event
  | .acquireComplete _ => .event
  | .fenceComplete _ => .event
  | .beaconTicket _ => .event
  | .frontierAtomicPerform _ => .event
  | .orderingWaitDeadlock _ => .event
  | .commit => .event
  | .peerDigestExchange _ _ => .event
  | .ebbVisit _ => .event
  | .ebbSwap _ => .event
  | .hatchSweepVisit => .event
  | .hatchFetch _ _ => .event
  | .gantryPassStart _ => .event
  | .gantryPassDrain _ => .event
  | .tenderOpStart _ => .event
  | .engineOpFinish _ => .event
  | .lqTailDoorbell _ _ => .event
  | .launchAdmission _ => .event
  | .groupDispatch => .event
  | .launchEnd _ => .event
  | .preemption => .event
  | .stageTargetAdjust => .event
  | .deviceReset _ => .event
  | .breakwaterPowerLimit => .event
  | .railCurrentLimit => .event
  | .thermalThrottle => .event
  | .thermalTrip => .event
  | .coolantFlowLow => .event
  | .portcullisAlarm _ => .event
  | .debugUnlockAttempt => .event
  | .attest => .event
  | .stageFirmwareImage => .event
  | .activateFirmwareImage => .event
  | .readPortcullisLog => .event
  | .clearHaltedLaunch => .event
  | .provisionIdentityKey => .event
  | .mailboxUnassignedCommand => .event
  | .ttInv => .event
  | .descriptorApertureWrite _ _ => .event
  | .trcCtlWrite _ => .event
  | .replResume => .event
  | .managementRegisterWrite _ _ => .event
  | .hostCxlRead _ _ _ => .event
  | .hostCxlWrite _ _ _ => .event
  | .peerInboundAccess _ _ => .event
  | .peerWriteAck _ => .event
  | .peerLinkDown _ => .event
  | .traceRecordWrite => .event
  | .clockLimitClears _ => .event
  | .peerLinkTrained _ => .event
  | .hatchSpillComplete _ => .event

/-- A well-formed instruction: an encoding of the manual's tables, whose fields are legal and whose handles exist. Privilege
is not part of it. A step of the device that is no instruction word is well formed as it stands. -/
def Instr.wf (i : Instr) : Bool :=
  match i.form with
  | .compact cop c => c.legal cop
  | .ext opc x =>
    match opRow opc with
    | some r => r.legal x && r.handlesOk x && decide (r.instr x = i)
    | none => false
  | .event => true

/-- The instruction has words: it is not one of the device's own steps. -/
def Instr.coded (i : Instr) : Bool := i.form != .event

end Sys2Proof
end

