-- ==== Sys2Proof/Decode.lean ====
section
/-! DEFINITION. From words to instructions and back (spec 02, R26 to R40, R47). Decoding is total on any bytes: what is no
instruction is rejected under the name of R47's cause. The encoder lays the same fields out again. -/

namespace Sys2Proof

/-- Why words are no instruction: the causes of R47, and a list of bytes that ends inside the instruction. -/
inductive DecodeFault where
  | illegal      -- 0x01
  | privilege    -- 0x02
  | badHandle    -- 0x08
  | truncated    -- fewer bytes than LEN states
  deriving DecidableEq, Repr

/-- The cause code of R398 that a decode fault records. -/
def DecodeFault.cause : DecodeFault → Nat
  | .illegal => 0x01
  | .privilege => 0x02
  | .badHandle => 0x08
  | .truncated => 0x04

/-- A field of a word: bits [lo+n-1 : lo]. -/
def Half.field (w : Half) (lo n : Nat) : BitVec n := w.extractLsb' lo n

/-- LEN, bits [1:0] of word 0 (R26, R27). -/
def lenOf (w0 : Half) : Len :=
  match (Half.field w0 0 2).toNat with
  | 0 => .w32 | 1 => .w64 | 2 => .w96 | _ => .w160

/-- LEN's two bits. -/
def Len.code : Len → BitVec 2
  | .w32 => 0#2 | .w64 => 1#2 | .w96 => 2#2 | .w160 => 3#2

/-- The fields of a compact form (R27, R29). -/
def compactOf (w0 : Half) : Compact :=
  { ge := w0.getLsbD 3, gn := w0.getLsbD 8, gp := Half.field w0 4 4, s := w0.getLsbD 2
    b := Half.field w0 26 6, a := Half.field w0 20 6, d := Half.field w0 14 6 }

/-- The opcode of a compact form, bits [13:9] (R29). -/
def copOf (w0 : Half) : Nat := (Half.field w0 9 5).toNat

/-- OPC, bits [17:9] of word 0 (R31). -/
def opcOf (w0 : Half) : Nat := (Half.field w0 9 9).toNat

/-- The fields of an extended form (R27, R31, R32, R35). A literal word that LEN does not give is passed as zero. -/
def extOf (w0 w1 w2 w3 w4 : Half) : Ext :=
  { len := lenOf w0, ge := w0.getLsbD 3, gn := w0.getLsbD 8, gp := Half.field w0 4 4, s := w0.getLsbD 2
    a := Half.field w0 24 6, d := Half.field w0 18 6
    mod := Half.field w1 23 9, lsel := Half.field w1 21 2, sat := w1.getLsbD 20, z := w1.getLsbD 19
    rm := Half.field w1 16 3, ty := Half.field w1 12 4, c := Half.field w1 6 6, b := Half.field w1 0 6
    l32 := w2, l64 := w4 ++ w3 }

/-- The instruction of each compact opcode (R30). -/
def compactInstr (cop : Nat) (c : Compact) : Option Instr :=
  match cop with
  | 0x00 => some (.nopCompact c) | 0x01 => some (.vmovCompact c) | 0x02 => some (.iaddU64Compact c) | 0x03 => some (.isubU64Compact c)
  | 0x04 => some (.imulU64Compact c) | 0x05 => some (.imadU64Compact c) | 0x06 => some (.iminI64Compact c) | 0x07 => some (.imaxI64Compact c)
  | 0x08 => some (.iaddU32x2Compact c) | 0x09 => some (.andB64Compact c) | 0x0A => some (.orB64Compact c) | 0x0B => some (.xorB64Compact c)
  | 0x0C => some (.shlB64Compact c) | 0x0D => some (.shrB64Compact c) | 0x0E => some (.sarI64Compact c) | 0x0F => some (.faddF64Compact c)
  | 0x10 => some (.fsubF64Compact c) | 0x11 => some (.fmulF64Compact c) | 0x12 => some (.ffmaF64Compact c) | 0x13 => some (.fminF64Compact c)
  | 0x14 => some (.fmaxF64Compact c) | 0x15 => some (.faddF32x2Compact c) | 0x16 => some (.fsubF32x2Compact c) | 0x17 => some (.fmulF32x2Compact c)
  | 0x18 => some (.ffmaF32x2Compact c) | 0x19 => some (.faddBf16x4Compact c) | 0x1A => some (.fmulBf16x4Compact c) | 0x1B => some (.ffmaBf16x4Compact c)
  | 0x1C => some (.ldGlobalCompact c) | 0x1D => some (.stGlobalCompact c) | 0x1E => some (.ldScratchCompact c) | 0x1F => some (.stScratchCompact c)
  | _ => none

/-- R47's table over the fields of an extended form: the illegal cases first, then privilege, then handles. -/
def decodeExt (privileged : Bool) (opc : Nat) (x : Ext) : Except DecodeFault Instr :=
  match opRow opc with
  | none => .error .illegal
  | some r =>
    if !r.legal x then .error .illegal
    else if r.priv x && !privileged then .error .privilege
    else if !r.handlesOk x then .error .badHandle
    else .ok (r.instr x)

/-- One instruction from its words (R26, R47): word 0, and the four that may follow. -/
def decodeWords (privileged : Bool) (w0 w1 w2 w3 w4 : Half) : Except DecodeFault Instr :=
  match lenOf w0 with
  | .w32 =>
    match compactInstr (copOf w0) (compactOf w0) with
    | some i => if (compactOf w0).legal (copOf w0) then .ok i else .error .illegal
    | none => .error .illegal
  | .w64 => if Half.field w0 30 2 = 0 then decodeExt privileged (opcOf w0) (extOf w0 w1 0 0 0) else .error .illegal
  | .w96 => if Half.field w0 30 2 = 0 then decodeExt privileged (opcOf w0) (extOf w0 w1 w2 0 0) else .error .illegal
  | .w160 => if Half.field w0 30 2 = 0 then decodeExt privileged (opcOf w0) (extOf w0 w1 w2 w3 w4) else .error .illegal

/-- Little-endian (R2): the word of four bytes. -/
def halfOfBytes (b0 b1 b2 b3 : Byte) : Half := b3 ++ b2 ++ b1 ++ b0

/-- The words of a list of bytes; bytes that do not fill a word are left out. -/
def wordsOfBytes : List Byte → List Half
  | b0 :: b1 :: b2 :: b3 :: rest => halfOfBytes b0 b1 b2 b3 :: wordsOfBytes rest
  | _ => []

/-- Decoding of any bytes: the instruction at their head and the bytes after it. -/
def decodeBytes (privileged : Bool) (bs : List Byte) : Except DecodeFault (Instr × List Byte) :=
  match wordsOfBytes bs with
  | [] => .error .truncated
  | w0 :: ws =>
    let n := (lenOf w0).bytes
    if bs.length < n then .error .truncated
    else (decodeWords privileged w0 (ws.getD 0 0) (ws.getD 1 0) (ws.getD 2 0) (ws.getD 3 0)).map fun i => (i, bs.drop n)

/-- Word 0 of a compact form (R27, R29). -/
def encodeCompact (cop : Nat) (c : Compact) : Half :=
  c.b ++ c.a ++ c.d ++ BitVec.ofNat 5 cop ++ BitVec.ofBool c.gn ++ c.gp ++ BitVec.ofBool c.ge ++ BitVec.ofBool c.s ++ 0#2

/-- Word 0 of an extended form (R27, R31). -/
def encodeWord0 (opc : Nat) (x : Ext) : Half :=
  0#2 ++ x.a ++ x.d ++ BitVec.ofNat 9 opc ++ BitVec.ofBool x.gn ++ x.gp ++ BitVec.ofBool x.ge ++ BitVec.ofBool x.s ++ x.len.code

/-- Word 1 of an extended form (R32). -/
def encodeWord1 (x : Ext) : Half :=
  x.mod ++ x.lsel ++ BitVec.ofBool x.sat ++ BitVec.ofBool x.z ++ x.rm ++ x.ty ++ x.c ++ x.b

/-- The words of an instruction, in increasing addresses. A step that is no instruction word has none. -/
def encode (i : Instr) : List Half :=
  match i.form with
  | .compact cop c => [encodeCompact cop c]
  | .event => []
  | .ext opc x =>
    match x.len with
    | .w32 | .w64 => [encodeWord0 opc x, encodeWord1 x]
    | .w96 => [encodeWord0 opc x, encodeWord1 x, x.l32]
    | .w160 => [encodeWord0 opc x, encodeWord1 x, x.l32, x.l64.extractLsb' 0 32, x.l64.extractLsb' 32 32]

/-- The bytes of a word, little-endian (R2). -/
def bytesOfHalf (w : Half) : List Byte :=
  [w.extractLsb' 0 8, w.extractLsb' 8 8, w.extractLsb' 16 8, w.extractLsb' 24 8]

/-- The bytes of words at increasing addresses. -/
def bytesOfWords : List Half → List Byte
  | [] => []
  | w :: ws => bytesOfHalf w ++ bytesOfWords ws

/-- The bytes of an instruction in memory (R26). -/
def encodeBytes (i : Instr) : List Byte := bytesOfWords (encode i)

/-- A number's `n` low bytes, least significant first. -/
def bytesOfNat : Nat → Nat → List Byte
  | 0, _ => []
  | n + 1, v => BitVec.ofNat 8 v :: bytesOfNat n (v / 256)

/-- The bytes of a table word: `nbits` bits of `w`, and zeros up to the longest instruction. -/
def tableBytes (nbits w : Nat) : List Byte :=
  bytesOfNat 20 (w % 2 ^ nbits)

/-- The decoder on an instruction given as the opcode table numbers its bits. -/
def decodeTableWord (nbits w : Nat) : Option Instr :=
  match decodeBytes true (tableBytes nbits w) with
  | .ok (i, _) => some i
  | .error _ => none

end Sys2Proof
end

