-- ==== Sys2Proof/Machine/Sparse.lean ====
section
/-! DEFINITION. Tables by number in one canonical form: pairs at strictly rising keys. A memory is such a table of bytes in
which no entry holds the byte that an unlisted address reads as. -/

namespace Sys2Proof.Machine

/-- Pairs of a key and a value. -/
abbrev Sparse (α : Type) := List (Nat × α)

/-- The value at a key. -/
def Sparse.find {α : Type} : Sparse α → Nat → Option α
  | [], _ => none
  | (k, v) :: m, j => if j = k then some v else Sparse.find m j

/-- The table with a value at a key. -/
def Sparse.insert {α : Type} : Sparse α → Nat → α → Sparse α
  | [], j, w => [(j, w)]
  | (k, v) :: m, j, w =>
    if j < k then (j, w) :: (k, v) :: m
    else if j = k then (j, w) :: m
    else (k, v) :: Sparse.insert m j w

/-- The table without a key. -/
def Sparse.erase {α : Type} : Sparse α → Nat → Sparse α
  | [], _ => []
  | (k, v) :: m, j => if j = k then Sparse.erase m j else (k, v) :: Sparse.erase m j

/-- The table with a function applied to the value at a key, if there is one. -/
def Sparse.modify {α : Type} : Sparse α → Nat → (α → α) → Sparse α
  | [], _, _ => []
  | (k, v) :: m, j, f => if j = k then (k, f v) :: Sparse.modify m j f else (k, v) :: Sparse.modify m j f

/-- Every key of the table is above a bound, and the keys rise. -/
def Sparse.sortedFrom {α : Type} : Nat → Sparse α → Bool
  | _, [] => true
  | lo, (k, _) :: m => decide (lo ≤ k) && Sparse.sortedFrom (k + 1) m

/-- The keys rise strictly. -/
def Sparse.sorted {α : Type} (m : Sparse α) : Bool := Sparse.sortedFrom 0 m

/-- A memory: the bytes that are not zero, at rising addresses. An unlisted address reads as zero (DESIGN CHOICE, log entry 4). -/
abbrev Memory := List Host.Cell

/-- The byte at an address. -/
def Memory.byte (m : Memory) (a : Nat) : Byte := (Sparse.find m a).getD 0

/-- The memory with one byte written. -/
def Memory.setByte (m : Memory) (a : Nat) (b : Byte) : Memory :=
  if b = 0 then Sparse.erase m a else Sparse.insert m a b

/-- The bytes at `n` successive addresses. -/
def Memory.bytes (m : Memory) (a : Nat) : Nat → List Byte
  | 0 => []
  | n + 1 => m.byte a :: Memory.bytes m (a + 1) n

/-- The memory with bytes written at successive addresses. -/
def Memory.setBytes (m : Memory) (a : Nat) : List Byte → Memory
  | [] => m
  | b :: bs => Memory.setBytes (m.setByte a b) (a + 1) bs

/-- Little-endian (R2): the number that bytes hold. -/
def natOfBytes : List Byte → Nat
  | [] => 0
  | b :: bs => b.toNat + 256 * natOfBytes bs

/-- The number in `n` bytes at an address. -/
def Memory.readNat (m : Memory) (a n : Nat) : Nat := natOfBytes (m.bytes a n)

/-- A memory is in canonical form: rising addresses, and no entry that reads as an unlisted address does. -/
def Memory.wf (m : Memory) : Bool := Sparse.sorted m && m.all fun c => c.2 != 0

end Sys2Proof.Machine
end

