-- ==== Sys2Proof/Machine/State.lean ====
section
/-! DEFINITION. The state of the FN-YJ4 as plain data: everything spec/ names as state, and the model's own fields (`issue`,
`turns`, `fresh`: log entries 1, 2, 6). A docstring names the rule that gives the piece of state. -/

namespace Sys2Proof.Machine

/-! ### Registers and threads -/

/-- A run: a value and a count of threads (R62). -/
structure Run where
  value : Word
  count : Nat
  deriving DecidableEq, Repr

/-- What names a physical register: fold and way (R69), or a number of the model's own for an unnamed one (R70). -/
inductive RegName where
  | named (n : BitVec 26)
  | unnamed (serial : Nat)
  deriving DecidableEq, Repr

/-- The physical register that an architectural register maps to (R62, R69). -/
structure VecReg where
  runs : List Run
  name : RegName
  deriving DecidableEq, Repr

/-- The null register (R64). -/
def VecReg.null : VecReg := { runs := [{ value := 0, count := 32 }], name := .named 0 }

/-- The fault record (R399). -/
structure FaultRec where
  cause   : Nat
  late    : Bool
  decode  : Bool
  privl   : Bool
  warp    : Nat
  lane    : Nat
  ordinal : BitVec 32
  offset  : BitVec 32
  mask    : Mask
  addr    : Word
  time    : Word
  deriving DecidableEq, Repr

/-- What a waiting or held thread waits for. -/
inductive Wait where
  | sleep (untilNs : Nat)                                -- R120
  | rejoin (mask : Mask)                                 -- R117
  | member (mask : Mask) (act : Bool)                    -- R195, with the guard read at arrival
  | collective (act : Bool)                              -- R283, with the guard read at arrival
  | bar (crew : Bool) (n phase : Nat)                    -- R269: until the phase count exceeds `phase`
  | waitc (k : Nat)                                      -- R377
  | ring (q : Nat) (push : Bool) (d : BitVec 6)          -- R235
  | stage (get : Bool) (d : BitVec 6) (addr : Word) (global : Bool)   -- R379
  | value (id : Nat)                                     -- R271: the watch among `State.watches`
  | acquire (id untilNs : Nat)                           -- R255: reads for `id` to return, device time to pass the release time
  | fence (order scope : Nat) (ticket : Option Nat)      -- R256
  | step (held : Bool) (n : Nat) (d : Option (BitVec 6))  -- R388: `n` 0 is the default count
  | buffer (atom : Bool)                                 -- R385: for room in the atomic buffer, or in the staging buffer
  | hatch (op : Nat)                                     -- R325: until no page that the operation is to read is in flash
  | tlbinv (ids : List Nat)                              -- R416: for these requests
  deriving DecidableEq, Repr

/-- The state of a thread (R96). A waiting thread keeps its program counter at the instruction; `next` is where it goes on. -/
inductive TState where
  | ready
  | waiting (w : Wait) (next : Word)
  | parked
  | exited
  deriving DecidableEq, Repr

/-- A thread (R95, R144, R124, R252, R399, R407). -/
structure Thread where
  pc      : Word
  rstack  : List Word                 -- newest first, at most 16
  spill   : Word
  lc0     : Word
  lc1     : Word
  reload  : Word
  wait    : Nat
  defer   : Bool
  st      : TState
  fsr     : BitVec 32
  isr     : BitVec 32
  privl   : Bool
  frec    : Option FaultRec
  lateRec : Option (Nat × Word)       -- R364: a late fault that waits for the end of this thread's wait
  resume  : Word                      -- R403: what %epc becomes at handler entry
  epc     : Word
  tcause  : Nat
  safe    : Option (Nat × Word)       -- R46: ordinal and address of the last safe point
  startPc : Word
  exitTo  : Option (Word × Word)      -- R108: target and keep mask
  exitPc  : Word
  nearH   : Nat
  farH    : Nat
  acqH    : Nat
  seqNo   : Nat
  epoch   : Nat                       -- R465: releases, fences and arrivals so far
  since   : Nat                       -- R386: device time at which its wait began
  lastTime : Nat                      -- R9: the latest device time that it has read
  deriving DecidableEq, Repr

/-- A thread at the start of its warp (R95). -/
def Thread.start (pc : Word) : Thread :=
  { pc := pc, rstack := [], spill := 0, lc0 := 0, lc1 := 0, reload := 0, wait := 0, defer := false, st := .ready, fsr := 0, isr := 0
    privl := false, frec := none, lateRec := none, resume := 0, epc := 0, tcause := 0, safe := none, startPc := pc, exitTo := none, exitPc := 0
    nearH := 0, farH := 0, acqH := 0, seqNo := 0, epoch := 0, since := 0, lastTime := 0 }

/-- What an instruction delivers to one lane: a vector result, a guard bit and the flags it raises, or a fault. -/
inductive LaneOut where
  | value (v : Word) (g : Bool) (fflags : BitVec 5) (iflags : BitVec 2)
  | fault (cause : Nat) (addr : Word)
  deriving DecidableEq, Repr

/-- Where a result goes. -/
inductive Dst where
  | vec (d : BitVec 6)
  | guard (g : Nat)
  | nowhere
  deriving DecidableEq, Repr

/-- Where an address leads (R213, R220): HBM, the LP tier, host memory or a peer window. -/
inductive Target where
  | hbm | lp | host | peer (w : Nat)
  deriving DecidableEq, Repr

/-- How the bytes of a load become a thread value (R226, R228, R231). -/
inductive LoadConv where
  | zx
  | sx
  | mx (fmt ty : Nat)
  | reg
  deriving DecidableEq, Repr

/-- What a memory request does. -/
inductive ReqKind where
  | load (conv : LoadConv)
  | store
  | atom (op : Nat) (flt sgn nr : Bool)
  | cas
  | prefetch (home : Bool)
  deriving DecidableEq, Repr

/-- One thread's part of a request. -/
structure Access where
  lane : Nat
  va   : Word
  pa   : Nat
  n    : Nat                          -- bytes
  data : List Byte                    -- bytes to store
  b    : Word                         -- operand of an atomic, new value of `cas`
  cmp  : Word
  mode   : Nat                        -- the thread's rounding mode and FTZ at issue, for `ldmx`; the word's number, for `ldc`
  ticket : Option Nat                 -- R257
  hz     : Nat                        -- R254: the horizon over the writes before a release
  deriving DecidableEq, Repr

/-- Where a request stands: on its way, performed (perform and completion time, the line read, release times, and its number in the order
of performance) or filled. -/
inductive ReqStage where
  | posted
  | performed (p c : Nat) (data : List Byte) (rel : List Nat) (no : Nat)
  | unacked                           -- R252: times returned, the home agent's acknowledgement still out
  deriving DecidableEq, Repr

/-- A memory request: one line touched by one issue (R219). -/
structure Request where
  id    : Nat
  core  : Nat
  gid   : Nat
  widx  : Nat
  kind  : ReqKind
  grp   : Nat                         -- requests and staged records with a lower number are of earlier issues
  space : Nat                         -- 0 global, 1 vault, 2 scratch (R212)
  unit  : Nat                         -- the vault's core
  tgt   : Target
  accs  : List Access
  act   : Mask                        -- the active threads of its issue
  pc    : Word
  order : Nat
  scope : Nat
  hint  : Nat
  fresh : Bool
  noAlloc : Bool                      -- R259
  lease : Nat
  sluice : Bool                       -- a write that the Sluice has released (R383)
  epoch : Nat                         -- R465: of a released write
  frontier : Bool                     -- R383: it waits until its group is the frontier group
  pend  : Option Nat                  -- the long-latency result it serves
  weight : Nat                        -- R219: the lines that it adds to its issue's
  stage : ReqStage
  deriving DecidableEq, Repr

/-- R231: a register record that an `ldc` reads: the thread, space and address, its eight-byte words by number as they arrive, and the fault
of one that it needs. -/
structure RecordRead where
  lane  : Nat
  space : Nat
  va    : Word
  words : Sparse (List Byte)
  served : List (Nat × Nat)           -- R15: the words that the L1 has served: their numbers and line keys
  fault : Option (Nat × Word)
  deriving DecidableEq, Repr

/-- R76: a line that a load has read: its key, the end of its lease, and the number of the read. -/
structure LineRead where
  key   : Nat
  lease : Nat
  no    : Nat
  deriving DecidableEq, Repr

/-- A long-latency result not yet written (R42 to R44). -/
structure Pending where
  id     : Nat
  pc     : Word
  dst    : Dst
  act    : Mask                       -- the active mask of the issue
  zero   : Mask                       -- threads that Z zeroes
  left   : Mask                       -- active threads whose result is not written yet
  outs   : Sparse LaneOut             -- by lane, as they become known
  key    : Option (List Word × List (BitVec 26))  -- the reuse key to enter when it is written (R73), with its source names
  old    : List Run                   -- R63: its destination as it stood at issue
  isLoad : Bool
  watch  : Bool                       -- R271: the result of a `waitv`, whose threads wait
  lines  : List LineRead              -- R76
  hits   : List Request               -- R15: what its parts that an L1 line has served ask for if the line is lost
  stamp  : Nat
  rels   : Sparse Nat                 -- R252: by lane, the release times that its reads returned
  bound  : Nat                        -- R66: what its destination is charged until it is written, where that borrowed cells at issue; else 0
  ldc    : Option RecordRead          -- R231
  form   : Option (List Run)          -- R231: the runs of a well-formed record
  deriving DecidableEq, Repr

/-- States of a completion slot (R363). -/
inductive SlotState where
  | idle | armed | complete | error
  deriving DecidableEq, Repr

/-- A completion slot (R305, R306, R363, R364, R372). -/
structure Slot where
  st      : SlotState
  count   : Nat
  conds   : BitVec 16
  errCode : Nat                       -- 0, a late-fault cause, 0x3E or 0x3F
  errQ    : Nat
  errAddr : Word
  rows    : BitVec 32
  segPos  : BitVec 32
  posSet  : Bool
  latest  : Nat                       -- device time of the latest completion
  acqTo   : Nat                       -- the latest completion time of the counted operations' writes (R258)
  deriving DecidableEq, Repr

def Slot.init : Slot :=
  { st := .idle, count := 0, conds := 0, errCode := 0, errQ := 0, errAddr := 0, rows := 0, segPos := 0, posSet := false, latest := 0, acqTo := 0 }

/-- A warp (R19, R65, R81, R89, R363, R400, R404, R407, R408). -/
structure Warp where
  gid       : Nat
  widx      : Nat
  regs      : Vector VecReg 64
  guards    : Vector Mask 16
  threads   : Vector Thread 32
  slots     : Vector Slot 8
  quota     : Nat
  admitted  : Nat
  tmr       : Word
  tentry    : Nat
  handler   : Mask                    -- threads still in the handler (R404)
  doomed    : Bool                    -- R109: the warp retires when it leaves the handler
  stopped   : Mask                    -- threads stopped at a marked instruction (R400)
  stopping  : Bool                    -- stops at the next safe points: for a halt (R402) or a save (R371)
  pend      : List Pending            -- oldest first
  lastSync  : Nat                     -- R76: completion of the latest fence, acquire or barrier
  latch     : Option (Word × Bool)    -- R43, R98: the address of the candidate that is held: by a marker, or by a resource
  loans     : Sparse Nat              -- R66: the same as `Pending.bound` of what waiting threads are owed, by destination
  beat      : Bool                    -- it turns over at each issue of the warp (the model's own, log entry 1)
  deriving DecidableEq, Repr

/-! ### Groups and launches -/

/-- A scratchpad ring (R234). -/
structure Ring where
  off  : Nat
  slots : Nat
  size : Nat
  free : Nat
  full : Nat
  wr   : Nat
  wc   : Nat
  rd   : Nat
  rc   : Nat
  np   : Nat
  nr   : Nat
  done : List Nat                     -- the slots whose done bit is set
  deriving DecidableEq, Repr

/-- A claim that waits on a ring, in the order it began to wait (R235): a thread set of a warp, or a Tender operation. -/
inductive RingWaiter where
  | warp (widx : Nat) (lanes : Mask) (push : Bool) (d : BitVec 6)
  | tender (op : Nat)
  deriving DecidableEq, Repr

/-- A barrier (R268). `count` 0 is the default count; `open_` holds while a phase is open. -/
structure Barrier where
  phase    : Nat
  arrived  : Nat
  count    : Nat
  openLeft : Nat                      -- the open phase's default count, as exits have lowered it; 0 when none is open
  deriving DecidableEq, Repr

def Barrier.init : Barrier := { phase := 0, arrived := 0, count := 0, openLeft := 0 }

/-- What a staged record does at its location (R390). -/
inductive StagedKind where
  | store
  | atom (op : Nat) (flt sgn : Bool)
  deriving DecidableEq, Repr

/-- R363: an operation of a saved warp has finished: the warp and its slot, the error with its quarter and address, and the time. -/
structure SlotEnd where
  widx : Nat
  slot : Nat
  err  : Option (Nat × Nat × Word)
  time : Nat
  deriving DecidableEq, Repr

/-- A write held by the Sluice (R383, R390, R465): one record per 8-byte location. -/
structure Staged where
  warp  : Nat
  lane  : Nat
  seq   : Nat
  kind  : StagedKind
  mask  : BitVec 8
  va    : Word
  tgt   : Target
  pa    : Nat
  data  : Word
  core  : Nat                         -- R385: the core that issued it
  order : Nat                         -- R242: 2, 3 or 4 for a release
  near  : Bool
  epoch : Nat                         -- R465: releases, arrivals and fences of its thread before it
  engine : Bool
  step  : Nat                         -- the launch's commits when it was staged
  prov  : Bool                        -- provisionally released (R383)
  hint  : Nat                         -- R218
  act   : Mask                        -- R266: the active threads of its issue
  pc    : Word                        -- the instruction that staged it
  ticket : Option Nat                 -- R257
  at_   : Nat                         -- when it was staged: requests and records with a lower number are earlier ones
  deriving DecidableEq, Repr

/-- Where a group stands (R20, R68, R368, R371). -/
inductive GroupMode where
  | resident | saving (overflow : Bool) | draining | saved (overflow : Bool) | retired | discarded
  deriving DecidableEq, Repr

/-- A live segment of a stream (R275): its rows in the layout of R298. -/
structure Segment where
  pos  : Nat
  uses : Nat
  rows : List (List Byte)
  deriving DecidableEq, Repr

/-- A bound stream (R274, R275). The owner is a crew of a launch's copy. -/
structure GStream where
  launch : Nat
  copy   : Nat
  crew   : Nat
  geo    : Word
  next   : Nat                        -- next position to be fed
  claims : Nat                        -- the next position that a feed claims
  segs   : List Segment               -- rising positions
  ready  : List Segment               -- fed, waiting for a lower position (R303)
  void   : List Nat                   -- R308: positions used up without a segment
  deriving DecidableEq, Repr

/-- An `mma` request in a reservation table (R276, R286). -/
structure MmaReq where
  id      : Nat
  core    : Nat
  gid     : Nat
  widx    : Nat
  quarter : Nat
  slot    : Nat
  sa      : Nat
  sb      : Nat
  acc     : Bool
  na      : Bool
  nb      : Bool
  tile    : Nat
  row0    : Nat
  m       : Nat
  apos    : Nat
  bpos    : Nat
  fork    : Nat
  readyAt : Option Nat                -- the cycle from which it has been ready
  deriving DecidableEq, Repr

/-- A group that has been dispatched. A copy of a launch has a number of its own: the identifier plus the copy x 2^64. -/
structure Group where
  launch  : Nat
  index   : Nat
  copy    : Nat                       -- R392 to R394: 0 primary, 1 shadow, 2 third run, 4 + 2g and 5 + 2g re-executions of group g
  core    : Nat
  crewPos : Nat
  mode    : GroupMode
  since   : Nat                       -- R371: device time of dispatch
  lend    : Nat                       -- R65: the lendable reserve
  scratch : Memory
  scratchRel : Sparse Nat             -- R254: release times, by location
  privPa  : Nat                       -- R213: where HBM backs its private areas: thread x 65,536 + offset
  cells   : Nat                       -- R14: its quotas at admission and its declared reserve
  rings   : Sparse Ring
  ringQ   : Sparse (List RingWaiter)
  bars    : Sparse Barrier
  pats    : Sparse (List Byte × Nat)  -- R206, R207: the loaded tables with their pattern tags
  staged  : List Staged
  performed : List Staged             -- R393: what commits have performed of a sampled group's writes
  released : Bool                     -- R384
  warpsLeft : Nat                     -- warps that have not retired
  stepped  : Bool                     -- R393: it has executed `step`
  savedWarps : List Warp              -- R79: kept beside the save area for what it does not hold (DESIGN CHOICE, log entry 19)
  savedStreams : Sparse GStream       -- R293
  savedReqs : List MmaReq             -- R293: withdrawn requests, in posting order
  savedEnds : List SlotEnd            -- R363: what has finished since the save, for its warps' slots
  stepGot : List (Nat × Mask × BitVec 6 × Word)  -- R388: what commits have given to the saved warps' threads: warp, threads, register, number
  saveArea : Option (Nat × Nat)       -- R372: where its save area lies in HBM, and its size, while it is saved
  accEpoch : Nat
  deriving DecidableEq, Repr

/-- A ring entry of the kernel descriptor (R58). -/
structure RingDesc where
  off : Nat
  slots : Nat
  size : Nat
  deriving DecidableEq, Repr

/-- A kernel descriptor (R58). -/
structure Kernel where
  entry : Nat
  warps : Nat
  crew : Nat
  cls : Nat
  prio : Nat
  quota : Nat
  accFirst : Nat
  accCount : Nat
  reserve : Nat
  scratch : Nat
  lease : Nat
  trapFirst : Nat
  stage : Option Nat
  manifest : Nat
  stageEntries : Nat
  stageBytes : Nat
  safeFirst : Nat
  safeCount : Nat
  rings : Sparse RingDesc
  deriving DecidableEq, Repr

/-- A safe-point table entry (R59). -/
structure SafePoint where
  off : Nat
  vlive : Word
  glive : BitVec 16
  klive : Byte
  deriving DecidableEq, Repr

/-- A trap-table entry (R60). -/
structure TrapEntry where
  action : Nat
  handler : Nat
  deriving DecidableEq, Repr

/-- A launch: its record (R358), what admission read of its code object (R57 to R61, R359 to R361), and how far it has come. -/
structure Launch where
  ident   : Word
  recVa   : Word
  kern    : Kernel
  kidx    : Nat
  objVa   : Word                      -- address of the code object
  codeVa  : Word                      -- address of the code section
  codeSize : Nat
  safes   : List SafePoint
  traps   : List TrapEntry            -- the kernel's 32 entries
  pats    : Sparse (List Byte)        -- slot and table body (R61)
  constPa : Nat                       -- R213: where HBM backs the constant image
  constSize : Nat
  dataVa  : Word
  dataPa  : Nat
  dataSize : Nat
  groups  : Nat
  prio    : Nat
  lam     : Nat
  restartable : Bool
  compl   : Word
  tag     : Word
  queue   : Option Nat                -- none: a `callg` child
  parent  : Option Nat
  poster  : Option (Nat × Nat × Nat)  -- group, warp and slot that count it (R374)
  status  : Nat
  cause   : Nat
  cancelled : Bool
  order   : Nat                       -- order of admission
  next    : Nat                       -- next group index to dispatch
  retired : Nat
  frontier : Nat
  lastRelease : Nat                   -- R386
  waited  : Nat                       -- R366: the ns for which it has had a group ready to place since its admission or latest dispatch
  runtimes : List Nat                 -- R371: the last 64
  stepCount : Option (Nat × Bool)     -- R388: the open count, and whether it is the default
  counted : List Nat                  -- the indices of the counted groups
  arrived : Nat
  hasArrived : Bool
  stepping : Bool
  commits : Nat
  held    : Bool                      -- R395
  peerDigest : Option (BitVec 128)
  target  : Nat                       -- R370
  inQueue : Option Nat
  outQueue : Option Nat
  manifest : Option (Nat × Nat)       -- R353: first entry, count
  crewBars : Sparse (Sparse Barrier)  -- by crew number
  resumes : List Nat                  -- sampled groups whose re-execution is due (R393)
  flushed : List Nat                  -- R371: groups to be started again, rising
  solo    : Option Nat                -- R393: the one group of a sampled re-execution
  lastDone : Nat                      -- R258: the latest completion time of its writes
  deriving DecidableEq, Repr

/-- A launch posted and not yet admitted (R357, R374). -/
structure Posted where
  ident  : Word
  recVa  : Word
  host   : Bool                       -- from a queue's ring
  callg  : Bool
  queue  : Option Nat                 -- read from the record once the post has reached the scheduler
  arrived : Bool
  core   : Nat                        -- the posting core
  parent : Option Nat                 -- the posting launch
  poster : Option (Nat × Nat × Nat)   -- group, warp and slot that count it (R374)
  prio   : Nat                        -- R359, R361: of the posting launch: its priority, its code object and its data area
  objVa  : Word
  dataVa : Word
  dataPa : Nat
  after  : Nat                        -- R258: device time that must have passed
  cut    : Nat                        -- R258: requests with a lower number are earlier ones
  lanes  : Option (Nat × Nat × Nat)   -- R258: the posting thread: group, warp, lane
  cancelled : Bool
  deriving DecidableEq, Repr

/-- A stage queue (R369). -/
structure StageQueue where
  tag     : Word
  queue   : Option Nat                -- the launch queue of its pipeline
  stage   : Nat                       -- the producer's index
  launch  : Nat                       -- the producer
  entries : Nat
  bytes   : Nat
  pa      : Nat                       -- where HBM holds its entries
  head    : Nat                       -- the place of the head entry
  count   : Nat                       -- the entries in it
  used    : Bool                      -- a consumer has ended before its producer
  deriving DecidableEq, Repr

/-- A launch queue's registers (R356). -/
structure LaunchQueue where
  base : Word
  log2 : Nat
  en   : Bool
  err  : Bool
  head : BitVec 32
  tail : BitVec 32
  deriving DecidableEq, Repr

def LaunchQueue.init : LaunchQueue := { base := 0, log2 := 4, en := false, err := false, head := 0, tail := 0 }

/-! ### Cores and the memory paths -/

/-- Priority of a line (R218). -/
inductive LinePrio where
  | evictFirst | normal | evictLast
  deriving DecidableEq, Repr

/-- A line of an L1, with the bytes it was filled with (R215). -/
structure L1Line where
  line  : Nat                         -- line key: see `lineKey`
  data  : List Byte
  lease : Nat
  prio  : LinePrio
  rel   : List Nat                    -- the release times it was filled with, one per location
  way   : Nat                         -- R15: the unit that holds it
  no    : Nat                         -- the number of the read that filled it, in the order of performance
  deriving DecidableEq, Repr

/-- What a reuse entry holds of one active thread (R73): the guard bit it wrote and the flags it raised; and the release time that a load
of it returned (R252). -/
structure ReuseLane where
  bit    : Bool
  fflags : BitVec 5
  iflags : BitVec 2
  rel    : Nat
  deriving DecidableEq, Repr

/-- An entry of the reuse table (R72, R73). -/
structure ReuseEntry where
  set    : Nat
  key    : List Word
  names  : List (BitVec 26)
  result : Option VecReg
  expiry : Option Nat
  stamp  : Nat
  lines  : List (Nat × Nat)           -- R76: the lines that a load has read, with the numbers of the reads
  lanes  : Sparse ReuseLane           -- by active thread
  deriving DecidableEq, Repr

/-- A core's own state. -/
structure Core where
  reuse   : List ReuseEntry           -- most recently used first
  l1      : List L1Line               -- most recently used first
  acc     : Sparse (BitVec 32)        -- R279: tile x 16,384 + row x 128 + column
  vault   : Memory
  vaultRel : Sparse Nat               -- R254: release times, by location
  bayPtr  : Vector Nat 4              -- R97
  leaves  : Vector Nat 20             -- R418; the last one, Idle.empty, is what is left of the total (DESIGN CHOICE, log entry 14)
  cntBase : Nat                       -- R417: positions counted before `cntFrom`
  cntFrom : Nat                       -- the cycle from which the counters have been running
  evCount : Vector Nat 8              -- R419
  evSel   : Vector Nat 8
  running : Bool                      -- R415
  deriving DecidableEq, Repr

def Core.init : Core :=
  { reuse := [], l1 := [], acc := [], vault := [], vaultRel := [], bayPtr := Vector.replicate 4 0
    leaves := Vector.replicate 20 0, cntBase := 0, cntFrom := 0, evCount := Vector.replicate 8 0, evSel := Vector.replicate 8 0, running := true }

/-- A watch on a location: a `waitv` thread (R271) or a `karm` (R376). -/
structure Watch where
  id    : Nat
  gid   : Nat
  widx  : Nat
  lane  : Nat
  slot  : Option Nat                  -- `karm`: the slot
  d     : BitVec 6
  cond  : Nat
  n     : Nat
  b     : Word
  acq   : Bool
  va    : Word
  tgt   : Target
  space : Nat                         -- 0 global, 1 vault, 2 scratch
  unit  : Nat                         -- the vault's core
  pa    : Nat
  notified : Bool
  pc    : Word
  flt   : Option Nat                  -- R271: the fault that its read will meet
  deriving DecidableEq, Repr

/-- A cached translation (R213, R427 to R429). -/
structure TlbEntry where
  va    : Nat
  log2  : Nat
  read  : Bool
  write : Bool
  exec  : Bool
  tgt   : Target
  pa    : Nat
  fixed : Bool                        -- the scheduler's own: private areas, constants, data areas (R213, R361)
  page  : Nat                         -- the 4 KiB page whose address was translated
  deriving DecidableEq, Repr

/-- How HBM's raw storage holds a line (R221): the tag, the XOR of the stored body, the physical address in the slot's first 8 bytes, and
whether it has an uncorrectable ECC error (R222). The bytes themselves are those of `MemSys.hbm`. A line that is not listed is raw. -/
structure RawLine where
  tag  : BitVec 32
  xor  : Byte
  ref  : Nat
  ecc  : Bool
  deriving DecidableEq, Repr

/-- A line that a home slice holds (R218): its priority, when it was last used, and, where it has been written, what HBM or the LP tier holds
beneath it (R436): the bytes, and how raw storage holds them where that had failed. `MemSys.hbm` and `MemSys.lp` hold the written bytes. -/
structure HomeLine where
  prio  : LinePrio
  used  : Nat
  below : Option (List Byte × Option RawLine)
  deriving DecidableEq, Repr

/-- R223: the line has been written, and not written back. -/
def HomeLine.dirty (h : HomeLine) : Bool := h.below.isSome

/-- R49: a location written by a store that has not completed: what it held before, and when the store completes. -/
structure Young where
  loc  : Nat
  done : Nat
  old  : List Byte
  deriving DecidableEq, Repr

/-- The paths to memory. -/
structure MemSys where
  hbm      : Memory
  lp       : Memory
  host     : Memory
  peers    : Sparse Memory
  rel      : Sparse Nat               -- R254: nonzero release times, by location
  sliceReg : Sparse Nat               -- R254: by home slice
  leases   : Sparse Nat               -- R215, R253: latest lease end the home slice counts, by line
  lines    : Sparse HomeLine          -- R218: the lines that home slices hold
  uses     : Nat                      -- uses of home lines and reads performed so far, to order them
  raw      : Sparse RawLine           -- R221, R222: by line of HBM
  failed   : List Nat                 -- R222: the lines whose raw storage has failed since they were written
  young    : List Young               -- R49: oldest first
  wrote    : Sparse Nat               -- R246: by line, the number of its latest write, in the order of `uses`
  bcBase   : Nat                      -- R224: the ring's HBM address
  bcTail   : Nat
  bcHead   : Nat
  bcLost   : Nat
  tlb      : List TlbEntry
  ttBase   : Nat                      -- R427
  ttLog2   : Nat
  reqs     : List Request             -- oldest first
  watches  : List Watch
  ticket   : Nat                      -- R257: the next ticket
  ticketsOut : List Nat               -- tickets not yet reported performed, rising
  ticketsStaged : List (Nat × Nat)    -- R465: those of staged writes, with their groups
  deriving DecidableEq, Repr

/-- The scheduler (R356 to R371). -/
structure Sched where
  lq      : Vector LaunchQueue 64
  posted  : List Posted               -- oldest first
  seqs    : Sparse Nat                -- R362: the next sequence number of each source
  stageQs : Sparse StageQueue
  admitted : Nat                      -- launches admitted so far
  areas   : Sparse Nat                -- allocated HBM areas: start and size
  lastAdjust : Nat                    -- R370
  turnKid : Sparse Nat                -- R366: by effective priority, the `callg` child and the queued launch dispatched last, by order of admission
  turnQueue : Sparse Nat
  deriving DecidableEq, Repr

/-- A commit under way (R389): its number and phase, the launches that take part, those whose check is over with the copy whose stream
is committed, the sampled groups whose check is over with theirs (R393, R394), and the completion time of what it has performed. -/
structure CommitRun where
  n       : Nat
  phase   : Nat
  parts   : List Nat
  checked : List (Nat × Nat)
  sampled : List (Nat × Nat × Nat)
  doneAt  : Nat
  deriving DecidableEq, Repr

/-- Steps and replicas (R387 to R395). -/
structure Steps where
  stepNum : Word
  run     : Option CommitRun
  link    : Nat
  held    : Bool
  sample  : Bool
  peerEn  : Bool
  seed    : Word
  stat    : Word
  fence0  : Word
  fence1  : Word
  deriving DecidableEq, Repr

/-- A trace record (R420). -/
structure TraceRec where
  kind : Nat
  tag  : Nat
  core : Nat
  warp : Nat
  group : Nat
  time : Nat
  d0   : Word
  d1   : Word
  deriving DecidableEq, Repr

/-- The trace unit (R420, R421). -/
structure Trace where
  npg   : Nat
  wrap  : Bool
  flt   : Bool
  en    : Bool
  list  : Word
  page  : Nat
  slot  : Nat
  lost  : Word
  queue : List TraceRec
  cur   : Option (Target × Nat)       -- the page it writes, while it pins its translation
  curVa : Nat
  gap   : Option (Nat × Nat)          -- records lost since the last written one, and the time of the first
  deriving DecidableEq, Repr

/-- Device time and the arithmetic clock (R8 to R10). 21 ticks are 1 ns. -/
structure Clock where
  ticks  : Nat
  cycles : Nat
  step   : Nat                        -- 0: 700 MHz, 1: 600, 2: 500, 3: 350
  limits : List ClockLimit
  deriving DecidableEq, Repr

/-- The thread set that the step has picked: the model's own field (DESIGN CHOICE, log entry 1). -/
structure Issue where
  core : Nat
  slot : Nat
  set  : Mask
  pc   : Word
  deriving DecidableEq, Repr

/-- An element of the tape that says what happens next (DESIGN CHOICE, log entry 1). -/
inductive Turn where
  | issue (core slot : Nat)           -- the warp in this slot issues its candidate, if it can
  | event (i : Instr)                 -- one of the device's own steps
  | elapse (ns : Nat)                 -- device time passes
  | evict (slice : Nat)               -- a home slice evicts a line (R218, R254, log entry 9)
  | upset (line : Nat) (raw : RawLine) -- HBM's raw storage of a line fails (R222, DESIGN CHOICE, log entry 10)
  deriving DecidableEq, Repr

/-! ### Engines -/

/-! ### Pages (spec 14) and the Manifest (spec 15) -/

/-- A page descriptor (R313), kept apart from the bytes of HBM (DESIGN CHOICE, log entry 12). A page that is not listed is free, of version 0.
`lost` is R325's and `packed` R467's. -/
structure Desc where
  list    : Word
  pos     : Nat
  age     : Nat
  sumIdx  : Nat
  ord     : Bool
  ref     : Bool
  dep     : Nat
  mass    : Nat
  rdr     : Nat
  pin     : Nat
  ver     : Nat
  transit : Bool
  hold    : Bool
  shared  : Bool
  scale   : BitVec 8
  addr    : Nat
  valid   : Nat
  dim     : Nat
  kv      : Bool
  fmt     : Nat
  tier    : Nat
  lost    : Bool
  packed  : Bool                      -- R467: its image is charged at what the codec holds
  deriving DecidableEq, Repr

def Desc.init : Desc :=
  { list := 0, pos := 0, age := 0, sumIdx := 0, ord := false, ref := false, dep := 0, mass := 0, rdr := 0, pin := 0, ver := 0, transit := false
    hold := false, shared := false, scale := 0, addr := 0, valid := 0, dim := 0, kv := false, fmt := 0, tier := 3, lost := false
    packed := false }

/-- A summary record (R315). -/
structure Summary where
  n    : Nat
  rho  : BitVec 32
  lpn  : Nat
  ver  : Nat
  cent : List (BitVec 16)
  deriving DecidableEq, Repr

/-- A retire entry (R322): a version that still has readers, with its image and summary slot. -/
structure Retired where
  lpn   : Nat
  ver   : Nat
  count : Nat
  tier  : Nat
  addr  : Nat
  units : Nat
  bytes : Nat                         -- R467: what it is charged, unless `packed`
  packed : Bool
  slot  : Nat
  deriving DecidableEq, Repr

/-- A rewrite or tier move in progress (R322): what it noted, its new image and slot, and whether its swap waits for a commit. -/
structure Rewrite where
  lpn   : Nat
  ver   : Nat
  valid : Nat
  fmt   : Nat
  scale : BitVec 8
  tier  : Nat
  addr  : Nat
  units : Nat
  bytes : Nat
  slot  : Option Nat                  -- none: a move, which keeps the slot
  hatch : Bool
  defer : Bool
  op    : Option Nat                  -- the `pgdemote` that asked for it
  deriving DecidableEq, Repr

/-- What a visit decides (R319). -/
inductive EbbAct where
  | rewrite (fmt : Nat)
  | move (tier : Nat)
  deriving DecidableEq, Repr

/-- R321: what a commit decided for a page with ORD = 1: the version and length that it decided on, and the format, tier and place of the new
image. -/
structure Plan where
  lpn   : Nat
  ver   : Nat
  valid : Nat
  fmt   : Nat
  tier  : Nat
  addr  : Nat
  bytes : Nat
  deriving DecidableEq, Repr

/-- A page that a reader fetches (R323, R346): its place in the list, the snapshot, and its values as BF16 once it has been read. -/
structure PageRead where
  idx  : Nat
  lpn  : Nat
  desc : Desc
  vals : Option (List (List Nat))
  deriving DecidableEq, Repr

/-- A Manifest entry (R353); one that is not listed is invalid. -/
structure MEntry where
  key : Word
  cnt : Nat
  rec_ : Nat
  pin : Nat
  age : Nat
  deriving DecidableEq, Repr

/-- The page engines, the tables that they keep, and the Manifest. -/
structure PageSys where
  descs    : Sparse Desc              -- by LPN
  sums     : Sparse Summary           -- by slot
  retire   : List Retired
  rewrites : List Rewrite
  flash    : Memory
  unmapped : List (Nat × Nat)         -- R220: runs of LP units whose images were moved to flash: start and length
  wanted   : List Nat                 -- R325: pages in flash that readers wait for
  fails    : Sparse Nat               -- R325: flash reads that failed
  base     : Nat                      -- R312, R467: set by firmware
  count    : Nat
  sumBase  : Nat
  poolBase : Nat
  poolSize : Nat
  poolBack : Nat
  thr      : Word                     -- R318
  ctl      : Word
  thrNow   : Word                     -- as sampled at the last commit
  ctlNow   : Word
  wm       : Word
  passes   : Vector (Option Nat) 4    -- R320: the next LPN of each Ebb's pass, while it runs
  plan     : List Plan                -- R321: what the last commit decided for pages with ORD = 1
  hand     : Nat                      -- R324
  sweeping : Bool
  manifest : Sparse MEntry            -- by set x 4 + way
  deriving DecidableEq, Repr

/-- An operation that an engine performs for a quarter or a warp (R258, R295, R289, R280): the instruction, what it took from
registers at its post, and how far it has come. -/
structure EngOp where
  id      : Nat
  core    : Nat
  gid     : Nat
  widx    : Nat
  quarter : Nat
  slot    : Option Nat
  instr   : Instr
  vals    : List Word                 -- the transfer block, or the operands of the quarter's lowest thread
  fork    : Nat                       -- R258: device time that must have passed
  started : Bool
  rows    : Nat                       -- rows completed
  claim   : Option Nat                -- R303, R304: the position or ring slot claimed for the row under way
  pages   : List PageRead             -- R323: pages it has taken snapshots of
  data    : List (List Word)          -- what it has gathered so far
  done    : Bool                      -- its work has ended; its writes complete at `doneAt`
  doneAt  : Nat
  err     : Option (Nat × Word)       -- R284: a late fault
  seq     : Nat                       -- R383: sequence number of its staged writes
  epoch   : Nat                       -- R465: its post counts as a release of its lowest thread
  lines   : List Nat                  -- R310: the lines that it has touched
  busy    : Nat                       -- R219, R310: of these, the ones whose requests are outstanding
  readyAt : Option Nat                -- R348: the cycle from which its attention request has been ready
  deriving DecidableEq, Repr

/-- A pass in the array (R277): its requests, with the rows that each accumulates; and whether its last k-group has been read. -/
structure Pass where
  read : Bool
  reqs : List (MmaReq × List (List (BitVec 32)))
  deriving DecidableEq, Repr

/-- A Gantry (R274 to R277). -/
structure Gantry where
  streams : Sparse GStream            -- 0 to 15 A, 16 to 19 B
  table   : List MmaReq               -- in posting order
  passes  : List Pass                 -- oldest first
  deriving DecidableEq, Repr

def Gantry.init : Gantry := { streams := [], table := [], passes := [] }

/-- R394: the image of a launch copy at its latest commit: its record, its groups as a save would leave them, and what they had on
its way. -/
structure Image where
  launch : Launch
  groups : List (Nat × Group)
  areas  : Sparse (List Byte)         -- the groups' save areas
  privs  : Sparse Memory              -- and what their private areas hold
  reqs   : List Request
  watches : List Watch
  ops    : List EngOp
  deriving DecidableEq, Repr

/-- A peer link (R430). -/
structure Link where
  rate   : Nat
  err    : Bool
  up     : Bool
  en     : Bool
  base   : Nat                        -- in GiB
  size   : Nat
  deriving DecidableEq, Repr

def Link.init : Link := { rate := 200, err := false, up := false, en := false, base := 0, size := 0 }

/-- An entry of the Portcullis log (R466). -/
structure AlarmRec where
  time   : Nat
  level  : Nat
  source : Nat
  deriving DecidableEq, Repr

/-- The Harbourmaster, the Portcullis and the Breakwater (R432 to R436, R466). -/
structure Firm where
  running : Bool                      -- R432: an image has been accepted
  image   : Nat                       -- which image runs: 0 the one of the boot flash
  code    : Option (List Byte)        -- the bytes of the image that runs, unless it is that of the boot flash
  staged  : Option (List Byte)
  count   : Nat                       -- images staged so far
  fuse    : Nat                       -- blown bits of the rollback fuse
  key     : Nat                       -- which identity key: raised by command 0x06
  erased  : Bool
  index   : Nat                       -- R434: the state counter
  signing : Bool                      -- R434: the counter has been advanced for a signature that has not left the device
  rateCap : Nat                       -- R435: the limits that firmware sets, none beyond those of the Breakwater (log entry 121): a link's rate,
  resetCap : Nat                      -- the resets that firmware may ask for in 60 s,
  stepFloor : Nat                     -- and the step of the arithmetic clock above which it does not go
  resets  : List Nat                  -- R435: when firmware asked for resets, in ns since power-on
  wall    : Nat                       -- ns since power-on at the last reset
  unlocks : Nat                       -- R436: unlock attempts since reset
  log     : List AlarmRec             -- oldest first, at most 256
  cmd     : Nat
  status  : Word
  args    : Vector Word 8
  ptIdx   : Word                      -- R425
  hsSel   : Word
  deriving DecidableEq, Repr

/-- A quarter that has found an engine's queue or table full, and has stayed at its instruction (R276, R295, R326). -/
structure QWait where
  res     : Nat                       -- 0 reservation table, 1 Tender queue, 2 the Hatch's lists
  unit    : Nat                       -- cluster or core; 0 for the Hatch
  gid     : Nat
  widx    : Nat
  quarter : Nat
  pc      : Word
  deriving DecidableEq, Repr

/-- The state of the machine. -/
structure State where
  clock    : Clock
  warps    : Sparse Warp              -- by core x 64 + slot
  groups   : Sparse Group             -- by a number of the model's own
  launches : Sparse Launch            -- by launch identifier
  cores    : Sparse Core              -- by core number; a core that is not listed is as after reset
  gantries : Sparse Gantry            -- by cluster
  ops      : List EngOp               -- oldest first
  qwait    : List QWait               -- in the order in which they began to wait
  pages    : PageSys
  mem      : MemSys
  sched    : Sched
  steps    : Steps
  images   : Sparse Image             -- R394: by launch copy
  links    : Vector Link 8
  firm     : Firm
  trace    : Trace
  issue    : Option Issue
  turns    : List Turn
  fresh    : Nat
  deriving DecidableEq, Repr

/-- Why the machine stops with a fault. Faults of threads park them and are next states (R399); so no meaning raises one. -/
inductive Fault where
  /-- Raised by nobody: a place kept for a machine whose memory cannot be named. Safe. -/
  | none_
  deriving DecidableEq, Repr

/-- Why an instruction is refused. -/
inductive Refusal where
  /-- Raised by `exec` for an instruction that has no meaning yet. Safe: the model stops where the hardware goes on. -/
  | notModelled (mnemonic : String)
  deriving DecidableEq, Repr

/-- The device after reset: no launch, no warp, device time 0. Fields whose reset value the manual does not give are those of
DESIGN CHOICE, log entry 5. -/
def State.reset : State :=
  { clock := { ticks := 0, cycles := 0, step := 0, limits := [] }
    warps := [], groups := [], launches := [], cores := [], gantries := [], ops := [], qwait := []
    pages := { descs := [], sums := [], retire := [], rewrites := [], flash := [], unmapped := [], wanted := [], fails := [], base := 0x6000000000, count := 0x100000
               sumBase := 0x6100000000, poolBase := 0x4000000000, poolSize := 0x1000000000, poolBack := 0x1000000000
               thr := 0x0004001000400100, ctl := 0x0000000104080040, thrNow := 0x0004001000400100, ctlNow := 0x0000000104080040
               wm := 0x000000000000555A, passes := Vector.replicate 4 none, plan := [], hand := 0, sweeping := false, manifest := [] }
    mem := { hbm := [], lp := [], host := [], peers := [], rel := [], sliceReg := [], leases := [], lines := [], uses := 0, raw := [], failed := [], young := [], wrote := []
             bcBase := 0x7F00000000, bcTail := 0, bcHead := 0, bcLost := 0, tlb := [], ttBase := 0, ttLog2 := 12, reqs := [], watches := []
             ticket := 0, ticketsOut := [], ticketsStaged := [] }
    sched := { lq := Vector.replicate 64 LaunchQueue.init, posted := [], seqs := [], stageQs := [], admitted := 0, areas := [], lastAdjust := 0
               turnKid := [], turnQueue := [] }
    steps := { stepNum := 0, run := none, link := 0, held := false, sample := true, peerEn := false, seed := 0, stat := 0, fence0 := 0, fence1 := 0 }
    images := [], links := Vector.replicate 8 Link.init
    firm := { running := true, image := 0, code := none, staged := none, count := 0, fuse := 0, key := 0, erased := false, index := 0, signing := false
              rateCap := 200, resetCap := 4, stepFloor := 0, resets := [], wall := 0, unlocks := 0, log := [], cmd := 0, status := 0, args := Vector.replicate 8 0, ptIdx := 0, hsSel := 0 }
    trace := { npg := 0, wrap := false, flt := false, en := false, list := 0, page := 0, slot := 0, lost := 0, queue := [], cur := none
               curVa := 0, gap := none }
    issue := none, turns := [], fresh := 0 }

end Sys2Proof.Machine
end

