-- ==== Sys2Proof/Machine/Runs.lean ====
section
/-! DEFINITION. Registers as runs (spec 03, R62 to R70): reading a thread's value, forming a result, the refinements that bound
its cells, and names. -/

namespace Sys2Proof.Machine

/-- The threads of a warp. -/
def lanes : List (Fin 32) := [0, 1, 2, 3, 4, 5, 6, 7, 8, 9, 10, 11, 12, 13, 14, 15, 16, 17, 18, 19, 20, 21, 22, 23, 24, 25, 26, 27, 28, 29, 30, 31]

/-- The mask of the threads for which a condition holds. -/
def maskOf (p : Fin 32 → Bool) : Mask := BitVec.ofFnLE p

/-- The threads of a mask, in increasing order. -/
def Mask.lanes (m : Mask) : List (Fin 32) := Sys2Proof.Machine.lanes.filter fun i => m.getLsbD i

/-- The lowest thread of a mask. -/
def Mask.lowest (m : Mask) : Option (Fin 32) := (Mask.lanes m).head?

/-- How many threads a mask holds. -/
def Mask.count (m : Mask) : Nat := (Mask.lanes m).length

/-- The value of a thread in a list of runs: the run that covers it (R62). -/
def runsGet : List Run → Nat → Word
  | [], _ => 0
  | r :: rs, i => if i < r.count then r.value else runsGet rs (i - r.count)

/-- The index of the run that covers a thread (R87). -/
def runsIdx : List Run → Nat → Nat
  | [], _ => 0
  | r :: rs, i => if i < r.count then 0 else runsIdx rs (i - r.count) + 1

/-- A thread's value of a register. -/
def VecReg.get (r : VecReg) (i : Fin 32) : Word := runsGet r.runs i

/-- The number of runs as held (R87). -/
def VecReg.count (r : VecReg) : Nat := r.runs.length

/-- Cells that a register is charged (R64, R65). -/
def VecReg.cells (r : VecReg) : Nat := if r = VecReg.null then 0 else r.runs.length

/-- The runs of a well-formed register: 1 to 32, none empty, 32 threads in all (R62). -/
def runsOk (rs : List Run) : Bool := rs.all (fun r => decide (1 ≤ r.count)) && (rs.map (·.count)).sum == 32

/-- What a thread's part of a written register is (R63): a result, a kept piece of an old run, or a zero. -/
inductive Tag where
  | act (v : Word)
  | keep (run : Nat) (v : Word)
  | zero
  deriving DecidableEq, Repr

/-- The value a tag leaves in its thread. -/
def Tag.value : Tag → Word
  | .act v => v
  | .keep _ v => v
  | .zero => 0

/-- R63: two adjacent threads share a run if both are results of one value, pieces of one old run, or zeroed. -/
def Tag.joins : Tag → Tag → Bool
  | .act v, .act w => v == w
  | .keep r _, .keep q _ => r == q
  | .zero, .zero => true
  | _, _ => false

/-- The runs of a result (R63). -/
def runsOfTags : List Tag → List Run
  | [] => []
  | t :: ts =>
    match ts, runsOfTags ts with
    | u :: _, r :: rs =>
      if t.joins u then { value := t.value, count := r.count + 1 } :: rs else { value := t.value, count := 1 } :: r :: rs
    | _, rs => { value := t.value, count := 1 } :: rs

/-- The tags of a write: results where `act` says so, zeros where `zero` says so, the old register elsewhere. -/
def tagsOf (old : List Run) (act zero : Mask) (val : Fin 32 → Word) : List Tag :=
  lanes.map fun (i : Fin 32) =>
    if act.getLsbD i then .act (val i) else if zero.getLsbD i then .zero else .keep (runsIdx old i) (runsGet old i)

/-- R62: adjacent runs of equal values joined. -/
def runsCanonical (rs : List Run) : List Run := runsOfTags (lanes.map fun i => .act (runsGet rs i))

/-- A boundary lies before thread `i` in a list of runs. -/
def runsCut (rs : List Run) (i : Nat) : Bool := runsIdx rs i != runsIdx rs (i - 1)

/-- A boundary lies before thread `i` in a mask. -/
def maskCut (m : Mask) (i : Nat) : Bool := m.getLsbD i != m.getLsbD (i - 1)

/-- The number of runs in the common refinement of registers and a mask (R13, R66). -/
def refinement (rss : List (List Run)) (m : Mask) : Nat :=
  1 + ((lanes.drop 1).filter fun i => maskCut m i || rss.any fun rs => runsCut rs i).length

/-- R69: the modulus. -/
def hashP : Nat := 2 ^ 61 - 1

/-- R69: f(v). -/
def hashF (v : Nat) : Nat := (0x0B5A93C74E1D2F69 * (v % hashP) + 0x01C28F3A6D95E047) % hashP

/-- R69: H of a list of single values, Σ f(v_i)·x^i mod p, the same for every split of the values. -/
def hashH : List Word → Nat
  | [] => 0
  | v :: vs => (hashF v.toNat + 0x05E37A19C4B2D80F * hashH vs) % hashP

/-- R69: the 24-bit fold of H. -/
def hashFold (h : Nat) : Nat := (h % 2 ^ 24) ^^^ (h / 2 ^ 24 % 2 ^ 24) ^^^ (h / 2 ^ 48 % 2 ^ 13)

/-- The fold of a register's contents. -/
def runsFold (rs : List Run) : Nat := hashFold (hashH (lanes.map fun i => runsGet rs i))

/-- R70: contents of fold `f` that no live register holds get the lowest free way, or none. -/
def freeWay (live : List VecReg) (rs : List Run) (f serial : Nat) : VecReg :=
  let free := fun (way : Nat) => !(live.any fun r => r.name == .named (BitVec.ofNat 26 (4 * f + way)))
  match (if f = 0 then [1, 2, 3] else [0, 1, 2, 3]).find? free with
  | some way => { runs := rs, name := .named (BitVec.ofNat 26 (4 * f + way)) }
  | none => { runs := rs, name := .unnamed serial }

/-- A register that has a name, and these contents. -/
def VecReg.isNamed (r : VecReg) (rs : List Run) : Bool :=
  decide (r.runs = rs) && match r.name with | .named _ => true | .unnamed _ => false

/-- R70: the register that contents map to, given the registers live in the core; `serial` numbers an unnamed one. The old
destination still counts as live while its successor is named (DEDUCED, log entry 24). -/
def nameRuns (live : List VecReg) (rs : List Run) (serial : Nat) : VecReg :=
  if rs = VecReg.null.runs then VecReg.null
  else
    match live.find? fun r => r.isNamed rs with
    | some r => r
    | none => freeWay live rs (runsFold rs) serial

end Sys2Proof.Machine
end

