-- ==== Sys2Proof/Machine/Ops.lean ====
section
/-! DEFINITION. The named operations over the state: reading and writing warps, registers and guards (spec 03), issue and the
active mask (R28, R98), cells and run overflow (R65 to R67), fault records and parking (R399), handler entry and return
(R403, R406). -/

namespace Sys2Proof.Machine

/-! ### Places of the state -/

/-- Device time in ns (R9) (DESIGN CHOICE, log entry 62). -/
def State.ns (s : State) : Nat := s.clock.ticks / 21

/-- A core's state; a core that is not listed is as after reset. -/
def State.coreOf (s : State) (c : Nat) : Core := (Sparse.find s.cores c).getD Core.init

def State.setCore (s : State) (c : Nat) (k : Core) : State := { s with cores := Sparse.insert s.cores c k }

def State.modCore (s : State) (c : Nat) (f : Core → Core) : State := s.setCore c (f (s.coreOf c))

def State.warp? (s : State) (wk : Nat) : Option Warp := Sparse.find s.warps wk

def State.setWarp (s : State) (wk : Nat) (w : Warp) : State := { s with warps := Sparse.insert s.warps wk w }

def State.modWarp (s : State) (wk : Nat) (f : Warp → Warp) : State := { s with warps := Sparse.modify s.warps wk f }

def State.group? (s : State) (g : Nat) : Option Group := Sparse.find s.groups g

def State.setGroup (s : State) (g : Nat) (v : Group) : State := { s with groups := Sparse.insert s.groups g v }

def State.modGroup (s : State) (g : Nat) (f : Group → Group) : State := { s with groups := Sparse.modify s.groups g f }

def State.launch? (s : State) (l : Nat) : Option Launch := Sparse.find s.launches l

def State.modLaunch (s : State) (l : Nat) (f : Launch → Launch) : State := { s with launches := Sparse.modify s.launches l f }

/-- The core of a resident warp's key. -/
def wkCore (wk : Nat) : Nat := wk / 64

/-- The resident warps of a core, in slot order. -/
def State.warpsOn (s : State) (core : Nat) : List (Nat × Warp) := s.warps.filter fun e => wkCore e.1 == core

/-- The resident warps of a group, in slot order. -/
def State.warpsOf (s : State) (gid : Nat) : List (Nat × Warp) := s.warps.filter fun e => e.2.gid == gid

/-- Where a warp of a group stands. -/
def State.findWarp (s : State) (gid widx : Nat) : Option Nat :=
  (s.warps.find? fun e => e.2.gid == gid && e.2.widx == widx).map (·.1)

/-- The group and launch of a warp. -/
def State.groupOf (s : State) (w : Warp) : Option Group := s.group? w.gid

def State.launchOf (s : State) (w : Warp) : Option Launch := (s.group? w.gid).bind fun g => s.launch? g.launch

/-- A number that has not been used: for requests, operations and free values (DESIGN CHOICE, log entry 6). -/
def State.bump (s : State) : State := { s with fresh := s.fresh + 1 }

/-! ### Threads -/

/-- A function on the threads of a mask. -/
def Warp.modThreads (w : Warp) (m : Mask) (f : Fin 32 → Thread → Thread) : Warp :=
  { w with threads := Vector.ofFn fun i => if m.getLsbD i then f i w.threads[i] else w.threads[i] }

/-- The threads for which a condition holds. -/
def Warp.which (w : Warp) (p : Thread → Bool) : Mask := maskOf fun i => p w.threads[i]

def Thread.isReady (t : Thread) : Bool := t.st == .ready
def Thread.isParked (t : Thread) : Bool := t.st == .parked
def Thread.isExited (t : Thread) : Bool := t.st == .exited

/-- What a thread waits for. -/
def Thread.waits (t : Thread) : Option Wait := match t.st with | .waiting w _ => some w | _ => none

/-- The wait of a thread ends: it is ready at the next instruction with wait count 0, unless a late fault was held for it
(R364), which then parks it there. -/
def Thread.wake (t : Thread) : Thread :=
  match t.st with
  | .waiting _ next => { t with st := .ready, pc := next, wait := 0 }
  | _ => t

/-- A warp as it starts (R64, R81, R95, R363, R408). -/
def Warp.start (gid widx quota : Nat) (entry : Word) : Warp :=
  { gid := gid, widx := widx, regs := Vector.replicate 64 VecReg.null, guards := Vector.replicate 16 0, threads := Vector.replicate 32 (Thread.start entry)
    slots := Vector.replicate 8 Slot.init, quota := quota, admitted := quota, tmr := 0, tentry := 0, handler := 0, doomed := false, stopped := 0, stopping := false
    pend := [], lastSync := 0, latch := none, loans := [], beat := false }

/-! ### Counters (R417 to R419) -/

/-- An event counter that selects the event rises. -/
def Core.count (k : Core) (ev n : Nat) : Core :=
  if k.running then
    { k with evCount := Vector.ofFn fun i => if k.evSel[i] = ev then (k.evCount[i] + n) % 2 ^ 64 else k.evCount[i] }
  else k

def State.count (s : State) (core ev n : Nat) : State := s.modCore core fun k => k.count ev n

/-- A top-down leaf rises (R417). -/
def Core.leaf (k : Core) (l n : Nat) : Core :=
  if k.running then { k with leaves := k.leaves.set! l (k.leaves[l]! + n) } else k

def State.leaf (s : State) (core l n : Nat) : State := s.modCore core fun k => k.leaf l n

/-! ### Registers and cells -/

/-- The registers that live in a core: those of its resident warps (R71). -/
def State.liveRegs (s : State) (core : Nat) : List VecReg := (s.warpsOn core).flatMap fun e => e.2.regs.toList

/-- The destination of what a waiting thread will receive. -/
def Thread.awaits (t : Thread) : Option (BitVec 6) :=
  match t.waits with
  | some (.stage true d _ _) | some (.step _ _ (some d)) | some (.ring _ _ d) => some d
  | _ => none

/-- R66: what outstanding results have borrowed for a register at their issue. -/
def Warp.owed (w : Warp) (d : BitVec 6) : Nat :=
  max ((w.pend.map fun p => if p.dst = .vec d then p.bound else 0).foldl max 0)
    (if w.which (fun t => t.awaits == some d) = 0 then 0 else (Sparse.find w.loans d.toNat).getD 0)

/-- R65: the cells that a warp holds. -/
def Warp.held (w : Warp) : Nat := (w.regs.toList.map VecReg.cells).sum

/-- The cells that a register is charged: those of its runs, or the bound for which an outstanding result has borrowed (R66; DEDUCED,
log entry 91). -/
def Warp.cellsOf (w : Warp) (d : BitVec 6) : Nat := max w.regs[d.toFin].cells (w.owed d)

/-- R65, R66: the cells that a warp holds, with those that it has borrowed at the issue of results that are outstanding. -/
def Warp.charged (w : Warp) : Nat := ((List.range 64).map fun n => w.cellsOf (BitVec.ofNat 6 n)).sum

/-- R65: the cells that a warp borrows. -/
def Warp.borrowed (w : Warp) : Nat := w.charged - w.quota

/-- The cells that the other warps of a group borrow. -/
def State.othersBorrow (s : State) (gid wk : Nat) : Nat :=
  (((s.warpsOf gid).filter fun e => e.1 != wk).map fun e => e.2.borrowed).sum

/-- R66: A, the lendable reserve less what the other warps borrow. -/
def State.lendableTo (s : State) (w : Warp) (wk : Nat) : Nat :=
  match s.groupOf w with
  | some g => g.lend - s.othersBorrow w.gid wk
  | none => 0

/-- R71: entries that name a register which is no longer live are killed. -/
def State.releaseName (s : State) (core : Nat) (old : VecReg) : State :=
  match old.name with
  | .unnamed _ => s
  | .named n =>
    if n = 0 then s
    else if (s.liveRegs core).any fun r => r.name == .named n then s
    else s.modCore core fun k =>
      { k with reuse := k.reuse.filter fun e => !(e.names.contains n) && (match e.result with | some r => r.name != .named n | none => true) }

/-- A register is mapped to a physical register that exists. -/
def State.mapReg (s : State) (wk : Nat) (d : BitVec 6) (r : VecReg) : State :=
  match s.warp? wk with
  | none => s
  | some w =>
    let old := w.regs[d.toFin]
    (s.setWarp wk { w with regs := w.regs.set d.toFin r }).releaseName (wkCore wk) old

/-- A register is written with the runs of a result: it is named under R69 and R70, or stored unnamed (event 0x05). -/
def State.writeRuns (s : State) (wk : Nat) (d : BitVec 6) (rs : List Run) : State :=
  let r := nameRuns (s.liveRegs (wkCore wk)) rs s.fresh
  match r.name with
  | .named _ => s.mapReg wk d r
  | .unnamed _ => ((s.bump).count (wkCore wk) 0x05 1).mapReg wk d r

/-- A register is written under R63: results in `act`, zeros in `zero`, the old destination elsewhere. -/
def State.writeVec (s : State) (wk : Nat) (d : BitVec 6) (act zero : Mask) (val : Fin 32 → Word) : State :=
  match s.warp? wk with
  | none => s
  | some w =>
    if act ||| zero = 0 then s
    else s.writeRuns wk d (runsOfTags (tagsOf w.regs[d.toFin].runs act zero val))

/-- A guard number of an encoding. -/
def guardIdx (g : Nat) : Fin 16 := Fin.ofNat 16 g

/-- A slot number of an encoding. -/
def slotIdx (k : Nat) : Fin 8 := Fin.ofNat 8 k

/-- R81: a guard write, bit by bit. -/
def Warp.writeGuard (w : Warp) (g : Nat) (act zero bits : Mask) : Warp :=
  { w with guards := w.guards.set (guardIdx g) ((w.guards[guardIdx g] &&& ~~~ (act ||| zero)) ||| (act &&& bits)) }

/-! ### Issue (R28, R98) -/

/-- What an instruction sees of its issue: the warp as it issues, its thread set, active mask and zeroed threads. -/
structure Ctx where
  wk   : Nat
  w    : Warp
  set  : Mask
  act  : Mask
  zero : Mask
  pc   : Word
  next : Word

def Ctx.core (c : Ctx) : Nat := wkCore c.wk

/-- A thread's value of a vector register. -/
def Ctx.reg (c : Ctx) (r : BitVec 6) (i : Fin 32) : Word := c.w.regs[r.toFin].get i

/-- A guard. -/
def Ctx.guard (c : Ctx) (g : Nat) : Mask := c.w.guards[guardIdx g]

/-- A slot. -/
def Ctx.slot (c : Ctx) (k : Nat) : Slot := c.w.slots[slotIdx k]

/-- R28: the active mask. -/
def activeMask (w : Warp) (set : Mask) (ge gn : Bool) (gp : BitVec 4) : Mask :=
  if ge then set &&& (if gn then ~~~ w.guards[gp.toFin] else w.guards[gp.toFin]) else set

/-- R98: what an issue does to wait counts and deferral marks; a candidate that was held has issued. -/
def Warp.noteIssue (w : Warp) (set : Mask) : Warp :=
  { w.modThreads (w.which Thread.isReady) fun i t => { t with wait := if set.getLsbD i then 0 else min (t.wait + 1) 511, defer := false } with
    latch := none, beat := !w.beat }

/-- An instruction issues for the thread set that the step has picked: `f` gives its effect. Where no set stands at an
instruction, nothing happens. -/
def issuing (x : Ext) (s : State) (f : Ctx → State → State) : State :=
  match s.issue with
  | none => s
  | some iss =>
    let wk := iss.core * 64 + iss.slot
    match s.warp? wk with
    | none => s
    | some w0 =>
      let w := w0.noteIssue iss.set
      let act := activeMask w iss.set x.ge x.gn x.gp
      f { wk := wk, w := w, set := iss.set, act := act, zero := if x.z then iss.set &&& ~~~ act else 0
          pc := iss.pc, next := iss.pc + BitVec.ofNat 64 x.len.bytes }
        (s.setWarp wk w)

/-- The threads of a mask go on to an address. -/
def State.goTo (s : State) (wk : Nat) (m : Mask) (pc : Word) : State :=
  s.modWarp wk fun w => w.modThreads m fun _ t => { t with pc := pc }

/-- The threads of the issuing set but for those of `except` go on to the next instruction. -/
def Ctx.advance (c : Ctx) (s : State) (except : Mask := 0) : State := s.goTo c.wk (c.set &&& ~~~ except) c.next

/-- An issued instruction is counted as Retired.executed (R417), with its run bound (event 0x04): without register sources that of its active
mask (R13). -/
def Ctx.executed (c : Ctx) (s : State) (bound : Nat := refinement [] c.act) : State := (s.leaf c.core 0x00 1).count c.core 0x04 bound

/-! ### Taking a fault, a handler and its return (R399 to R406) -/

/-- R46: the ordinal and offset that a record of a thread names for an instruction. -/
def Thread.whereIs (t : Thread) (pc : Word) : BitVec 32 × BitVec 32 :=
  match t.safe with
  | some (ord, base) => (BitVec.ofNat 32 ord, (pc - base).setWidth 32)
  | none => (0xFFFFFFFF#32, (pc - t.startPc).setWidth 32)

/-- How a fault is taken: its cause, the flags of the record, the instruction it names, the resume point it leaves (R403),
and the threads that the record's lane mask marks (DEDUCED, log entry 47). -/
structure FaultAt where
  cause  : Nat
  late   : Bool := false
  decode : Bool := false
  pc     : Word
  mask   : Mask

/-- R399: a thread takes a fault: it is parked with its record. A parked thread takes none. -/
def Thread.take (t : Thread) (f : FaultAt) (warp lane now : Nat) (addr resume : Word) : Thread :=
  if t.isParked then t
  else
    { t with
      st := .parked, resume := resume
      frec := some { cause := f.cause, late := f.late, decode := f.decode, privl := t.privl, warp := warp, lane := lane
                     ordinal := (t.whereIs f.pc).1, offset := (t.whereIs f.pc).2, mask := f.mask, addr := addr, time := BitVec.ofNat 64 now } }

/-- R421: a record reaches the trace unit: it is queued, or lost with the queue full. -/
def Trace.post (t : Trace) (r : TraceRec) : Trace :=
  if !t.en then t
  else if t.queue.length < 64 then { t with queue := t.queue ++ [r] }
  else { t with lost := if t.lost = BitVec.allOnes 64 then t.lost else t.lost + 1
                gap := match t.gap with | some (n, t0) => some (n + 1, t0) | none => some (1, r.time) }

/-- The record's eight-byte words (R399). -/
def FaultRec.word (r : FaultRec) (n : Nat) : Word :=
  match n with
  | 0 => r.ordinal ++ BitVec.ofNat 8 r.lane ++ BitVec.ofNat 8 r.warp ++ (0#5 ++ BitVec.ofBool r.privl ++ BitVec.ofBool r.decode ++ BitVec.ofBool r.late)
          ++ BitVec.ofNat 8 r.cause
  | 1 => r.mask ++ r.offset
  | 2 => r.addr
  | _ => r.time

/-- R420: the trace record of a fault record. -/
def faultTrace (core group : Nat) (r : FaultRec) : TraceRec :=
  { kind := 2, tag := r.cause, core := core, warp := r.warp, group := group, time := r.time.toNat, d0 := r.addr, d1 := r.word 0 ^^^ r.word 1 }

/-- What follows the forming of records: the counter of event 0x0B, and trace records where TRC_CTL.FLT asks for them. -/
def State.noteRecords (s : State) (wk : Nat) (m : Mask) : State :=
  let core := wkCore wk
  let s1 := s.count core 0x0B (Mask.count m)
  match s1.warp? wk with
  | none => s1
  | some w =>
    if s1.trace.en && s1.trace.flt then
      let grp := match s1.groupOf w with | some g => g.index % 2 ^ 16 | none => 0
      { s1 with trace := (Mask.lanes m).foldl (fun tr i => match w.threads[i].frec with | some r => tr.post (faultTrace core grp r) | none => tr) s1.trace }
    else s1

/-- THE shared operation of taking a fault (R399): the threads of the mask are parked at the instruction, each with its record.
`resume` is where the handler returns to (R403). -/
def State.park (s : State) (wk : Nat) (f : FaultAt) (addr resume : Fin 32 → Word) : State :=
  if f.mask = 0 then s
  else
    (s.modWarp wk fun w => w.modThreads f.mask fun i t => t.take f w.widx i s.ns (addr i) (resume i)).noteRecords wk f.mask

/-- R399: a fault that is met after its issue parks those threads of the mask that another fault has not parked and that have not exited. -/
def State.parkStill (s : State) (wk : Nat) (f : FaultAt) (addr resume : Fin 32 → Word) : State :=
  match s.warp? wk with
  | none => s
  | some w => s.park wk { f with mask := f.mask &&& ~~~ w.which fun t => t.isParked || t.isExited } addr resume

/-- A fault detected at issue: the record names the faulting instruction, which is also the resume point. -/
def Ctx.fault (c : Ctx) (s : State) (cause : Nat) (m : Mask) (addr : Fin 32 → Word) : State :=
  s.park c.wk { cause := cause, pc := c.pc, mask := m } addr fun _ => c.pc

/-- R48: a decode fault parks the whole issuing set. -/
def decodeFault (s : State) (iss : Issue) (cause : Nat) : State :=
  s.park (iss.core * 64 + iss.slot) { cause := cause, decode := true, pc := iss.pc, mask := iss.set } (fun _ => iss.pc) fun _ => iss.pc

/-- R38, R47: a privileged instruction whose set is not in privileged mode takes privilege (0x02) instead of its effect. -/
def privileged (x : Ext) (s : State) (f : Ctx → State → State) : State :=
  issuing x s fun c s1 =>
    if (Mask.lanes c.set).all fun i => c.w.threads[i].privl then f c s1
    else s1.park c.wk { cause := 0x02, decode := true, pc := c.pc, mask := c.set } (fun _ => c.pc) fun _ => c.pc

/-- R403: a thread enters the handler at an address. -/
def Thread.enter (t : Thread) (handler : Word) : Thread :=
  { t with epc := t.resume, tcause := match t.frec with | some r => r.cause | none => 0
           privl := true, pc := handler, wait := 0, st := .ready }

/-- R403: the warp enters the handler of a cause: every parked thread, and every thread stopped at a marked instruction. -/
def Warp.enterHandler (w : Warp) (cause : Nat) (handler : Word) : Warp :=
  let m := w.which Thread.isParked ||| w.stopped
  { (w.modThreads m fun i t => (if w.stopped.getLsbD i && !t.isParked then { t with resume := t.pc, frec := none } else t).enter handler) with
    tentry := cause, handler := m, stopped := 0 }

/-- R406: a thread returns from the handler. -/
def Thread.leave (t : Thread) : Thread := { t with privl := false, tcause := 0, pc := t.epc, frec := none }

/-- R404: threads that have returned or exited are no longer in the handler. -/
def Warp.leftHandler (w : Warp) (m : Mask) : Warp := { w with handler := w.handler &&& ~~~ m }

/-- R406: the active threads of a set return to their programs; the others go on, still privileged (DEDUCED, log entry 84). -/
def Ctx.rte (c : Ctx) (s : State) : State :=
  (c.advance s c.act).modWarp c.wk fun w => (w.modThreads c.act fun _ t => t.leave).leftHandler c.act

end Sys2Proof.Machine
end

