-- ==== Sys2Proof/Machine/Operands.lean ====
section
/-! DEFINITION. Operand forms: elements of a thread value (R33, R123), literals and their widening (R35, R36), sources, effective
addresses (R214), and the extended form of a compact instruction (R30). -/

namespace Sys2Proof.Machine

/-- Element `e` of width `w` of a thread value (R123). -/
def elem (w : Nat) (v : Word) (e : Nat) : Nat := v.toNat / 2 ^ (w * e) % 2 ^ w

/-- The thread value of elements, element 0 first, each taken modulo its width. -/
def packElems (w : Nat) : List Nat → Nat
  | [] => 0
  | x :: xs => x % 2 ^ w + 2 ^ w * packElems w xs

def ofElems (w : Nat) (xs : List Nat) : Word := BitVec.ofNat 64 (packElems w xs)

/-- The elements of a thread value of width `w`, element 0 first. -/
def elems (w : Nat) (v : Word) : List Nat := (List.range (64 / w)).map (elem w v)

/-- Two's complement of width `w`. -/
def toSigned (w n : Nat) : Int := if n < 2 ^ (w - 1) then (n : Int) else (n : Int) - 2 ^ w

/-- An integer modulo 2^w. -/
def wrap (w : Nat) (r : Int) : Nat := (r % (2 ^ w : Int)).toNat

/-- The integer types that are signed (R123). -/
def tySigned (ty : Nat) : Bool := ty == 2 || ty == 4 || ty == 6 || ty == 8

/-- R123: min and max of a type. -/
def tyMin (ty : Nat) : Int := if tySigned ty then -(2 ^ (tyWidth ty - 1) : Int) else 0
def tyMax (ty : Nat) : Int := if tySigned ty then (2 ^ (tyWidth ty - 1) : Int) - 1 else (2 ^ tyWidth ty : Int) - 1

/-- R123: val(x, TY). -/
def tyVal (ty n : Nat) : Int := if tySigned ty then toSigned (tyWidth ty) n else (n : Int)

/-- A binary32 widened exactly to binary64 (R36): a NaN keeps its signalling bit, its payload at the high end. -/
def widenF32 (b : BitVec 32) : Word :=
  let sgn := b.toNat / 2 ^ 31
  let ex := b.toNat / 2 ^ 23 % 2 ^ 8
  let fr := b.toNat % 2 ^ 23
  let body :=
    if ex = 255 then 2047 * 2 ^ 52 + fr * 2 ^ 29
    else if ex ≠ 0 then (ex + 896) * 2 ^ 52 + fr * 2 ^ 29
    else if fr = 0 then 0
    else
      let k := Nat.log2 fr
      (k + 874) * 2 ^ 52 + (fr - 2 ^ k) * 2 ^ (52 - k)
  BitVec.ofNat 64 (sgn * 2 ^ 63 + body)

/-- R36: widen(L32, TY). -/
def widen (l : Half) (ty : Nat) : Word :=
  match ty with
  | 2 => l.signExtend 64
  | 9 => widenF32 l
  | 3 | 4 | 10 => l ++ l
  | 5 | 6 | 11 => ofElems 16 (List.replicate 4 l.toNat)
  | 7 | 8 => ofElems 8 (List.replicate 8 l.toNat)
  | _ => l.setWidth 64

/-- A source: a vector register, a literal, or none. -/
inductive Src where
  | reg (r : BitVec 6)
  | lit (v : Word)
  | none_
  deriving DecidableEq, Repr

end Sys2Proof.Machine

namespace Sys2Proof

open Sys2Proof.Machine

/-- The literal of an encoding under a type (R35). -/
def Ext.literalAs (x : Ext) (ty : Nat) : Word := if x.len = .w160 then x.l64 else widen x.l32 ty

/-- The source in field A. -/
def Ext.srcA (x : Ext) : Src := .reg x.a

/-- The source in field B, or the literal that LSEL puts there. -/
def Ext.srcB (x : Ext) : Src := if x.lsel = 1 then .lit (x.literalAs x.ty.toNat) else .reg x.b

/-- The source in field C, or the literal that LSEL puts there (R35: under 0b11 in the 160-bit form for `cas`). -/
def Ext.srcC (x : Ext) : Src :=
  if x.lsel = 2 then .lit (x.literalAs x.ty.toNat)
  else if x.lsel = 3 ∧ x.len = .w160 then .lit x.l64
  else .reg x.c

/-- The offset of an address (R35). -/
def Ext.offset (x : Ext) : Word := if x.lsel = 3 then x.l32.signExtend 64 else 0

/-- R30: the fields of a compact instruction's extended equivalent. Its length stays that of the compact form. -/
def Compact.toExt (c : Compact) (ty : BitVec 4) (cIsD : Bool := false) (mod : BitVec 9 := 0) : Ext :=
  { len := .w32, ge := c.ge, gn := c.gn, gp := c.gp, s := c.s, a := c.a, d := c.d, mod := mod, lsel := 0, sat := false, z := false
    rm := 0, ty := ty, c := if cIsD then c.d else 0, b := c.b, l32 := 0, l64 := 0 }

end Sys2Proof

namespace Sys2Proof.Machine

/-- A thread's value of a source. -/
def Ctx.src (c : Ctx) (o : Src) (i : Fin 32) : Word :=
  match o with
  | .reg r => c.reg r i
  | .lit v => v
  | .none_ => 0

/-- The runs of a source: a literal is one run (R35). -/
def Ctx.srcRuns (c : Ctx) (o : Src) : List Run :=
  match o with
  | .reg r => c.w.regs[r.toFin].runs
  | .lit v => [{ value := v, count := 32 }]
  | .none_ => []

/-- R214: the effective address of a thread. -/
def Ctx.ea (c : Ctx) (x : Ext) (i : Fin 32) : Word := c.reg x.a i + x.offset

/-- R110: the target of a branch, `off` bytes from word 0. -/
def Ctx.target (c : Ctx) (off : Half) : Word := c.pc + off.signExtend 64

end Sys2Proof.Machine
end

