-- ==== Sys2Proof/Machine/Flags.lean ====
section
/-! DEFINITION. The status registers (R124, R144): their fields, writes that keep reserved fields zero (R4), raising flags and the
enabled traps (R125, R126, R145, R147). -/

namespace Sys2Proof.Machine

/-- Flags in %fsr positions [4:0]. -/
def flagNV : BitVec 5 := 0b00001#5
def flagDZ : BitVec 5 := 0b00010#5
def flagOF : BitVec 5 := 0b00100#5
def flagUF : BitVec 5 := 0b01000#5
def flagNX : BitVec 5 := 0b10000#5

/-- Flags in %isr positions [1:0]. -/
def flagIDZ : BitVec 2 := 0b01#2
def flagIOV : BitVec 2 := 0b10#2

/-- %fsr's fields (R144). -/
def fsrFlags (f : BitVec 32) : BitVec 5 := f.extractLsb' 0 5
def fsrEnables (f : BitVec 32) : BitVec 5 := f.extractLsb' 8 5
def fsrRmode (f : BitVec 32) : BitVec 3 := f.extractLsb' 16 3
def fsrFtz (f : BitVec 32) : Bool := f.getLsbD 20

/-- %isr's fields (R124). -/
def isrEnables (i : BitVec 32) : BitVec 2 := i.extractLsb' 16 2

/-- The bits of %fsr and %isr that are fields. -/
def fsrFields : BitVec 32 := 0x00171F1F#32
def isrFields : BitVec 32 := 0x00030003#32

/-- RMODE written: 5, 6 and 7 leave it unchanged (R144). -/
def fsrSetRmode (f : BitVec 32) (m : BitVec 3) : BitVec 32 :=
  if 5 ≤ m.toNat then f else (f &&& ~~~ 0x00070000#32) ||| (m.setWidth 32 <<< 16)

def fsrSetFtz (f : BitVec 32) (b : Bool) : BitVec 32 := (f &&& ~~~ 0x00100000#32) ||| ((BitVec.ofBool b).setWidth 32 <<< 20)

def fsrSetEnables (f : BitVec 32) (m : BitVec 5) : BitVec 32 := (f &&& ~~~ 0x00001F00#32) ||| (m.setWidth 32 <<< 8)

/-- %fsr as a `movs` write leaves it (R4, R144). -/
def fsrWrite (f : BitVec 32) (v : Word) : BitVec 32 :=
  let n := v.setWidth 32
  fsrSetRmode ((f &&& 0x00070000#32) ||| (n &&& fsrFields &&& ~~~ 0x00070000#32)) (fsrRmode n)

/-- %isr as a `movs` write leaves it (R4, R124). -/
def isrWrite (v : Word) : BitVec 32 := v.setWidth 32 &&& isrFields

/-- R125, R145: raising sets sticky bits. -/
def Thread.raise (t : Thread) (ff : BitVec 5) (ii : BitVec 2) : Thread :=
  { t with fsr := t.fsr ||| ff.setWidth 32, isr := t.isr ||| ii.setWidth 32 }

/-- R147: raised flags meet an enabled trap. -/
def Thread.fpTraps (t : Thread) (ff : BitVec 5) : Bool := (ff &&& fsrEnables t.fsr) != 0

/-- R126. -/
def Thread.intTraps (t : Thread) (ii : BitVec 2) : Bool := (ii &&& isrEnables t.isr) != 0

/-- The rounding mode of a thread (R33, R140): RM, or RMODE under `.dyn`. -/
def Thread.rounding (t : Thread) (rm : BitVec 3) : Nat := if rm = 5 then (fsrRmode t.fsr).toNat else rm.toNat

end Sys2Proof.Machine
end

