-- ==== Sys2Proof/Machine/Float.lean ====
section
/-! DEFINITION. Floating-point arithmetic on bit patterns (spec 06, R139 to R143): formats, exact values, the one rounding of
`deliver`, NaNs, and the operations of R150 to R159 on one element. -/

namespace Sys2Proof.Machine

/-- A binary format with hidden bit, infinities and NaNs (R139): exponent bits and fraction bits. -/
structure FFmt where
  eb : Nat
  fb : Nat
  deriving DecidableEq, Repr

def f64 : FFmt := { eb := 11, fb := 52 }
def f32 : FFmt := { eb := 8, fb := 23 }
def bf16 : FFmt := { eb := 8, fb := 7 }
def fp16 : FFmt := { eb := 5, fb := 10 }

/-- The format of a floating TY (R33, R139). -/
def tyFmt (ty : Nat) : FFmt := match ty with | 9 => f64 | 10 => f32 | _ => bf16

def FFmt.width (f : FFmt) : Nat := 1 + f.eb + f.fb
def FFmt.prec (f : FFmt) : Nat := f.fb + 1
def FFmt.bias (f : FFmt) : Int := 2 ^ (f.eb - 1) - 1
def FFmt.emin (f : FFmt) : Int := 1 - f.bias
def FFmt.emax (f : FFmt) : Int := f.bias
def FFmt.expMax (f : FFmt) : Nat := 2 ^ f.eb - 1

/-- The parts of a bit pattern. -/
def FFmt.sign (f : FFmt) (b : Nat) : Bool := b.testBit (f.eb + f.fb)
def FFmt.exp (f : FFmt) (b : Nat) : Nat := b / 2 ^ f.fb % 2 ^ f.eb
def FFmt.frac (f : FFmt) (b : Nat) : Nat := b % 2 ^ f.fb
def FFmt.mag (f : FFmt) (b : Nat) : Nat := b % 2 ^ (f.eb + f.fb)

def FFmt.isNan (f : FFmt) (b : Nat) : Bool := f.exp b == f.expMax && f.frac b != 0
def FFmt.isInf (f : FFmt) (b : Nat) : Bool := f.exp b == f.expMax && f.frac b == 0
def FFmt.isZero (f : FFmt) (b : Nat) : Bool := f.mag b == 0
def FFmt.isSub (f : FFmt) (b : Nat) : Bool := f.exp b == 0 && f.frac b != 0
def FFmt.isSnan (f : FFmt) (b : Nat) : Bool := f.isNan b && !b.testBit (f.fb - 1)

def FFmt.signed (f : FFmt) (neg : Bool) (mag : Nat) : Nat := if neg then 2 ^ (f.eb + f.fb) + mag else mag
def FFmt.inf (f : FFmt) (neg : Bool) : Nat := f.signed neg (f.expMax * 2 ^ f.fb)
def FFmt.zero (f : FFmt) (neg : Bool) : Nat := f.signed neg 0
def FFmt.largest (f : FFmt) (neg : Bool) : Nat := f.signed neg (f.expMax * 2 ^ f.fb - 1)
def FFmt.canon (f : FFmt) : Nat := f.expMax * 2 ^ f.fb + 2 ^ (f.fb - 1)
/-- A NaN with its quiet bit set (R142). -/
def FFmt.quiet (f : FFmt) (b : Nat) : Nat := if b.testBit (f.fb - 1) then b else b + 2 ^ (f.fb - 1)

/-- An exact value: (−1)^neg · m · 2^e, or with `sticky` a value strictly between m and m + 1 units of 2^e. -/
structure Exact where
  neg    : Bool
  m      : Nat
  e      : Int
  sticky : Bool := false
  deriving DecidableEq, Repr

/-- The exact value of a finite pattern (R139). -/
def FFmt.val (f : FFmt) (b : Nat) : Exact :=
  if f.exp b = 0 then { neg := f.sign b, m := f.frac b, e := f.emin - f.fb }
  else { neg := f.sign b, m := 2 ^ f.fb + f.frac b, e := f.emin - f.fb + ((f.exp b : Int) - 1) }

/-- A flag when a condition holds. -/
def flagIf (c : Bool) (f : BitVec 5) : BitVec 5 := if c then f else 0

/-- The bits of `m` above the `s` lowest, rounded by a mode (R33): the rounded number, and whether anything was lost. -/
def roundBits (mode : Nat) (neg : Bool) (m s : Nat) (sticky : Bool) : Nat × Bool :=
  let q := m / 2 ^ s
  let r := m % 2 ^ s
  let lost := r != 0 || sticky
  let up := match mode with
    | 0 => decide (2 ^ s < 2 * r) || (2 * r == 2 ^ s && (sticky || q % 2 == 1))
    | 2 => lost && !neg
    | 3 => lost && neg
    | 4 => decide (2 ^ s ≤ 2 * r)
    | _ => false
  (if up then q + 1 else q, lost)

/-- `m · 2^e` rounded to a multiple of 2^lsb, as a number of those units. -/
def roundAt (mode : Nat) (x : Exact) (lsb : Int) : Nat × Bool :=
  if x.e < lsb then roundBits mode x.neg x.m (lsb - x.e).toNat x.sticky
  else (x.m * 2 ^ (x.e - lsb).toNat, x.sticky)

/-- R140: the result on overflow. -/
def FFmt.overflow (f : FFmt) (mode : Nat) (neg : Bool) : Nat :=
  match mode with
  | 1 => f.largest neg
  | 2 => if neg then f.largest true else f.inf false
  | 3 => if neg then f.inf true else f.largest false
  | _ => f.inf neg

/-- R140: deliver(x, F, m), with flushing where FTZ applies. The value must carry two bits more than the precision when it is
not exact. -/
def deliver (f : FFmt) (mode : Nat) (ftz : Bool) (x : Exact) : Nat × BitVec 5 :=
  if x.m = 0 then (f.zero x.neg, 0)
  else
    let ex : Int := x.e + (Nat.log2 x.m : Int)
    let lu : Int := ex - f.fb
    let u := roundAt mode x lu
    let eu := if u.1 = 2 ^ f.prec then ex + 1 else ex
    if f.emax < eu then (f.overflow mode x.neg, flagOF ||| flagNX)
    else
      let ly := max lu (f.emin - f.fb)
      let y := roundAt mode x ly
      let tiny := decide (eu < f.emin)
      if tiny && ftz then (f.zero x.neg, flagUF ||| flagNX)
      else
        let biased := (ly + f.fb + f.bias).toNat
        (f.signed x.neg ((biased - 1) * 2 ^ f.fb + y.1), if y.2 then flagIf tiny flagUF ||| flagNX else 0)

/-- R146: an operand as it is read: a subnormal is a zero of its sign where FTZ applies. -/
def FFmt.read (f : FFmt) (ftz : Bool) (b : Nat) : Nat := if ftz && f.isSub b then f.zero (f.sign b) else b

/-- R142: the first NaN of a list of operands, quieted, with NV when any of them signals. -/
def FFmt.firstNan (f : FFmt) (ops : List Nat) : Option (Nat × BitVec 5) :=
  match ops.find? f.isNan with
  | some n => some (f.quiet n, flagIf (ops.any f.isSnan) flagNV)
  | none => none

/-- R142: an invalid operation. -/
def FFmt.invalid (f : FFmt) : Nat × BitVec 5 := (f.canon, flagNV)

/-- The exact value with a sign as an integer of units of 2^e. -/
def Exact.units (x : Exact) (e : Int) : Int := (if x.neg then -1 else 1) * ((x.m * 2 ^ (x.e - e).toNat : Nat) : Int)

/-- An integer of units as an exact value. -/
def exactOf (i : Int) (e : Int) (zeroNeg : Bool) : Exact := { neg := if i = 0 then zeroNeg else decide (i < 0), m := i.natAbs, e := e }

/-- The sum of exact values; a zero sum has the sign of its terms when they agree, else that of R141. -/
def exactSum (mode : Nat) (xs : List Exact) : Exact :=
  let e := (xs.map (·.e)).foldl min (match xs with | x :: _ => x.e | [] => 0)
  let i := (xs.map fun x => x.units e).sum
  let sameSign := match xs with | x :: rest => if rest.all fun y => y.neg == x.neg then some x.neg else none | [] => none
  exactOf i e (sameSign.getD (mode == 3))

/-- The exact product. -/
def Exact.mul (x y : Exact) : Exact := { neg := x.neg != y.neg, m := x.m * y.m, e := x.e + y.e }

/-- R150: a + b. -/
def fpAdd (f : FFmt) (mode : Nat) (ftz : Bool) (a b : Nat) : Nat × BitVec 5 :=
  match f.firstNan [a, b] with
  | some r => r
  | none =>
    if f.isInf a then (if f.isInf b ∧ f.sign a ≠ f.sign b then f.invalid else (a, 0))
    else if f.isInf b then (b, 0)
    else deliver f mode ftz (exactSum mode [f.val a, f.val b])

/-- The pattern with its sign inverted. -/
def FFmt.neg (f : FFmt) (b : Nat) : Nat := f.signed (!f.sign b) (f.mag b)

/-- R150: a − b; a NaN b keeps its sign. -/
def fpSub (f : FFmt) (mode : Nat) (ftz : Bool) (a b : Nat) : Nat × BitVec 5 :=
  match f.firstNan [a, b] with
  | some r => r
  | none => fpAdd f mode ftz a (f.neg b)

/-- R150: a × b. -/
def fpMul (f : FFmt) (mode : Nat) (ftz : Bool) (a b : Nat) : Nat × BitVec 5 :=
  match f.firstNan [a, b] with
  | some r => r
  | none =>
    let neg := f.sign a != f.sign b
    if f.isInf a ∨ f.isInf b then (if f.isZero a ∨ f.isZero b then f.invalid else (f.inf neg, 0))
    else deliver f mode ftz ((f.val a).mul (f.val b))

/-- A sum of products and addends with one rounding (R150, R159): `prods` are read in format `fi`, `c` in the result's format.
`nans` lists the operands in precedence order, as patterns of the result's format. A product of zero and infinity raises NV beside a quiet NaN in any
operand, which R142 states of C alone (DESIGN CHOICE, log entry 122). -/
def fpDot (fi f : FFmt) (mode : Nat) (ftz : Bool) (prods : List (Nat × Nat)) (c : Nat) (nans : List Nat) : Nat × BitVec 5 :=
  let badProd := prods.any fun p => (fi.isInf p.1 && fi.isZero p.2) || (fi.isZero p.1 && fi.isInf p.2)
  match f.firstNan nans with
  | some r => (r.1, r.2 ||| flagIf badProd flagNV)
  | none =>
    let infs := (prods.filter fun p => fi.isInf p.1 || fi.isInf p.2).map (fun p => fi.sign p.1 != fi.sign p.2) ++ if f.isInf c then [f.sign c] else []
    if badProd then f.invalid
    else
      match infs with
      | s :: rest => if rest.all fun q => q == s then (f.inf s, 0) else f.invalid
      | [] => deliver f mode ftz (exactSum mode (prods.map (fun p => (fi.val p.1).mul (fi.val p.2)) ++ [f.val c]))

/-- R150: a × b + c. -/
def fpFma (f : FFmt) (mode : Nat) (ftz : Bool) (a b c : Nat) : Nat × BitVec 5 := fpDot f f mode ftz [(a, b)] c [a, b, c]

/-- The exact quotient to at least `bits` bits, with what is left as a sticky bit. -/
def exactDiv (bits : Nat) (x y : Exact) : Exact :=
  let k := bits + Nat.log2 y.m + 1
  let n := x.m * 2 ^ k
  { neg := x.neg != y.neg, m := n / y.m, e := x.e - y.e - k, sticky := n % y.m != 0 }

/-- R150, R143: a / b. -/
def fpDiv (f : FFmt) (mode : Nat) (ftz : Bool) (a b : Nat) : Nat × BitVec 5 :=
  match f.firstNan [a, b] with
  | some r => r
  | none =>
    let neg := f.sign a != f.sign b
    if f.isInf a then (if f.isInf b then f.invalid else (f.inf neg, 0))
    else if f.isInf b then (f.zero neg, 0)
    else if f.isZero b then (if f.isZero a then f.invalid else (f.inf neg, flagDZ))
    else if f.isZero a then (f.zero neg, 0)
    else deliver f mode ftz (exactDiv (f.prec + 3) (f.val a) (f.val b))

/-- The integer square root, bit by bit from bit `k`. -/
def isqrtFrom : Nat → Nat → Nat → Nat
  | 0, _, r => r
  | k + 1, n, r => if (r + 2 ^ k) * (r + 2 ^ k) ≤ n then isqrtFrom k n (r + 2 ^ k) else isqrtFrom k n r

def isqrt (n : Nat) : Nat := isqrtFrom (Nat.log2 n / 2 + 1) n 0

/-- The exact square root of a positive value to at least `bits` bits. -/
def exactSqrt (bits : Nat) (x : Exact) : Exact :=
  let k := 2 * bits + (if x.e % 2 = 0 then 0 else 1)
  let n := x.m * 2 ^ k
  { neg := false, m := isqrt n, e := (x.e - k) / 2, sticky := isqrt n * isqrt n != n }

/-- R150: √a. -/
def fpSqrt (f : FFmt) (mode : Nat) (ftz : Bool) (a : Nat) : Nat × BitVec 5 :=
  match f.firstNan [a] with
  | some r => r
  | none =>
    if f.isZero a then (a, 0)
    else if f.sign a then f.invalid
    else if f.isInf a then (a, 0)
    else deliver f mode ftz (exactSqrt (f.prec + 3) (f.val a))

/-- The order of R151: −0 below +0. -/
def FFmt.key (f : FFmt) (b : Nat) : Int := if f.sign b then -(f.mag b : Int) - 1 else (f.mag b : Int)

/-- R151: the smaller or larger of two numbers. -/
def FFmt.pick (f : FFmt) (wantMax : Bool) (a b : Nat) : Nat :=
  if wantMax then (if f.key a < f.key b then b else a) else (if f.key b < f.key a then b else a)

/-- R151: minimumNumber and maximumNumber. -/
def fpMinNum (f : FFmt) (wantMax : Bool) (a b : Nat) : Nat × BitVec 5 :=
  let fl := flagIf (f.isSnan a || f.isSnan b) flagNV
  if f.isNan a then (if f.isNan b then (f.quiet a, fl) else (b, fl))
  else if f.isNan b then (a, fl)
  else (f.pick wantMax a b, 0)

/-- R151: minimum and maximum. -/
def fpMinMax (f : FFmt) (wantMax : Bool) (a b : Nat) : Nat × BitVec 5 :=
  match f.firstNan [a, b] with
  | some r => r
  | none => (f.pick wantMax a b, 0)

/-- The value order: −0 equals +0. -/
def FFmt.ord (f : FFmt) (b : Nat) : Int := if f.sign b then -(f.mag b : Int) else (f.mag b : Int)

/-- R152: a condition on a pair, and the flag it raises. -/
def fpCmp (f : FFmt) (cc a b : Nat) : Bool × BitVec 5 :=
  let un := f.isNan a || f.isNan b
  let sn := f.isSnan a || f.isSnan b
  let x := f.ord a
  let y := f.ord b
  match cc with
  | 0 => (!un && x == y, flagIf sn flagNV)
  | 1 => (un || x != y, flagIf sn flagNV)
  | 2 => (!un && decide (x < y), flagIf un flagNV)
  | 3 => (!un && decide (x ≤ y), flagIf un flagNV)
  | 4 => (!un && decide (y < x), flagIf un flagNV)
  | 5 => (!un && decide (y ≤ x), flagIf un flagNV)
  | 6 => (un, flagIf sn flagNV)
  | _ => (!un, flagIf sn flagNV)

/-- R153: the class mask. -/
def fpClass (f : FFmt) (a : Nat) : Nat :=
  if f.isSnan a then 2 ^ 0
  else if f.isNan a then 2 ^ 1
  else if f.sign a then (if f.isInf a then 2 ^ 2 else if f.isZero a then 2 ^ 5 else if f.isSub a then 2 ^ 4 else 2 ^ 3)
  else (if f.isInf a then 2 ^ 9 else if f.isZero a then 2 ^ 6 else if f.isSub a then 2 ^ 7 else 2 ^ 8)

/-- R155: the integral value, exact in the format. -/
def fpRint (f : FFmt) (mode : Nat) (wantNx : Bool) (a : Nat) : Nat × BitVec 5 :=
  match f.firstNan [a] with
  | some r => r
  | none =>
    if f.isInf a ∨ f.isZero a then (a, 0)
    else
      let x := f.val a
      let r := roundAt mode x 0
      ((deliver f 0 false { neg := x.neg, m := r.1, e := 0 }).1, flagIf (wantNx && r.2) flagNX)

/-- R156: a × 2^n. Beyond ±10,000 every n gives the same result. -/
def fpScale (f : FFmt) (mode : Nat) (ftz : Bool) (a : Nat) (n : Int) : Nat × BitVec 5 :=
  match f.firstNan [a] with
  | some r => r
  | none =>
    if f.isInf a ∨ f.isZero a then (a, 0)
    else
      let x := f.val a
      deliver f mode ftz { x with e := x.e + max (-10000) (min n 10000) }

/-- E(x) of a nonzero value (R5). -/
def Exact.log2 (x : Exact) : Int := x.e + (Nat.log2 x.m : Int)

/-- R157. An exponent of 0 is +0 (DESIGN CHOICE, log entry 102). -/
def fpGetExp (f : FFmt) (a : Nat) : Nat × BitVec 5 :=
  match f.firstNan [a] with
  | some r => r
  | none =>
    if f.isInf a then (f.inf false, 0)
    else if f.isZero a then (f.inf true, flagDZ)
    else deliver f 0 false (exactOf (f.val a).log2 0 false)

def fpGetMan (f : FFmt) (a : Nat) : Nat × BitVec 5 :=
  match f.firstNan [a] with
  | some r => r
  | none =>
    if f.isInf a then f.invalid
    else if f.isZero a then (a, 0)
    else
      let x := f.val a
      deliver f 0 false { x with e := x.e - x.log2 }

/-- R158: a − n·b with n the integer nearest a / b, ties to even. -/
def fpRem (f : FFmt) (ftz : Bool) (a b : Nat) : Nat × BitVec 5 :=
  match f.firstNan [a, b] with
  | some r => r
  | none =>
    if f.isInf a ∨ f.isZero b then f.invalid
    else if f.isInf b then deliver f 0 ftz (f.val a)
    else
      let x := f.val a
      let y := f.val b
      let e := min x.e y.e
      let p := x.m * 2 ^ (x.e - e).toNat
      let d := y.m * 2 ^ (y.e - e).toNat
      let q := p / d
      let r := p % d
      let up := decide (d < 2 * r) || (2 * r == d && q % 2 == 1)
      let i : Int := if up then (r : Int) - d else (r : Int)
      deliver f 0 ftz (exactOf (if x.neg then -i else i) e x.neg)

/-- A pattern of a narrower format in a wider one: exact, a NaN with its payload at the high end. -/
def FFmt.widenTo (f g : FFmt) (b : Nat) : Nat :=
  if f.isNan b then g.signed (f.sign b) (g.expMax * 2 ^ g.fb + f.frac b * 2 ^ (g.fb - f.fb))
  else if f.isInf b then g.inf (f.sign b)
  else (deliver g 0 false (f.val b)).1

end Sys2Proof.Machine
end

