-- ==== Sys2Proof/Machine/Results.lean ====
section
/-! DEFINITION. How an instruction's results come about: cells and run overflow at issue (R66, R67), the reuse table (R72 to R75),
the writing of results with flags and traps (R63, R81, R126, R147, R227), and results that are outstanding (R42 to R44). -/

namespace Sys2Proof.Machine

/-- The flags of a lane's delivery. -/
def LaneOut.fflags : LaneOut → BitVec 5
  | .value _ _ f _ => f
  | .fault _ _ => 0

def LaneOut.iflags : LaneOut → BitVec 2
  | .value _ _ _ i => i
  | .fault _ _ => 0

/-- The vector result of a lane. -/
def LaneOut.word : LaneOut → Word
  | .value v _ _ _ => v
  | .fault _ _ => 0

/-- The guard bit of a lane. -/
def LaneOut.bit : LaneOut → Bool
  | .value _ g _ _ => g
  | .fault _ _ => false

/-- A result without flags. -/
def plain (v : Word) : LaneOut := .value v false 0 0

/-- The fault that a lane's delivery leads to: its own, or an enabled trap (R126, R147); with its address field. -/
def LaneOut.trap (o : LaneOut) (t : Thread) : Option (Nat × Word) :=
  match o with
  | .fault c a => some (c, a)
  | .value _ _ f i =>
    if t.fpTraps f then some (0x06, f.setWidth 64)
    else if t.intTraps i then some (0x07, i.setWidth 64)
    else none

/-- The causes that a result can raise. -/
def resultCauses : List Nat := [0x03, 0x04, 0x05, 0x06, 0x07, 0x08, 0x0B, 0x13, 0x15]

/-- The lanes of a mask that a delivery traps, with any cause or with a given one. -/
def trapsOf (w : Warp) (m : Mask) (outs : Fin 32 → LaneOut) : Mask :=
  maskOf fun i => m.getLsbD i && ((outs i).trap w.threads[i]).isSome

def trapsWith (w : Warp) (m : Mask) (outs : Fin 32 → LaneOut) (cause : Nat) : Mask :=
  maskOf fun i => m.getLsbD i && (match (outs i).trap w.threads[i] with | some (c, _) => c == cause | none => false)

/-- The lanes that a delivery traps are parked, by cause, but for those that are parked already (R399). -/
def State.parkTraps (s : State) (wk : Nat) (w : Warp) (act : Mask) (outs : Fin 32 → LaneOut) (parkAt : Word) (resume : Fin 32 → Word) : State :=
  resultCauses.foldl (fun s cause =>
    s.park wk { cause := cause, pc := parkAt, mask := trapsWith w act outs cause &&& ~~~ w.which Thread.isParked }
      (fun i => match (outs i).trap w.threads[i] with | some (_, a) => a | none => 0) resume) s

/-- The threads of a mask raise their flags. -/
def State.raiseFlags (s : State) (wk : Nat) (act : Mask) (outs : Fin 32 → LaneOut) : State :=
  s.modWarp wk fun w => w.modThreads act fun i t => t.raise (outs i).fflags (outs i).iflags

/-- Guard bits go to a guard. -/
def State.putGuard (s : State) (wk : Nat) (g : Nat) (act zero : Mask) (outs : Fin 32 → LaneOut) : State :=
  s.modWarp wk fun w => w.writeGuard g act zero (maskOf fun i => (outs i).bit)

/-- Results go to their destination (R63, R81). -/
def State.putDst (s : State) (wk : Nat) (dst : Dst) (act zero : Mask) (outs : Fin 32 → LaneOut) : State :=
  match dst with
  | .vec d => s.writeVec wk d act zero fun i => (outs i).word
  | .guard g => s.putGuard wk g act zero outs
  | .nowhere => s

/-- Guard bits go to a second destination, if there is one. -/
def State.putSecond (s : State) (wk : Nat) (dst2 : Option Nat) (act zero : Mask) (outs : Fin 32 → LaneOut) : State :=
  match dst2 with
  | some g => s.putGuard wk g act zero outs
  | none => s

/-- Results are written: every flag is raised, threads that trap keep their destinations and are parked, and the others take
their results under R63 and R81. `parkAt` names the instruction, `resume` the point of R403. -/
def deliverTo (s : State) (wk : Nat) (dst : Dst) (dst2 : Option Nat) (act zero : Mask) (outs : Fin 32 → LaneOut)
    (parkAt : Word) (resume : Fin 32 → Word) : State :=
  match s.warp? wk with
  | none => s
  | some w =>
    let good := act &&& ~~~ trapsOf w act outs
    ((((s.raiseFlags wk act outs).putDst wk dst good zero outs).putSecond wk dst2 good zero outs).parkTraps wk w act outs parkAt resume)

/-! ### Cells (R66, R67) -/

/-- Some thread of the warp keeps its old destination (R66). -/
def Ctx.keeps (c : Ctx) (x : Ext) : Bool := if x.z then c.set != BitVec.allOnes 32 else c.act != BitVec.allOnes 32

/-- R66: the elementwise charge bound. -/
def Ctx.elemBound (c : Ctx) (x : Ext) (srcs : List Src) (d : BitVec 6) : Nat :=
  refinement (srcs.map c.srcRuns ++ if c.keeps x then [c.w.regs[d.toFin].runs] else []) c.act

/-- R66: the cells that are missing for a result of a given bound: 0 when the test holds. -/
def Ctx.missing (c : Ctx) (s : State) (d : BitVec 6) (bound : Nat) : Nat :=
  (c.w.charged - c.w.cellsOf d + bound) - (c.w.quota + s.lendableTo c.w c.wk)

/-- R66: the bound for which a result that is to be outstanding borrows cells; 0 where the quota covers it (DEDUCED, log entry 91). -/
def Ctx.borrows (c : Ctx) (d : BitVec 6) (bound : Nat) : Nat := if c.w.quota < c.w.charged - c.w.cellsOf d + bound then bound else 0

/-- R66: threads begin to wait for a result of a bound in a register. -/
def Ctx.lend (c : Ctx) (s : State) (d : BitVec 6) (bound : Nat) : State :=
  let old := if (c.w.which fun t => t.awaits == some d) = 0 then 0 else (Sparse.find c.w.loans d.toNat).getD 0
  let n := max old (c.borrows d bound)
  s.modWarp c.wk fun w => { w with loans := if n = 0 then Sparse.erase w.loans d.toNat else Sparse.insert w.loans d.toNat n }

/-- R67: run overflow parks the active mask; the rest of the set goes on, but for threads that Z has still to give zeros: they stay at the
instruction, which has had no effect (DEDUCED, log entry 35). -/
def Ctx.overflow (c : Ctx) (s : State) (missing : Nat) : State :=
  ((c.advance s (c.act ||| c.zero)).count c.core 0x06 1).park c.wk { cause := 0x0C, pc := c.pc, mask := c.act } (fun _ => BitVec.ofNat 64 missing) fun _ => c.pc

/-- R66, R67: an instruction with a vector destination goes on only if its charge bound fits. -/
def Ctx.charged (c : Ctx) (s : State) (d : BitVec 6) (bound : Nat) (go : State → State) : State :=
  if c.act = 0 ∨ c.missing s d bound = 0 then go s else c.overflow s (c.missing s d bound)

/-! ### The reuse table (R72 to R75) -/

/-- The name of a source, if it can be part of a key: 0 where the field names no register, none for an unnamed register. -/
def Ctx.srcName (c : Ctx) (o : Src) : Option (BitVec 26) :=
  match o with
  | .reg r => match c.w.regs[r.toFin].name with | .named n => some n | .unnamed _ => none
  | _ => some 0

/-- What a key is made of beside the instruction's fields. -/
structure KeyParts where
  opc    : Nat
  a      : Src := .none_
  b      : Src := .none_
  c      : Src := .none_
  cTag   : Option (BitVec 26) := none     -- the pattern tag of `xpat` (R207)
  guards : List Nat := []
  dst    : Option (BitVec 6) := none
  ident  : Word × Word := (0, 0)

/-- The rounding part: the mode, or none where `.dyn` differs among the active threads (R72). -/
def Ctx.keyRounding (c : Ctx) (x : Ext) : Option Nat :=
  if x.rm = 5 then
    match Mask.lowest c.act with
    | none => some 0
    | some i0 =>
      let m := (fsrRmode c.w.threads[i0].fsr).toNat
      if (Mask.lanes c.act).all fun i => (fsrRmode c.w.threads[i].fsr).toNat == m then some m else none
  else some x.rm.toNat

/-- R72: the ten key words, with the names they hold. None where the instruction is not looked up. -/
def Ctx.reuseKey (c : Ctx) (x : Ext) (k : KeyParts) : Option (List Word × List (BitVec 26)) :=
  match c.keyRounding x, c.srcName k.a, c.srcName k.b, (match k.cTag with | some t => some t | none => c.srcName k.c),
        (match k.dst with | some d => if c.keeps x then c.srcName (.reg d) else some 0 | none => some 0) with
  | some rm, some na, some nb, some nc, some nd =>
    let priv := match Mask.lowest c.act with | some i => c.w.threads[i].privl | none => false
    let w0 : Nat := k.opc + x.mod.toNat * 2 ^ 9 + x.ty.toNat * 2 ^ 18 + x.sat.toNat * 2 ^ 22 + x.z.toNat * 2 ^ 23 + x.lsel.toNat * 2 ^ 24
      + rm * 2 ^ 26 + priv.toNat * 2 ^ 29
    let ftz := if x.ty = 0xA ∨ x.ty = 0xB then maskOf fun i => c.act.getLsbD i && fsrFtz c.w.threads[i].fsr else 0
    let g0 := match k.guards with | g :: _ => c.guard g | [] => 0
    let g1 := match k.guards with | _ :: g :: _ => c.guard g | _ => 0
    let wz : Mask := if x.z then c.set else 0
    some ([BitVec.ofNat 64 w0, (nb.setWidth 64 <<< 26) ||| na.setWidth 64, (nd.setWidth 64 <<< 26) ||| nc.setWidth 64,
           x.l32.setWidth 64, x.l64, (g1 ++ g0 : Word), (wz ++ c.act : Word), ftz.setWidth 64, k.ident.1, k.ident.2],
          [na, nb, nd] ++ if k.cTag.isSome then [] else [nc])
  | _, _, _, _, _ => none

/-- R72: the set of a key: bits [8:0] of H. -/
def reuseSet (key : List Word) : Nat := hashH key % 512

/-- R75: a lookup: the entry that holds exactly the key. -/
def Core.reuseFind (k : Core) (key : List Word) : Option ReuseEntry := k.reuse.find? fun e => e.key == key

/-- The entry becomes the most recently used. -/
def Core.reuseTouch (k : Core) (key : List Word) : Core :=
  { k with reuse := (k.reuse.filter fun e => e.key == key) ++ k.reuse.filter fun e => e.key != key }

/-- R72: an entry is made; a set keeps its eight most recently used. -/
def Core.reuseEnter (k : Core) (e : ReuseEntry) : Core :=
  let es := e :: k.reuse.filter fun f => f.key != e.key
  let inSet := es.filter fun f => f.set == e.set
  { k with reuse := match inSet.drop 8 with | [] => es | extra => es.filter fun f => !(extra.contains f) }

/-- Every source that an entry names is still live (R71). -/
def State.namesLive (s : State) (core : Nat) (names : List (BitVec 26)) : Bool :=
  names.all fun n => n == 0 || (s.liveRegs core).any fun r => r.name == .named n

/-- What an entry records of the threads of a mask (R73). -/
def reuseLanes (act : Mask) (outs : Fin 32 → LaneOut) (rels : Sparse Nat) : Sparse ReuseLane :=
  (Mask.lanes act).map fun i =>
    (i.val, { bit := (outs i).bit, fflags := (outs i).fflags, iflags := (outs i).iflags, rel := (Sparse.find rels i.val).getD 0 })

/-- What is entered beside the result. -/
structure Entry where
  key    : List Word × List (BitVec 26)
  expiry : Option Nat := none
  stamp  : Nat := 0
  lines  : List (Nat × Nat) := []
  lanes  : Sparse ReuseLane

def Entry.made (e : Entry) (r : Option VecReg) : ReuseEntry :=
  { set := reuseSet e.key.1, key := e.key.1, names := e.key.2, result := r, expiry := e.expiry, stamp := e.stamp, lines := e.lines, lanes := e.lanes }

/-- R73: an instruction that wrote its result without fault makes an entry, unless the result is unnamed, or the write released a source
that the entry would name (R71). -/
def State.enterReuse (s : State) (wk : Nat) (e : Entry) (dst : Dst) : State :=
  match s.warp? wk with
  | none => s
  | some w =>
    if !s.namesLive (wkCore wk) e.key.2 then s
    else
      match dst with
      | .vec d => match w.regs[d.toFin].name with | .named _ => s.modCore (wkCore wk) fun k => k.reuseEnter (e.made (some w.regs[d.toFin])) | .unnamed _ => s
      | _ => s.modCore (wkCore wk) fun k => k.reuseEnter (e.made none)

/-- An instruction whose results are computed from the warp alone. -/
structure VOp where
  key    : KeyParts
  dst    : Dst
  dst2   : Option Nat := none
  bound  : Option Nat := none             -- none: the elementwise bound
  long   : Bool := false                  -- long-latency (R42)
  reuse  : Bool := true                   -- reusable (R74)
  out    : Fin 32 → LaneOut

/-- The sources of an instruction. -/
def VOp.srcs (o : VOp) : List Src := [o.key.a, o.key.b, o.key.c]

/-- An outstanding result is noted (R42). -/
def Ctx.outstanding (c : Ctx) (s : State) (p : Pending) : State :=
  s.bump.modWarp c.wk fun w => { w with pend := w.pend ++ [p] }

/-- R72, R75, R417: an issue is counted: a lookup, a hit, or an execution with its run bound. -/
def Ctx.noteLookup (c : Ctx) (s : State) (keyed hit : Bool) (bound : Nat) : State :=
  let s1 := if keyed then s.count c.core 0x01 1 else s
  if hit then (s1.count c.core 0x02 1).leaf c.core 0x01 1 else c.executed s1 bound

/-- R73, R75: what a write does to the reuse table. -/
def Ctx.noteWritten (c : Ctx) (s : State) (key : Option (List Word × List (BitVec 26))) (hit : Bool) (trapped : Mask) (dst : Dst)
    (outs : Fin 32 → LaneOut) : State :=
  match key with
  | some k =>
    if hit then s.modCore c.core fun q => q.reuseTouch k.1
    else if trapped = 0 then s.enterReuse c.wk { key := k, lanes := reuseLanes c.act outs [] } dst else s
  | none => s

/-- R73: what an entry records is what an execution would give: the result's values in the active threads, their bits and their flags. -/
def ReuseEntry.records (e : ReuseEntry) (dst : Dst) (act : Mask) (outs : Fin 32 → LaneOut) : Bool :=
  (Mask.lanes act).all fun i =>
    (match Sparse.find e.lanes i.val with
     | some l => l.bit == (outs i).bit && l.fflags == (outs i).fflags && l.iflags == (outs i).iflags
     | none => false)
    && (match dst with
        | .vec _ => (match e.result with | some r => r.get i == (outs i).word | none => false)
        | _ => true)

/-- R75: an entry that holds exactly a key serves the instruction. Every entry that a run makes records what execution gives (DEDUCED,
log entry 15). -/
def Ctx.hits (c : Ctx) (s : State) (key : Option (List Word × List (BitVec 26))) (dst : Dst) (outs : Fin 32 → LaneOut) : Bool :=
  match key with
  | some k => match (s.coreOf c.core).reuseFind k.1 with | some e => e.records dst c.act outs | none => false
  | none => false

/-- The key of an instruction that may be looked up. -/
def Ctx.keyOf (c : Ctx) (x : Ext) (o : VOp) : Option (List Word × List (BitVec 26)) := if o.reuse then c.reuseKey x o.key else none

/-- R75: the instruction is served from the reuse table: a hit whose recorded flags meet no enabled trap. -/
def Ctx.served (c : Ctx) (x : Ext) (o : VOp) (s : State) : Bool := c.hits s (c.keyOf x o) o.dst o.out && trapsOf c.w c.act o.out == 0

/-- The destination of an instruction as it stands at issue. -/
def Ctx.oldRuns (c : Ctx) (dst : Dst) : List Run := match dst with | .vec d => c.w.regs[d.toFin].runs | _ => []

/-- R42: the result that an instruction leaves outstanding. -/
def Ctx.pendingOf (c : Ctx) (x : Ext) (o : VOp) (id : Nat) : Pending :=
  { id := id, pc := c.pc, dst := o.dst, act := c.act, zero := c.zero, left := c.act, outs := lanes.map fun i => (i.val, o.out i)
    key := c.keyOf x o, old := c.oldRuns o.dst, isLoad := false, watch := false, lines := [], hits := [], stamp := 0, rels := [], ldc := none, form := none
    bound := match o.dst with | .vec d => c.borrows d (o.bound.getD (c.elemBound x o.srcs d)) | _ => 0 }

/-- A result without a flag or fault of its own, and an instruction that may be served from the reuse table. A hit gives what
execution gives (DEDUCED, log entry 15): it is counted, and a long-latency result counts as written. -/
def Ctx.results (c : Ctx) (x : Ext) (o : VOp) (s : State) : State :=
  let bound := refinement (o.srcs.map c.srcRuns) c.act
  if c.act = 0 then
    c.advance (c.executed (deliverTo s c.wk o.dst o.dst2 0 c.zero o.out c.pc fun _ => c.pc) bound)
  else
    let hit := c.served x o s
    let s2 := c.noteLookup s (c.keyOf x o).isSome hit bound
    if o.long && !hit then c.advance (c.outstanding s2 (c.pendingOf x o s.fresh))
    else
      let trapped := trapsOf c.w c.act o.out
      c.advance (c.noteWritten (deliverTo s2 c.wk o.dst o.dst2 c.act c.zero o.out c.pc fun _ => c.pc) (c.keyOf x o) hit trapped o.dst o.out) trapped

/-- The shared operation of every instruction whose results come from the warp alone. -/
def vectorOp (x : Ext) (o : Ctx → VOp) (s : State) : State :=
  issuing x s fun c s1 =>
    let op := o c
    match op.dst with
    | .vec d => c.charged s1 d (op.bound.getD (c.elemBound x op.srcs d)) (c.results x op)
    | _ => c.results x op s1

/-- R44, R73: the destination holds the result that the instruction gives over what the destination held at issue: no later instruction of the
segment has written it. -/
def Pending.stands (p : Pending) (w : Warp) : Bool :=
  match p.dst with
  | .vec d => decide (w.regs[d.toFin].runs = match p.form with
      | some rs => if p.act = BitVec.allOnes 32 then rs else runsOfTags (tagsOf p.old p.act p.zero fun i => ((Sparse.find p.outs i.val).getD (plain 0)).word)
      | none => runsOfTags (tagsOf p.old p.act p.zero fun i => ((Sparse.find p.outs i.val).getD (plain 0)).word))
  | _ => true

/-- R63: the runs of a result that has been written lane by lane, formed over those of its lanes that still hold it. -/
def State.formRuns (s : State) (wk : Nat) (p : Pending) (bad : Mask) : State :=
  match p.dst, s.warp? wk with
  | .vec d, some w =>
    let still := maskOf fun i => p.act.getLsbD i && !bad.getLsbD i && (match Sparse.find p.outs i.val with | some o => w.regs[d.toFin].get i == o.word | none => false)
    s.writeVec wk d still p.zero fun i => w.regs[d.toFin].get i
  | _, _ => s

/-- R271: a lane of a result waits for it no more: it has been parked. -/
def State.forgetLane (s : State) (wk id : Nat) (m : Mask) : State :=
  match s.warp? wk with
  | none => s
  | some w =>
    match w.pend.find? fun p => p.id == id with
    | none => s
    | some p =>
      let q := { p with act := p.act &&& ~~~ m, left := p.left &&& ~~~ m }
      if q.left = 0 then (s.modWarp wk fun w => { w with pend := w.pend.filter fun r => r.id != id }).formRuns wk q 0
      else s.modWarp wk fun w => { w with pend := w.pend.map fun r => if r.id = id then q else r }

/-- The write of an outstanding result into some of its lanes (R42, R44). When the last lanes are written, the runs are formed
over all active threads (R63), or are those of the record that a whole warp read (R231), and the entry of R73 is made. -/
def State.writePending (s : State) (wk id : Nat) (m : Mask) : State :=
  match s.warp? wk with
  | none => s
  | some w =>
    match w.pend.find? fun p => p.id == id with
    | none => s
    | some p =>
      let known := maskOf fun i => (Sparse.find p.outs i).isSome
      let now := m &&& p.left &&& known
      if now = 0 then s
      else
        let out := fun (i : Fin 32) => (Sparse.find p.outs i).getD (plain 0)
        let left := p.left &&& ~~~ now
        let bad := maskOf fun i => p.act.getLsbD i && ((out i).trap w.threads[i]).isSome
        let s1 := deliverTo s wk p.dst none now (if left = 0 then p.zero else 0) out p.pc (fun i => w.threads[i].pc)
        let s2 := match p.dst with
          | .vec d =>
            if left = 0 && bad = 0 && p.act = BitVec.allOnes 32 && p.form.isSome then s1.writeRuns wk d (p.form.getD [])
            else if left = 0 && now != p.act then s1.formRuns wk p bad
            else s1
          | _ => s1
        if left = 0 then
          let s3 := s2.modWarp wk fun w => { w with pend := w.pend.filter fun q => q.id != id }
          match p.key with
          | some k =>
            if bad = 0 && (match s3.warp? wk with | some w3 => p.stands w3 | none => false) then
              s3.enterReuse wk { key := k, expiry := if p.isLoad then (p.lines.map (·.lease)).min? else none, stamp := p.stamp
                                 lines := p.lines.map fun l => (l.key, l.no), lanes := reuseLanes p.act out p.rels } p.dst
            else s3
          | none => s3
        else s2.modWarp wk fun w => { w with pend := w.pend.map fun q => if q.id = id then { q with left := left } else q }

end Sys2Proof.Machine
end

