-- ==== Sys2Proof/Machine/Integer.lean ====
section
/-! DEFINITION. Class 0x2, integer instructions (spec 05, R128 to R132), and the compact forms among them (R30). -/

namespace Sys2Proof.Machine

/-- What every meaning answers. -/
abbrev Out := Host.Outcome State Fault Refusal

/-- Elements computed one by one from two or three thread values (R123). -/
def mapElems (ty : Nat) (f : Nat → Nat → Nat → Nat) (a b c : Word) : Word :=
  let w := tyWidth ty
  ofElems w ((List.range (64 / w)).map fun e => f (elem w a e) (elem w b e) (elem w c e))

/-- R128: one element of an exact integer operation, saturated or wrapped. -/
def intElem (ty : Nat) (sat : Bool) (op : Int → Int → Int → Int) (a b c : Nat) : Nat :=
  let r := op (tyVal ty a) (tyVal ty b) (tyVal ty c)
  wrap (tyWidth ty) (if sat then max (tyMin ty) (min r (tyMax ty)) else r)

/-- An instruction that gives one thread value from up to three, without flags, and is reusable. -/
def wordOp (opc : Nat) (x : Ext) (a b c : Src) (f : Word → Word → Word → Word) (s : State) : State :=
  vectorOp x (fun q =>
    { key := { opc := opc, a := a, b := b, c := c, dst := some x.d }, dst := .vec x.d
      out := fun i => plain (f (q.src a i) (q.src b i) (q.src c i)) }) s

/-- R128. -/
def intOp1 (opc : Nat) (x : Ext) (op : Int → Int) (s : State) : State :=
  wordOp opc x x.srcA .none_ .none_ (mapElems x.ty.toNat (intElem x.ty.toNat x.sat fun a _ _ => op a)) s

def intOp2 (opc : Nat) (x : Ext) (op : Int → Int → Int) (s : State) : State :=
  wordOp opc x x.srcA x.srcB .none_ (mapElems x.ty.toNat (intElem x.ty.toNat x.sat fun a b _ => op a b)) s

def intOp3 (opc : Nat) (x : Ext) (op : Int → Int → Int → Int) (s : State) : State :=
  wordOp opc x x.srcA x.srcB x.srcC (mapElems x.ty.toNat (intElem x.ty.toNat x.sat op)) s

/-- R128: the high half of the product. -/
def mulHigh (ty : Nat) (a b : Int) : Int := (a * b) / (2 ^ tyWidth ty : Int)

/-- R128: `iclamp`. -/
def clamp (a lo hi : Int) : Int := min (max a lo) hi

def execIadd (x : Ext) (s : State) : Out := .next (intOp2 0x040 x (· + ·) s)
def execIsub (x : Ext) (s : State) : Out := .next (intOp2 0x041 x (· - ·) s)
def execImul (x : Ext) (s : State) : Out := .next (intOp2 0x044 x (· * ·) s)
def execImulh (x : Ext) (s : State) : Out := .next (intOp2 0x045 x (mulHigh x.ty.toNat) s)
def execImad (x : Ext) (s : State) : Out := .next (intOp3 0x046 x (fun a b c => a * b + c) s)
def execImin (x : Ext) (s : State) : Out := .next (intOp2 0x049 x min s)
def execImax (x : Ext) (s : State) : Out := .next (intOp2 0x04A x max s)
def execIabs (x : Ext) (s : State) : Out := .next (intOp1 0x04B x (fun a => if a < 0 then -a else a) s)
def execIneg (x : Ext) (s : State) : Out := .next (intOp1 0x04C x (fun a => -a) s)
def execIclamp (x : Ext) (s : State) : Out := .next (intOp3 0x04D x clamp s)

/-- R129: the sum of absolute differences, onto a 64-bit value. -/
def saddWord (ty : Nat) (a b c : Word) : Word :=
  let w := tyWidth ty
  c + BitVec.ofNat 64 (((List.range (64 / w)).map fun e => (tyVal ty (elem w a e) - tyVal ty (elem w b e)).natAbs).sum)

def execSadd (x : Ext) (s : State) : Out := .next (wordOp 0x04E x x.srcA x.srcB x.srcC (saddWord x.ty.toNat) s)

/-- R130: the sum with carry, or the difference with borrow: the 64 bits and the bit that goes out. -/
def carryLane (sub : Bool) (a b : Word) (g : Bool) : LaneOut :=
  if sub then .value (a - b - (BitVec.ofBool g).setWidth 64) (decide (a.toNat < b.toNat + g.toNat)) 0 0
  else .value (a + b + (BitVec.ofBool g).setWidth 64) (decide (2 ^ 64 ≤ a.toNat + b.toNat + g.toNat)) 0 0

/-- R130: the guard in field C goes in, the guard in MOD[26:23] goes out. -/
def carryOp (opc : Nat) (sub : Bool) (x : Ext) (s : State) : State :=
  vectorOp x (fun q =>
    { key := { opc := opc, a := x.srcA, b := x.srcB, guards := [x.c.toNat], dst := some x.d }, dst := .vec x.d, dst2 := some (x.m 23 4)
      out := fun i => carryLane sub (q.src x.srcA i) (q.src x.srcB i) ((q.guard x.c.toNat).getLsbD i) }) s

def execIaddc (x : Ext) (s : State) : Out := .next (carryOp 0x042 false x s)
def execIsubb (x : Ext) (s : State) : Out := .next (carryOp 0x043 true x s)

/-- R131: quotient and remainder of one element, truncating towards zero, with the flag that the element raises. -/
def divElem (ty : Nat) (a b : Nat) : Int × Int × BitVec 2 :=
  let p := tyVal ty a
  let d := tyVal ty b
  if d = 0 then (0, p, flagIDZ)
  else if tySigned ty ∧ p = tyMin ty ∧ d = -1 then (p, 0, flagIOV)
  else (p.tdiv d, p - p.tdiv d * d, 0)

/-- R131: a thread's result; a flag is raised when any element meets its condition. -/
def divLane (ty : Nat) (wantRem : Bool) (a b : Word) : LaneOut :=
  let w := tyWidth ty
  let rs := (List.range (64 / w)).map fun e => divElem ty (elem w a e) (elem w b e)
  .value (ofElems w (rs.map fun r => wrap w (if wantRem then r.2.1 else r.1))) false 0 (rs.foldl (fun f r => f ||| r.2.2) 0)

def divOp (opc : Nat) (wantRem : Bool) (x : Ext) (s : State) : State :=
  vectorOp x (fun q =>
    { key := { opc := opc, a := x.srcA, b := x.srcB, dst := some x.d }, dst := .vec x.d
      out := fun i => divLane x.ty.toNat wantRem (q.src x.srcA i) (q.src x.srcB i) }) s

def execIdiv (x : Ext) (s : State) : Out := .next (divOp 0x047 false x s)
def execIrem (x : Ext) (s : State) : Out := .next (divOp 0x048 true x s)

/-- R132: the six conditions. -/
def intCond (cc : Nat) (a b : Int) : Bool :=
  match cc with
  | 0 => a == b
  | 1 => a != b
  | 2 => decide (a < b)
  | 3 => decide (a ≤ b)
  | 4 => decide (b < a)
  | _ => decide (b ≤ a)

/-- R132: a thread's bit. -/
def icmpLane (ty cc : Nat) (any : Bool) (a b : Word) : Bool :=
  let w := tyWidth ty
  let rs := (List.range (64 / w)).map fun e => intCond cc (tyVal ty (elem w a e)) (tyVal ty (elem w b e))
  if any then rs.any id else rs.all id

def execIcmp (x : Ext) (s : State) : Out :=
  .next (vectorOp x (fun q =>
    { key := { opc := 0x04F, a := x.srcA, b := x.srcB }, dst := .guard x.d.toNat
      out := fun i => .value 0 (icmpLane x.ty.toNat (x.m 23 3) (x.mb 26) (q.src x.srcA i) (q.src x.srcB i)) 0 0 }) s)

/-! Compact forms (R30). -/

def execIaddU64Compact (c : Compact) (s : State) : Out := .next (intOp2 0x040 (c.toExt 1) (· + ·) s)
def execIsubU64Compact (c : Compact) (s : State) : Out := .next (intOp2 0x041 (c.toExt 1) (· - ·) s)
def execImulU64Compact (c : Compact) (s : State) : Out := .next (intOp2 0x044 (c.toExt 1) (· * ·) s)
def execImadU64Compact (c : Compact) (s : State) : Out := .next (intOp3 0x046 (c.toExt 1 true) (fun a b d => a * b + d) s)
def execIminI64Compact (c : Compact) (s : State) : Out := .next (intOp2 0x049 (c.toExt 2) min s)
def execImaxI64Compact (c : Compact) (s : State) : Out := .next (intOp2 0x04A (c.toExt 2) max s)
def execIaddU32x2Compact (c : Compact) (s : State) : Out := .next (intOp2 0x040 (c.toExt 3) (· + ·) s)

end Sys2Proof.Machine
end

