-- ==== Sys2Proof/Machine/FloatOps.lean ====
section
/-! DEFINITION. Class 0x4, floating-point instructions (spec 06, R150 to R161), and the compact forms among them (R30). -/

namespace Sys2Proof.Machine

/-- R146: whether a thread flushes under a TY. -/
def Thread.flushes (t : Thread) (ty : Nat) : Bool := fsrFtz t.fsr && (ty == 10 || ty == 11)

/-- A thread's result from its elements: each gives a pattern and flags, and a thread raises what any element raises. -/
def fpLane (ty : Nat) (f : Nat → Nat → Nat → Nat × BitVec 5) (a b c : Word) : LaneOut :=
  let w := tyWidth ty
  let rs := (List.range (64 / w)).map fun e => f (elem w a e) (elem w b e) (elem w c e)
  .value (ofElems w (rs.map (·.1))) false (rs.foldl (fun g r => g ||| r.2) 0) 0

/-- The shared operation of the class: an element function of the mode, FTZ and up to three elements, which are read under R146. -/
def fpOp (opc : Nat) (x : Ext) (a b c : Src) (f : FFmt → Nat → Bool → Nat → Nat → Nat → Nat × BitVec 5) (s : State) (long : Bool := false) : State :=
  let ty := x.ty.toNat
  let g := tyFmt ty
  vectorOp x (fun q =>
    { key := { opc := opc, a := a, b := b, c := c, dst := some x.d }, dst := .vec x.d, long := long
      out := fun i =>
        let t := q.w.threads[i]
        let z := t.flushes ty
        fpLane ty (fun u v w => f g (t.rounding x.rm) z (g.read z u) (g.read z v) (g.read z w)) (q.src a i) (q.src b i) (q.src c i) }) s

def fpOp1 (opc : Nat) (x : Ext) (f : FFmt → Nat → Bool → Nat → Nat × BitVec 5) (s : State) (long : Bool := false) : State :=
  fpOp opc x x.srcA .none_ .none_ (fun g m z a _ _ => f g m z a) s long

def fpOp2 (opc : Nat) (x : Ext) (f : FFmt → Nat → Bool → Nat → Nat → Nat × BitVec 5) (s : State) (long : Bool := false) : State :=
  fpOp opc x x.srcA x.srcB .none_ (fun g m z a b _ => f g m z a b) s long

def fpOp3 (opc : Nat) (x : Ext) (f : FFmt → Nat → Bool → Nat → Nat → Nat → Nat × BitVec 5) (s : State) : State :=
  fpOp opc x x.srcA x.srcB x.srcC f s

def execFadd (x : Ext) (s : State) : Out := .next (fpOp2 0x080 x fpAdd s)
def execFsub (x : Ext) (s : State) : Out := .next (fpOp2 0x081 x fpSub s)
def execFmul (x : Ext) (s : State) : Out := .next (fpOp2 0x082 x fpMul s)
def execFfma (x : Ext) (s : State) : Out := .next (fpOp3 0x083 x fpFma s)
def execFdiv (x : Ext) (s : State) : Out := .next (fpOp2 0x084 x fpDiv s (x.ty == 9))
def execFsqrt (x : Ext) (s : State) : Out := .next (fpOp1 0x085 x fpSqrt s (x.ty == 9))
def execFmin (x : Ext) (s : State) : Out := .next (fpOp2 0x086 x (fun g _ _ a b => fpMinNum g false a b) s)
def execFmax (x : Ext) (s : State) : Out := .next (fpOp2 0x087 x (fun g _ _ a b => fpMinNum g true a b) s)
def execFminm (x : Ext) (s : State) : Out := .next (fpOp2 0x088 x (fun g _ _ a b => fpMinMax g false a b) s)
def execFmaxm (x : Ext) (s : State) : Out := .next (fpOp2 0x089 x (fun g _ _ a b => fpMinMax g true a b) s)

/-- R152: a thread's bit, and the flags of its elements. -/
def fcmpLane (ty cc : Nat) (any z : Bool) (a b : Word) : LaneOut :=
  let g := tyFmt ty
  let rs := (List.range (64 / g.width)).map fun e => fpCmp g cc (g.read z (elem g.width a e)) (g.read z (elem g.width b e))
  .value 0 (if any then rs.any (·.1) else rs.all (·.1)) (rs.foldl (fun f r => f ||| r.2) 0) 0

def execFcmp (x : Ext) (s : State) : Out :=
  .next (vectorOp x (fun q =>
    { key := { opc := 0x08A, a := x.srcA, b := x.srcB }, dst := .guard x.d.toNat
      out := fun i => fcmpLane x.ty.toNat (x.m 23 4) (x.mb 27) (q.w.threads[i].flushes x.ty.toNat) (q.src x.srcA i) (q.src x.srcB i) }) s)

/-- R153, R154: bit operations, which read their operands as they stand and raise nothing. -/
def signOp (opc : Nat) (x : Ext) (b : Src) (f : FFmt → Nat → Nat → Nat) (s : State) : State :=
  wordOp opc x x.srcA b .none_ (mapElems x.ty.toNat fun u v _ => f (tyFmt x.ty.toNat) u v) s

def execFclass (x : Ext) (s : State) : Out := .next (signOp 0x08B x .none_ (fun g a _ => fpClass g a) s)
def execFabs (x : Ext) (s : State) : Out := .next (signOp 0x08C x .none_ (fun g a _ => g.mag a) s)
def execFneg (x : Ext) (s : State) : Out := .next (signOp 0x08D x .none_ (fun g a _ => g.neg a) s)
def execFcopys (x : Ext) (s : State) : Out := .next (signOp 0x08E x x.srcB (fun g a b => g.signed (g.sign b) (g.mag a)) s)
def execFrint (x : Ext) (s : State) : Out := .next (fpOp1 0x08F x (fun g m _ a => fpRint g m (x.mb 23) a) s)

/-- R149: the literal of `fscale` is widened as the signed integer type of the element width. -/
def fscaleB (x : Ext) : Src :=
  if x.lsel = 1 then .lit (x.literalAs (match x.ty.toNat with | 9 => 2 | 10 => 4 | _ => 6)) else .reg x.b

/-- R156: n is the element of B as a signed integer, which FTZ does not touch. -/
def fscaleOp (x : Ext) (s : State) : State :=
  let ty := x.ty.toNat
  let g := tyFmt ty
  vectorOp x (fun q =>
    { key := { opc := 0x090, a := x.srcA, b := fscaleB x, dst := some x.d }, dst := .vec x.d
      out := fun i =>
        let t := q.w.threads[i]
        let z := t.flushes ty
        fpLane ty (fun a n _ => fpScale g (t.rounding x.rm) z (g.read z a) (toSigned g.width n)) (q.src x.srcA i) (q.src (fscaleB x) i) 0 }) s

def execFscale (x : Ext) (s : State) : Out := .next (fscaleOp x s)
def execFgetexp (x : Ext) (s : State) : Out := .next (fpOp1 0x091 x (fun g _ _ a => fpGetExp g a) s)
def execFgetman (x : Ext) (s : State) : Out := .next (fpOp1 0x092 x (fun g _ _ a => fpGetMan g a) s)
def execFrem (x : Ext) (s : State) : Out := .next (fpOp2 0x093 x (fun g _ z a b => fpRem g z a b) s)

/-- R159: two terms of a dot product with a wider addend. NaN operands are taken in the result's format, their payloads at the
high end (DEDUCED, log entry 27). -/
def fdot2Lane (ty mode : Nat) (z : Bool) (a b c : Word) : LaneOut :=
  if ty = 10 then
    let av := (elems 32 a).map (f32.read z)
    let bv := (elems 32 b).map (f32.read z)
    let r := fpDot f32 f64 mode false (av.zip bv) c.toNat ((av ++ bv).map (f32.widenTo f64) ++ [c.toNat])
    .value (BitVec.ofNat 64 r.1) false r.2 0
  else
    let av := (elems 16 a).map (bf16.read z)
    let bv := (elems 16 b).map (bf16.read z)
    let cv := (elems 32 c).map (f32.read z)
    let rs := (List.range 2).map fun j =>
      let aj := (av.drop (2 * j)).take 2
      let bj := (bv.drop (2 * j)).take 2
      let cj := cv.getD j 0
      fpDot bf16 f32 mode z (aj.zip bj) cj ((aj ++ bj).map (bf16.widenTo f32) ++ [cj])
    .value (ofElems 32 (rs.map (·.1))) false (rs.foldl (fun f r => f ||| r.2) 0) 0

def execFdot2 (x : Ext) (s : State) : Out :=
  .next (vectorOp x (fun q =>
    { key := { opc := 0x094, a := x.srcA, b := x.srcB, c := x.srcC, dst := some x.d }, dst := .vec x.d
      out := fun i => fdot2Lane x.ty.toNat (q.w.threads[i].rounding x.rm) (fsrFtz q.w.threads[i].fsr) (q.src x.srcA i) (q.src x.srcB i) (q.src x.srcC i) }) s)

/-- R160, R161: a read of %fsr into a register, never reused. -/
def fsrGet (opc : Nat) (x : Ext) (f : BitVec 32 → Word) (s : State) : State :=
  vectorOp x (fun q =>
    { key := { opc := opc }, dst := .vec x.d, bound := none, reuse := false, out := fun i => plain (f q.w.threads[i].fsr) }) s

/-- R160, R161: a write of %fsr from B in the active threads. -/
def fsrSet (x : Ext) (f : BitVec 32 → Word → BitVec 32) (s : State) : State :=
  issuing x s fun c s1 =>
    c.advance ((c.executed s1).modWarp c.wk fun w => w.modThreads c.act fun i t => { t with fsr := f t.fsr (c.src x.srcB i) })

def execFpmodeGet (x : Ext) (s : State) : Out :=
  .next (fsrGet 0x095 x (fun f => (fsrRmode f).setWidth 64 ||| ((BitVec.ofBool (fsrFtz f)).setWidth 64 <<< 3)) s)
def execFpmodeRm (x : Ext) (s : State) : Out := .next (fsrSet x (fun f b => fsrSetRmode f (b.setWidth 3)) s)
def execFpmodeFtz (x : Ext) (s : State) : Out := .next (fsrSet x (fun f b => fsrSetFtz f (b.getLsbD 0)) s)
def execFflagsGet (x : Ext) (s : State) : Out := .next (fsrGet 0x096 x (fun f => (f.setWidth 13).setWidth 64) s)
def execFflagsClr (x : Ext) (s : State) : Out := .next (fsrSet x (fun f b => f &&& ~~~ (b.setWidth 5).setWidth 32) s)
def execFflagsSet (x : Ext) (s : State) : Out := .next (fsrSet x (fun f b => f ||| (b.setWidth 5).setWidth 32) s)
def execFflagsTe (x : Ext) (s : State) : Out := .next (fsrSet x (fun f b => fsrSetEnables f (b.setWidth 5)) s)

/-! Compact forms (R30): rne, with the flush-to-zero setting of %fsr. -/

def execFaddF64Compact (c : Compact) (s : State) : Out := .next (fpOp2 0x080 (c.toExt 9) fpAdd s)
def execFsubF64Compact (c : Compact) (s : State) : Out := .next (fpOp2 0x081 (c.toExt 9) fpSub s)
def execFmulF64Compact (c : Compact) (s : State) : Out := .next (fpOp2 0x082 (c.toExt 9) fpMul s)
def execFfmaF64Compact (c : Compact) (s : State) : Out := .next (fpOp3 0x083 (c.toExt 9 true) fpFma s)
def execFminF64Compact (c : Compact) (s : State) : Out := .next (fpOp2 0x086 (c.toExt 9) (fun g _ _ a b => fpMinNum g false a b) s)
def execFmaxF64Compact (c : Compact) (s : State) : Out := .next (fpOp2 0x087 (c.toExt 9) (fun g _ _ a b => fpMinNum g true a b) s)
def execFaddF32x2Compact (c : Compact) (s : State) : Out := .next (fpOp2 0x080 (c.toExt 10) fpAdd s)
def execFsubF32x2Compact (c : Compact) (s : State) : Out := .next (fpOp2 0x081 (c.toExt 10) fpSub s)
def execFmulF32x2Compact (c : Compact) (s : State) : Out := .next (fpOp2 0x082 (c.toExt 10) fpMul s)
def execFfmaF32x2Compact (c : Compact) (s : State) : Out := .next (fpOp3 0x083 (c.toExt 10 true) fpFma s)
def execFaddBf16x4Compact (c : Compact) (s : State) : Out := .next (fpOp2 0x080 (c.toExt 11) fpAdd s)
def execFmulBf16x4Compact (c : Compact) (s : State) : Out := .next (fpOp2 0x082 (c.toExt 11) fpMul s)
def execFfmaBf16x4Compact (c : Compact) (s : State) : Out := .next (fpOp3 0x083 (c.toExt 11 true) fpFma s)

end Sys2Proof.Machine
end

