-- ==== Sys2Proof/Machine/Paths.lean ====
section
/-! DEFINITION. Addresses and what lies behind them: targets, lines and locations (R17, R215, R240), translation (R213, R427 to
R429), the raw bytes of the memories, malformed lines (R222, R224), and instruction fetch (R26). -/

namespace Sys2Proof.Machine

/-- A number for a target, to key lines and locations. -/
def Target.code : Target → Nat
  | .hbm => 0 | .lp => 1 | .host => 2 | .peer w => 3 + w

/-- The 128-byte line of a physical address, and the 8-byte location, as keys. -/
def lineKey (t : Target) (pa : Nat) : Nat := t.code * 2 ^ 64 + pa / 128
def locKey (t : Target) (pa : Nat) : Nat := t.code * 2 ^ 64 + pa / 8

/-- R220: HBM and LP lines have home slices and L1 copies; host and peer memory have neither. -/
def Target.homed : Target → Bool
  | .hbm | .lp => true
  | _ => false

/-- R17: the die of the home slice of an address, and the slice's number in the device. -/
def homeDie (t : Target) (pa : Nat) : Nat := match t with | .hbm => pa / 4096 % 8 / 2 | .lp => pa / 4096 % 4 | _ => 0
def homeSlice (t : Target) (pa : Nat) : Nat := homeDie t pa * 16 + pa / 128 % 16

/-- The memory behind a target. -/
def MemSys.of (m : MemSys) (t : Target) : Memory :=
  match t with
  | .hbm => m.hbm
  | .lp => m.lp
  | .host => m.host
  | .peer w => (Sparse.find m.peers w).getD []

def MemSys.put (m : MemSys) (t : Target) (v : Memory) : MemSys :=
  match t with
  | .hbm => { m with hbm := v }
  | .lp => { m with lp := v }
  | .host => { m with host := v }
  | .peer w => { m with peers := if v = [] then Sparse.erase m.peers w else Sparse.insert m.peers w v }

def State.setMem (s : State) (m : MemSys) : State := { s with mem := m }

/-- Raw bytes, as the memory holds them. -/
def State.rawBytes (s : State) (t : Target) (pa n : Nat) : List Byte := (s.mem.of t).bytes pa n

def State.rawNat (s : State) (t : Target) (pa n : Nat) : Nat := natOfBytes (s.rawBytes t pa n)

/-- Bytes written at the point of performance. A write of a whole line repairs it; a part of a malformed line is merged into
zeros (R222). -/
def State.rawWrite (s : State) (t : Target) (pa : Nat) (bs : List Byte) : State :=
  { s with mem := s.mem.put t ((s.mem.of t).setBytes pa bs) }

/-! ### The sector codec (R221 to R223) -/

/-- R221: the fields of a tag. -/
def RawLine.mode (r : RawLine) : Nat := r.tag.toNat / 2 ^ 30
def RawLine.len (r : RawLine) (sector : Nat) : Nat := r.tag.toNat / 2 ^ (4 * sector) % 16
def RawLine.chk (r : RawLine) : Nat := r.tag.toNat / 2 ^ 16 % 256

/-- A line that is held raw. -/
def RawLine.init : RawLine := { tag := 0, xor := 0, ref := 0, ecc := false }

def MemSys.rawOf (m : MemSys) (line : Nat) : RawLine := (Sparse.find m.raw line).getD RawLine.init

/-- R17: the stack of a line of HBM. -/
def stackOf (line : Nat) : Nat := line / 32 % 8

/-- R222, R224: what is wrong with a line as raw storage holds it: a malformed tag, a CHK that does not match, a bad reference, or an
uncorrectable ECC error; without the codec, the last only (R438, R439). -/
def MemSys.flaw (m : MemSys) (line : Nat) (r : RawLine) : Option Nat :=
  if r.ecc then some 4
  else if !Config.hasCodec then none
  else if r.tag.toNat / 2 ^ 24 % 64 ≠ 0 ∨ (List.range 4).any (fun k => decide (8 < r.len k)) then some 1
  else if r.mode = 1 ∧ r.chk ≠ r.xor.toNat then some 2
  else if r.mode = 2 ∧ (Config.hbmBytes ≤ r.ref ∨ stackOf (r.ref / 128) ≠ stackOf line ∨ (m.rawOf (r.ref / 128)).mode = 2) then some 3
  else none

/-- R221: the bytes of raw storage that a line takes. -/
def RawLine.size (r : RawLine) : Nat :=
  match r.mode with
  | 0 => 128
  | 1 => 4 * ((List.range 4).map r.len).sum
  | 2 => 8
  | _ => 0

/-- R223: a line that others share is written: one of them keeps its slot, and the rest refer to that one. -/
def MemSys.unshare (m : MemSys) (line : Nat) : MemSys :=
  match m.raw.filter fun e => e.2.mode == 2 && e.2.ref == 128 * line with
  | [] => m
  | first :: rest =>
    { m with raw := rest.foldl (fun t e => Sparse.insert t e.1 { e.2 with ref := 128 * first.1 }) (Sparse.insert m.raw first.1 (m.rawOf line)) }

/-- R221: the packed form of a line: lengths of 1 to 8 for the sectors that are not all zero, and any CHK. -/
def packedLine (content : List Byte) (c : Nat) : RawLine :=
  let len := fun (k : Nat) => if ((content.drop (32 * k)).take 32).all (· == 0) then 0 else 1 + c / 8 ^ k % 8
  { tag := BitVec.ofNat 32 (2 ^ 30 + c / 2 ^ 12 % 256 * 2 ^ 16 + ((List.range 4).map fun k => len k * 16 ^ k).sum)
    xor := BitVec.ofNat 8 (c / 2 ^ 12 % 256), ref := 0, ecc := false }

/-- The codec stores a line: raw, packed, or as a zero line, as it chooses (R221, DESIGN CHOICE, log entry 10). -/
def MemSys.encode (m : MemSys) (line : Nat) : MemSys :=
  let content := m.hbm.bytes (128 * line) 128
  let c := Config.codecChoice m.uses
  let m1 := m.unshare line
  { m1 with uses := m.uses + 1, failed := m.failed.filter (· != line)
            raw := if !Config.hasCodec then Sparse.erase m1.raw line
                   else if c % 4 = 1 then Sparse.insert m1.raw line (packedLine content (c / 4))
                   else if c % 4 = 3 ∧ content.all (· == 0) then Sparse.insert m1.raw line { RawLine.init with tag := BitVec.ofNat 32 (3 * 2 ^ 30) }
                   else Sparse.erase m1.raw line }

/-- R223: a line that is written back is compared with a line of its stack, and stored as a reference to it where they match. Which line
the hash leads to is the codec's (DESIGN CHOICE, log entry 10). -/
def MemSys.dedup (m : MemSys) (line : Nat) : MemSys :=
  let other := Config.codecChoice m.uses % (Config.hbmBytes / 128)
  let ok := Config.hasCodec ∧ other ≠ line ∧ stackOf other = stackOf line ∧ (m.rawOf other).mode ≠ 2 ∧ m.flaw other (m.rawOf other) = none
    ∧ m.hbm.bytes (128 * other) 128 = m.hbm.bytes (128 * line) 128
  let m1 := if ok then m.unshare line else m
  { m1 with uses := m.uses + 1
            raw := if ok then Sparse.insert m1.raw line { tag := BitVec.ofNat 32 (2 * 2 ^ 30), xor := 0, ref := 128 * other, ecc := false } else m1.raw }

/-- R222: the kind of a line that is malformed (1 to 3) or fails its check (4). What the codec itself stores is well formed. -/
def State.lineBad (s : State) (t : Target) (pa : Nat) : Option Nat :=
  match t with
  | .hbm => if s.mem.failed.contains (pa / 128) then s.mem.flaw (pa / 128) (s.mem.rawOf (pa / 128)) else none
  | _ => none

/-- R222: raw storage fails: the line is held as `raw` says from now on, if that can be told from a well-formed one (DESIGN CHOICE, log
entry 10). -/
def State.upset (s : State) (line : Nat) (raw : RawLine) : State :=
  if Config.hbmBytes ≤ 128 * line ∨ s.mem.flaw line raw = none then s
  else
    let m := s.mem.unshare line
    { s with mem := { m with raw := Sparse.insert m.raw line raw, failed := line :: m.failed.filter (· != line) } }

/-- R224: a bad-chunk entry is appended to the ring, or counted as lost when it is full. -/
def State.noteBad (s : State) (line kind sectors : Nat) : State :=
  if 4096 ≤ (s.mem.bcTail - s.mem.bcHead) then { s with mem := { s.mem with bcLost := s.mem.bcLost + 1 } }
  else
    let bs := bytesOfNat 8 (line * 128) ++ bytesOfNat 8 s.ns ++ bytesOfNat 1 kind ++ bytesOfNat 1 (line / 32 % 8) ++ bytesOfNat 1 sectors
      ++ List.replicate 13 0
    let s1 := s.rawWrite .hbm (s.mem.bcBase + 32 * (s.mem.bcTail % 4096)) bs
    { s1 with mem := { s1.mem with bcTail := s1.mem.bcTail + 1 } }

/-- A write at the point of performance, with R222's repair and merge. A partial write to a line with an ECC error merges into zeros too
(DESIGN CHOICE, log entry 92). -/
def State.write (s : State) (t : Target) (pa : Nat) (bs : List Byte) : State :=
  match t with
  | .hbm =>
    let s1 := if (s.lineBad t pa).isNone ∨ bs.length = 128 then s else s.rawWrite t (pa / 128 * 128) (List.replicate 128 0)
    let s2 := s1.rawWrite t pa bs
    { s2 with mem := s2.mem.encode (pa / 128) }
  | _ => s.rawWrite t pa bs

/-- The 32-byte sectors of a line that bytes touch, as a mask. -/
def sectorMask (pa n : Nat) : Nat := ((List.range 4).filter fun k => decide (pa % 128 < 32 * k + 32 ∧ 32 * k < pa % 128 + n)).foldl (fun m k => m + 2 ^ k) 0

/-! ### The scheduler's areas -/

/-- The first place where some bytes of the scheduler's part of HBM are free, in whole 4 KiB (DESIGN CHOICE, log entry 20). -/
def State.findArea (s : State) (bytes : Nat) : Option Nat :=
  (Config.areaPa :: s.sched.areas.map fun a => a.1 + a.2).find? fun a =>
    decide (a + (bytes + 4095) / 4096 * 4096 ≤ Config.areaPa + Config.areaBytes)
      && s.sched.areas.all fun b => decide (a + (bytes + 4095) / 4096 * 4096 ≤ b.1 ∨ b.1 + b.2 ≤ a)

/-- An area is allocated. -/
def State.takeArea (s : State) (a bytes : Nat) : State :=
  if bytes = 0 then s else { s with sched := { s.sched with areas := Sparse.insert s.sched.areas a ((bytes + 4095) / 4096 * 4096) } }

/-- An area is freed, and with it go the copies of its lines that cores hold (DEDUCED, log entry 20). -/
def State.dropArea (s : State) (a : Nat) : State :=
  match Sparse.find s.sched.areas a with
  | none => s
  | some n =>
    let mine := fun (key : Nat) => decide (a / 128 ≤ key ∧ key < (a + n) / 128)
    { s with sched := { s.sched with areas := Sparse.erase s.sched.areas a }
             cores := s.cores.map fun (e : Nat × Core) =>
               (e.1, { e.2 with l1 := e.2.l1.filter (fun l => !(mine l.line)), reuse := e.2.reuse.filter fun r => !(r.lines.any fun l => mine l.1) }) }

/-! ### Translation -/

/-- R213: bits [63:57] all equal bit 56. -/
def canonical (va : Word) : Bool := va.extractLsb' 57 7 == if va.getLsbD 56 then BitVec.allOnes 7 else 0

/-- R428: the log2 of each page size. -/
def pageLog2 (size : Nat) : Nat :=
  match size with
  | 0 => 12 | 1 => 14 | 2 => 16 | 3 => 18 | 4 => 20 | 5 => 21 | 6 => 24 | 7 => 26 | 8 => 28 | _ => 30

/-- R428, R429: a table entry that is valid, of size s, for a base, and well formed. -/
def entryFor (e s b : Nat) : Option TlbEntry :=
  let lg := pageLog2 s
  let tgt := e / 2 ^ 74 % 4
  let link := e / 2 ^ 71 % 8
  let vbase := e / 2 ^ 12 % 2 ^ 52
  let tbase := e / 2 ^ 76 % 2 ^ 52
  if e % 2 = 1 ∧ e / 2 ^ 8 % 16 = s ∧ vbase = b / 4096 ∧ e / 2 ^ 64 % 2 ^ 7 = 0 ∧ e / 2 ^ 4 % 16 = 0
      ∧ vbase * 4096 % 2 ^ lg = 0 ∧ tbase * 4096 % 2 ^ lg = 0 ∧ (tgt = 3 ∨ link = 0) then
    some { va := b, log2 := lg, read := e.testBit 1, write := e.testBit 2, exec := e.testBit 3
           tgt := match tgt with | 0 => .hbm | 1 => .lp | 2 => .host | _ => .peer link
           pa := tbase * 4096, fixed := false, page := 0 }
  else none

/-- R429: where the entries of a size and place may lie in the hashed table. -/
def State.slotsFor (s : State) (size b : Nat) : List Nat :=
  let h := ((b / 4096) ^^^ (size * 2 ^ 52)) * 0x9E3779B97F4A7C15 % 2 ^ 64
  let i := h / 2 ^ (64 - s.mem.ttLog2)
  (List.range 8).map fun j => s.mem.ttBase + 16 * ((i + j) % 2 ^ s.mem.ttLog2)

/-- R222: an entry of the table as a read gives it: zeros from a line that is malformed or has failed (DEDUCED, log entry 32). -/
def State.tableEntry (s : State) (a : Nat) : Nat := if (s.lineBad .hbm a).isSome then 0 else s.rawNat .hbm a 16

/-- R429: the entry of a size and place that the hashed table holds. -/
def State.probe (s : State) (size b : Nat) : Option TlbEntry := (s.slotsFor size b).findSome? fun a => entryFor (s.tableEntry a) size b

/-- R429: the walk: the smallest size wins. A cached entry stands for the table's of its size and place (DESIGN CHOICE, log entry 8). -/
def State.walk (s : State) (va : Word) : Option TlbEntry :=
  (List.range 10).findSome? fun size =>
    let b := va.toNat / 2 ^ pageLog2 size * 2 ^ pageLog2 size
    match s.mem.tlb.find? fun e => !e.fixed && e.log2 == pageLog2 size && e.va == b with
    | some e => some e
    | none => s.probe size b

/-- R222: the entries in malformed or failed lines that a walk reads, over some sizes. -/
def State.walkBad (s : State) (va : Word) : List Nat → List Nat
  | [] => []
  | size :: rest =>
    let b := va.toNat / 2 ^ pageLog2 size * 2 ^ pageLog2 size
    if s.mem.tlb.any fun e => !e.fixed && e.log2 == pageLog2 size && e.va == b then []
    else
      let slots := s.slotsFor size b
      let read := match slots.findIdx? fun a => (entryFor (s.tableEntry a) size b).isSome with | some n => slots.take (n + 1) | none => slots
      (read.filter fun a => (s.lineBad .hbm a).isSome) ++ if (s.probe size b).isSome then [] else s.walkBad va rest

/-- The cached translation of an address: the scheduler's own, or what a walk for its 4 KiB page found. -/
def State.cached (s : State) (va : Word) : Option TlbEntry :=
  s.mem.tlb.find? fun e => decide (e.va ≤ va.toNat ∧ va.toNat < e.va + 2 ^ e.log2) && (e.fixed || e.page == va.toNat / 4096)

/-- R429, R439: the translation names a peer link that the part does not have. -/
def TlbEntry.linkAbsent (e : TlbEntry) : Bool := match e.tgt with | .peer w => decide (Config.peerLinks ≤ w) | _ => false

/-- R213, R429: the translation of an address, cached or walked; or the cause of the fault. -/
def State.translate (s : State) (va : Word) : Except Nat TlbEntry :=
  if !canonical va then .error 0x04
  else
    match s.cached va with
    | some e => .ok e
    | none =>
      match s.walk va with
      | some e => if e.linkAbsent then .error 0x15 else .ok { e with page := va.toNat / 4096 }
      | none => .error 0x04

/-- The physical address of an address under its translation. -/
def TlbEntry.pa_of (e : TlbEntry) (va : Word) : Nat := e.pa + (va.toNat - e.va)

/-- Which access a permission is asked for. -/
inductive Perm where
  | read | write | exec
  deriving DecidableEq, Repr

def TlbEntry.allows (e : TlbEntry) : Perm → Bool
  | .read => e.read
  | .write => e.write
  | .exec => e.exec

/-- R220: the LP tier held an image at an address that the Hatch has moved to flash (DEDUCED, log entry 97). -/
def State.movedAway (s : State) (pa : Nat) : Bool := s.pages.unmapped.any fun u => decide (u.1 ≤ pa / 256 ∧ pa / 256 < u.1 + u.2)

/-- R213, R429: where an access of a given kind goes, or its cause of fault: 0x04 without a mapping or beyond the part's
capacity, 0x05 without permission. -/
def State.resolve (s : State) (va : Word) (p : Perm) : Except Nat (Target × Nat) :=
  match s.translate va with
  | .error c => .error c
  | .ok e =>
    if !e.allows p then .error 0x05
    else
      let pa := e.pa_of va
      match e.tgt with
      | .hbm => if pa < Config.hbmBytes then .ok (e.tgt, pa) else .error 0x04
      | .lp => if Config.lpBytes ≤ pa ∨ s.movedAway pa then .error 0x04 else .ok (e.tgt, pa)
      | _ => .ok (e.tgt, pa)

/-- R430, R431: what a link makes of an access to a peer window: 0x13 where the link does not carry it, 0x05 where the other device
refuses its address. -/
def State.peerFault (s : State) (t : Target) (pa : Nat) : Option Nat :=
  match t with
  | .peer l =>
    let k := s.links[Fin.ofNat 8 l]
    if !(k.en && k.up) then some 0x13 else if Config.peerAccepts l pa then none else some 0x05
  | _ => none

def State.modLink (s : State) (l : Nat) (f : Link → Link) : State := { s with links := s.links.set (Fin.ofNat 8 l) (f s.links[Fin.ofNat 8 l]) }

/-- R431: an access failed on the link of a target. -/
def State.linkErr (s : State) (t : Target) : State := match t with | .peer l => s.modLink l fun k => { k with err := true } | _ => s

/-- R222: a read of some lines appends an entry for each that is malformed or has failed. -/
def State.noteLines (s : State) (t : Target) (n : Nat) : List Nat → State
  | [] => s
  | a :: as =>
    let s1 := match s.lineBad t a with | some k => s.noteBad (a / 128) k (sectorMask a n) | none => s
    if as.any fun b => b / 128 == a / 128 then s.noteLines t n as else s1.noteLines t n as

/-- A translation that is used stays cached until an invalidation (R429, DESIGN CHOICE, log entry 8). -/
def State.useTlb (s : State) (va : Word) : State :=
  if !canonical va ∨ (s.cached va).isSome then s
  else
    let s1 := s.noteLines .hbm 16 (s.walkBad va (List.range 10))
    match s.translate va with
    | .ok e => { s1 with mem := { s1.mem with tlb := e :: s1.mem.tlb } }
    | .error _ => s1

/-- R429: the translations of some addresses are used. -/
def State.useTlbs (s : State) (vas : List Word) : State := vas.foldl State.useTlb s

/-! ### Fetch (R26, R49) -/

/-- R49: bytes at an address as the stores that have completed left them: those written by a store that has not are taken back. -/
def State.settledBytes (s : State) (t : Target) (pa n : Nat) : List Byte :=
  (List.range n).map fun k =>
    let a := pa + k
    match s.mem.young.find? fun y => y.loc == locKey t a && decide (s.ns ≤ y.done + 3) with
    | some y => y.old.getD (a % 8) 0
    | none => (s.mem.of t).byte a

/-- The word at a code address, or the cause that its fetch raises and the address of R227. A fetch takes the newest completed content
(DESIGN CHOICE, log entry 21) (DEDUCED, log entry 32). -/
def State.fetchWord (s : State) (va : Word) : Except (Nat × Word) Half :=
  match s.resolve va .exec with
  | .error c => .error (c, va)
  | .ok (t, pa) =>
    match s.peerFault t pa with
    | some 0x13 => .error (0x13, BitVec.ofNat 64 (pa / 128 * 128))
    | some c => .error (c, va)
    | none =>
      match s.lineBad t pa with
      | some 4 => .error (0x13, BitVec.ofNat 64 (pa / 128 * 128))
      | some _ => .ok 0
      | none => .ok (BitVec.ofNat 32 (natOfBytes (s.settledBytes t pa 4)))

/-- R222: the fetch of an instruction of some words reads the lines that hold them: an entry is appended for each that is malformed or has
failed. -/
def State.noteFetch (s : State) (pc : Word) (words : Nat) : State :=
  if s.mem.failed.isEmpty then s
  else
    let at_ := (List.range words).filterMap fun k => match s.resolve (pc + BitVec.ofNat 64 (4 * k)) .exec with | .ok (.hbm, pa) => some pa | _ => none
    s.noteLines .hbm 4 at_

/-- The words of the instruction at an address: as many as LEN of word 0 states. R26 and R399 give the misaligned target no address. -/
def State.fetch (s : State) (pc : Word) : Except (Nat × Word) (List Half) :=
  if pc.toNat % 4 ≠ 0 then .error (0x03, 0)
  else
    match s.fetchWord pc with
    | .error e => .error e
    | .ok w0 =>
      (List.range ((lenOf w0).bytes / 4 - 1)).foldl (fun r k =>
        match r with
        | .error e => .error e
        | .ok ws =>
          match s.fetchWord (pc + BitVec.ofNat 64 (4 * (k + 1))) with
          | .error e => .error e
          | .ok w => .ok (ws ++ [w])) (.ok [w0])

end Sys2Proof.Machine
end

