-- ==== Sys2Proof/Machine/Perform.lean ====
section
/-! DEFINITION. Performing accesses at their points of performance (spec 10, R215 to R218; 11, R239, R252 to R254, R262 to R264): home
slices with leases and release times, vault ports and scratchpad banks, the new value of an atomic, and the notices to watches. -/

namespace Sys2Proof.Machine

/-- R218: the priority that a line has after an access: 0 normal, 1 `.el`, 2 `.ef`. -/
def LinePrio.after (old : Option LinePrio) (hint : Nat) : LinePrio :=
  match old, hint with
  | none, 1 => .evictLast
  | none, 2 => .evictFirst
  | none, _ => .normal
  | some _, 1 => .evictLast
  | some .normal, 2 => .evictFirst
  | some p, _ => p

/-- R254: the eight-byte locations of a line. -/
def lineLocs (t : Target) (pa : Nat) : List Nat := (List.range 16).map fun k => locKey t (pa / 128 * 128 + 8 * k)

/-- R218: the order of eviction: evict-first lines, normal lines, evict-last lines, each by latest use. -/
def LinePrio.rank : LinePrio → Nat
  | .evictFirst => 0 | .normal => 1 | .evictLast => 2

/-- The home slice of a line, from its key. -/
def keySlice (k : Nat) : Nat := homeSlice (if k / 2 ^ 64 = 0 then .hbm else .lp) (k % 2 ^ 64 * 128)

/-- The lines that a home slice holds. -/
def MemSys.sliceLines (m : MemSys) (slice : Nat) : Sparse HomeLine := m.lines.filter fun e => keySlice e.1 == slice

/-- R218: the victim among some lines. -/
def victimOf : Sparse HomeLine → Option (Nat × HomeLine)
  | [] => none
  | e :: es =>
    match victimOf es with
    | none => some e
    | some v => if e.2.prio.rank < v.2.prio.rank ∨ (e.2.prio.rank = v.2.prio.rank ∧ e.2.used ≤ v.2.used) then some e else some v

/-- R223: a line that has been written is written back. -/
def MemSys.writeBack (m : MemSys) (key : Nat) : MemSys :=
  match Sparse.find m.lines key with
  | some h =>
    if !h.dirty then m
    else let m1 := if key / 2 ^ 64 = 0 then m.dedup (key % 2 ^ 64) else m; { m1 with lines := Sparse.insert m1.lines key { h with below := none } }
  | none => m

/-- R254: a home slice evicts a line: a changed line is written back (R223), and the latest of its release times is kept in the slice's
register. -/
def State.evictHome (s : State) (key : Nat) : State :=
  let t := if key / 2 ^ 64 = 0 then Target.hbm else .lp
  let pa := key % 2 ^ 64 * 128
  let top := ((lineLocs t pa).map fun l => (Sparse.find s.mem.rel l).getD 0).foldl max 0
  let sl := homeSlice t pa
  let reg := max top ((Sparse.find s.mem.sliceReg sl).getD 0)
  let m := s.mem.writeBack key
  { s with mem := { m with lines := Sparse.erase m.lines key
                           rel := (lineLocs t pa).foldl (fun r l => Sparse.erase r l) m.rel
                           sliceReg := if reg = 0 then m.sliceReg else Sparse.insert m.sliceReg sl reg } }

/-- R218: a home slice replaces a line. A slice is one set (DESIGN CHOICE, log entry 9). -/
def State.evictFrom (s : State) (slice : Nat) : State :=
  match victimOf (s.mem.sliceLines slice) with
  | some v => s.evictHome v.1
  | none => s

/-- R21, R218: a slice that is full makes room. -/
def State.homeRoom (s : State) (slice : Nat) : State :=
  if (s.mem.sliceLines slice).length < Config.sliceLines then s else s.evictFrom slice

/-- R436: what memory holds beneath a line that is about to be written. -/
def State.beneath (s : State) (t : Target) (pa : Nat) : List Byte × Option RawLine :=
  (s.rawBytes t (pa / 128 * 128) 128, if t = .hbm ∧ s.mem.failed.contains (pa / 128) then some (s.mem.rawOf (pa / 128)) else none)

/-- A home slice holds the line from now on. A line that it fills takes the per-slice release time in every location (R254). -/
def State.touchHome (s : State) (t : Target) (pa hint : Nat) (write : Bool := false) : State :=
  if !t.homed then s
  else
    let k := lineKey t pa
    let s1 := if (Sparse.find s.mem.lines k).isSome then s else s.homeRoom (homeSlice t pa)
    let old := Sparse.find s1.mem.lines k
    let reg := (Sparse.find s1.mem.sliceReg (homeSlice t pa)).getD 0
    let rel := if old.isNone ∧ reg ≠ 0 then (lineLocs t pa).foldl (fun r l => Sparse.insert r l (max reg ((Sparse.find r l).getD 0))) s1.mem.rel else s1.mem.rel
    let line : HomeLine := { prio := LinePrio.after (old.map (·.prio)) hint, used := s1.mem.uses
                             below := match old.bind (·.below) with | some b => some b | none => if write then some (s1.beneath t pa) else none }
    { s1 with mem := { s1.mem with lines := Sparse.insert s1.mem.lines k line, uses := s1.mem.uses + 1, rel := rel } }

/-- R254: what a write does to the release time of its locations. -/
inductive Stamp where
  | plain                             -- every write but the following: 0
  | strel (h : Nat)
  | rmwRel (h : Nat)
  | rmw                               -- a relaxed RMW keeps it
  deriving DecidableEq, Repr

/-- A release time after a write. -/
def Stamp.on (st : Stamp) (old : Nat) : Nat :=
  match st with
  | .plain => 0
  | .strel h => h
  | .rmwRel h => max old h
  | .rmw => old

/-- A table of release times keeps only those that are not zero. -/
def setRel (r : Sparse Nat) (l v : Nat) : Sparse Nat := if v = 0 then Sparse.erase r l else Sparse.insert r l v

/-- The locations that `n` bytes touch (R240), counted in eight bytes. -/
def locsOf (a n : Nat) : List Nat := (List.range ((a % 8 + n + 7) / 8)).map fun k => a / 8 + k

/-- R271, R376: a watch on a location is told of a write to it. -/
def State.notify (s : State) (p : Watch → Bool) : State :=
  { s with mem := { s.mem with watches := s.mem.watches.map fun w => if p w then { w with notified := true } else w } }

/-- R252: the completion time of a write performed at a home slice now: no earlier than the latest lease granted on its line. -/
def State.completion (s : State) (t : Target) (pa : Nat) : Nat :=
  if t.homed then max s.ns ((Sparse.find s.mem.leases (lineKey t pa)).getD 0) else s.ns

/-- R49: what a location held before a write that has yet to complete; locations whose stores have completed are forgotten. -/
def State.noteYoung (s : State) (t : Target) (pa n : Nat) : State :=
  let c := s.completion t pa
  let kept := s.mem.young.filter fun y => decide (s.ns ≤ y.done + 3)
  let new := if c = s.ns then [] else (locsOf pa n).map fun l => { loc := t.code * 2 ^ 64 + l, done := c, old := (s.mem.of t).bytes (8 * l) 8 : Young }
  { s with mem := { s.mem with young := kept ++ new } }

/-- A global write is performed (R215, R239): the bytes change, locations are stamped, and watches are told. -/
def State.performWrite (s : State) (t : Target) (pa : Nat) (bs : List Byte) (st : Stamp) (hint : Nat := 0) : State :=
  if bs = [] then s
  else
    let s1 := ((s.noteYoung t pa bs.length).touchHome t pa hint true).write t pa bs
    let s2 := if t.homed then
        { s1 with mem := { s1.mem with wrote := Sparse.insert s1.mem.wrote (lineKey t pa) s1.mem.uses, rel := (locsOf pa bs.length).foldl (fun r l =>
            setRel r (t.code * 2 ^ 64 + l) (st.on ((Sparse.find r (t.code * 2 ^ 64 + l)).getD 0))) s1.mem.rel } }
      else s1
    s2.notify fun w => w.space == 0 && w.tgt == t && (locsOf pa bs.length).contains (w.pa / 8)

/-- The latest of the release times that a table holds for the locations of some bytes (R240). -/
def relOver (r : Sparse Nat) (base a n : Nat) : Nat := (locsOf a n).foldl (fun m l => max m ((Sparse.find r (base + l)).getD 0)) 0

/-- The release time of the locations of some bytes at an address. -/
def State.relAt (s : State) (t : Target) (pa n : Nat) : Nat := relOver s.mem.rel (t.code * 2 ^ 64) pa n

/-! ### Private areas and constant images (R212, R213) -/

/-- Where a thread's private area holds an offset, in its group's. -/
def privAddr (widx lane off : Nat) : Nat := (widx * 32 + lane) * 65536 + off

/-- R212, R213: the line of HBM behind an offset of a thread's private area, or the cause of the fault. -/
def State.privPlace (s : State) (w : Warp) (lane off n : Nat) : Except Nat (Target × Nat) :=
  if 65536 < off + n then .error 0x05
  else
    match s.groupOf w with
    | none => .error 0x04
    | some g => if g.privPa + privAddr w.widx lane off + n ≤ Config.hbmBytes then .ok (.hbm, g.privPa + privAddr w.widx lane off) else .error 0x04

/-- R212, R213: the same of the launch's constant image. -/
def State.constPlace (s : State) (w : Warp) (off n : Nat) : Except Nat (Target × Nat) :=
  match s.launchOf w with
  | none => .error 0x05
  | some l => if l.constSize < off + n then .error 0x05 else if l.constPa + off + n ≤ Config.hbmBytes then .ok (.hbm, l.constPa + off) else .error 0x04

/-- A vault write is performed (R217). -/
def State.performVault (s : State) (core off : Nat) (bs : List Byte) (st : Stamp) : State :=
  (s.modCore core fun k =>
    { k with vault := k.vault.setBytes off bs
             vaultRel := (locsOf off bs.length).foldl (fun r l => setRel r l (st.on ((Sparse.find r l).getD 0))) k.vaultRel }).notify fun w =>
      w.space == 1 && w.unit == core && (locsOf off bs.length).contains (w.pa / 8)

/-- A scratch write is performed (R217). -/
def State.performScratch (s : State) (gid off : Nat) (bs : List Byte) (st : Stamp) : State :=
  (s.modGroup gid fun g =>
    { g with scratch := g.scratch.setBytes off bs
             scratchRel := (locsOf off bs.length).foldl (fun r l => setRel r l (st.on ((Sparse.find r l).getD 0))) g.scratchRel }).notify fun w =>
      w.space == 2 && w.gid == gid && (locsOf off bs.length).contains (w.pa / 8)

/-- R261: the new value of an integer atomic, on `n` bytes. -/
def atomInt (op n : Nat) (sgn : Bool) (old b : Nat) : Nat :=
  let w := 8 * n
  let lt := fun (x y : Nat) => if sgn then decide (toSigned w x < toSigned w y) else decide (x < y)
  match op with
  | 0 => (old + b) % 2 ^ w
  | 1 => if lt b old then b else old
  | 2 => if lt old b then b else old
  | 3 => old &&& b
  | 4 => old ||| b
  | 5 => old ^^^ b
  | 6 => b
  | 7 => if b ≤ old then 0 else (old + 1) % 2 ^ w
  | _ => if old = 0 ∨ b < old then b else old - 1

/-- R261, R262: the new value of a float atomic, with the flags it raises; it never flushes. -/
def atomFloat (op n : Nat) (old b : Nat) : Nat × BitVec 5 :=
  let f := if n = 8 then f64 else f32
  match op with
  | 0 => fpAdd f 0 false old b
  | 1 => fpMinNum f false old b
  | 2 => fpMinNum f true old b
  | _ => (b, 0)

/-- R262: new(old, b). -/
def atomNew (op n : Nat) (flt sgn : Bool) (old b : Nat) : Nat × BitVec 5 :=
  let m := 2 ^ (8 * n)
  if flt then atomFloat op n old (b % m) else (atomInt op n sgn old (b % m), 0)

end Sys2Proof.Machine
end

