-- ==== Sys2Proof/Machine/Sluice.lean ====
section
/-! DEFINITION. The Sluice (spec 17, R382 to R385, R390, R465): staging of global writes in ordered and strict class, what loads of
the group see, and release in stream order as the frontier advances. -/

namespace Sys2Proof.Machine

/-- R382: the class of a warp's launch: 0 free, 1 ordered, 2 strict. -/
def State.classOf (s : State) (w : Warp) : Nat := match s.launchOf w with | some l => l.kern.cls | none => 0

/-- The die of a core (R7). -/
def dieOf (core : Nat) : Nat := core / 32

/-- R382: a group's launch is of strict class. -/
def State.strictGroup (s : State) (g : Group) : Bool := match s.launch? g.launch with | some l => l.kern.cls == 2 | none => false

/-- R382: where a record is held: the atomics of strict class in their core's atomic buffer, everything else in their die's staging buffer. -/
def Staged.buffered (r : Staged) (strict : Bool) : Bool := strict && r.kind != .store

/-- R385: the lines that a group has staged in a die's buffer. -/
def State.linesOf (s : State) (die : Nat) (g : Group) : List Nat :=
  let strict := s.strictGroup g
  ((g.staged.filter fun r => dieOf r.core == die && !r.buffered strict).map fun r => lineKey r.tgt r.pa).eraseDups

/-- R385: the lines that a die's staging buffer holds, each group's its own, and the operations in a core's atomic buffer. Each copy of
launches has buffers of its own (R392). -/
def State.stagedLines (s : State) (die copy : Nat) : Nat := ((s.groups.filter fun e => e.2.copy == copy).map fun e => (s.linesOf die e.2).length).sum

def State.bufferedAtoms (s : State) (core copy : Nat) : Nat :=
  ((s.groups.filter fun e => e.2.copy == copy).map fun e => (e.2.staged.filter fun r => r.core == core && r.buffered (s.strictGroup e.2)).length).sum

/-- R392: which copy's buffers a group uses. -/
def State.copyOf (s : State) (gid : Nat) : Nat := match s.group? gid with | some g => g.copy | none => 0

/-- R385: the buffer of a group has room for so many more lines or operations. -/
def State.stageRoom (s : State) (gid core : Nat) (atom : Bool) (n : Nat) : Bool :=
  if atom then decide (s.bufferedAtoms core (s.copyOf gid) + n ≤ 4096) else decide (s.stagedLines (dieOf core) (s.copyOf gid) + n ≤ 524288)

/-- The part of an access that falls in the eight-byte location number `loc`: the bytes in place, and their mask (R390). -/
def locPart (loc pa : Nat) (bs : List Byte) : Word × BitVec 8 :=
  (List.range 8).foldl (fun r k =>
    let a := loc * 8 + k
    if pa ≤ a ∧ a < pa + bs.length then
      (r.1 ||| ((bs.getD (a - pa) 0).setWidth 64 <<< (8 * k)), r.2 ||| (1#8 <<< k))
    else r) (0, 0)

/-- The records of one write: one per location touched (R390). `atomic` carries the operand. -/
def stageRecs (r : Staged) (bs : List Byte) : List Staged :=
  match r.kind with
  | .store => (locsOf r.pa bs.length).map fun l =>
      let q := locPart l r.pa bs
      { r with pa := l * 8, va := (r.va - BitVec.ofNat 64 (r.pa % 8)) + BitVec.ofNat 64 (8 * (l - r.pa / 8)), data := q.1, mask := q.2 }
  | .atom _ _ _ => [{ r with mask := (locPart (r.pa / 8) r.pa bs).2 }]

/-- A write is staged for its group (R383). -/
def State.stage (s : State) (gid : Nat) (r : Staged) (bs : List Byte) : State :=
  s.modGroup gid fun g => { g with staged := g.staged ++ stageRecs r bs }

/-- The order of a stream (R390), within one group: warp, lane, sequence number. -/
def Staged.key (r : Staged) : Nat := (r.warp * 32 + r.lane) * 2 ^ 64 + r.seq

/-- Insertion into a list in stream order, before equal keys. -/
def insertStaged (r : Staged) : List Staged → List Staged
  | [] => [r]
  | q :: qs => if r.key ≤ q.key then r :: q :: qs else q :: insertStaged r qs

/-- Records in stream order. -/
def sortStaged : List Staged → List Staged
  | [] => []
  | r :: rs => insertStaged r (sortStaged rs)

/-- The bytes of a masked location: where the first one lies, and their list. -/
def maskedBytes (mask : BitVec 8) (data : Word) : Nat × List Byte :=
  let ks := (List.range 8).filter fun k => mask.getLsbD k
  (ks.headD 0, ks.map fun k => data.extractLsb' (8 * k) 8)

/-- The bytes that a location holds once a record has acted on them. -/
def Staged.apply (r : Staged) (old : List Byte) : List Byte :=
  let n := (maskedBytes r.mask r.data).2.length
  let off := (maskedBytes r.mask r.data).1
  let new := match r.kind with
    | .store => (maskedBytes r.mask r.data).2
    | .atom op flt sgn => bytesOfNat n (atomNew op n flt sgn (natOfBytes ((old.drop off).take n)) r.data.toNat).1
  old.take off ++ new ++ old.drop (off + n)

/-- R388, R390: the number, within its launch, of the commit that takes a write staged now. -/
def Launch.stepNo (l : Launch) : Nat := l.commits + if l.hasArrived then 1 else 0

def State.stepNo (s : State) (w : Warp) : Nat := match s.launchOf w with | some l => l.stepNo | none => 0

/-- R383, R393: the provisionally released records that a group sees, but for its own: those of its launch copy, or, in a
re-execution of one group, those of the primary groups below it. -/
def State.provStaged (s : State) (gid : Nat) : List Staged :=
  match s.group? gid with
  | none => []
  | some g =>
    let seen := fun (e : Nat × Group) =>
      e.1 != gid && if g.copy < 4 then e.2.launch == g.launch else e.2.launch == g.launch % 2 ^ 64 && decide (e.2.index < g.index)
    (s.groups.filter seen).flatMap fun e => e.2.staged.filter (·.prov)

/-- A released write that has not been performed, as the record it was. -/
def Request.unstage (r : Request) : List Staged :=
  r.accs.map fun a =>
    let q := locPart (a.pa / 8) a.pa (bytesOfNat a.n (natOfBytes a.data))
    { warp := r.widx, lane := a.lane, seq := 0, mask := q.2, va := a.va, tgt := r.tgt, pa := a.pa / 8 * 8, core := 0, order := 0, near := false
      pc := 0, ticket := none, kind := match r.kind with | .atom op flt sgn _ => .atom op flt sgn | _ => .store
      data := match r.kind with | .store => q.1 | _ => a.b
      epoch := 0, engine := false, step := 0, prov := false, hint := 0, act := 0, at_ := 0 }

/-- R246: the group's released writes that are still on their way to their home slices. -/
def State.leaving (s : State) (gid : Nat) : List Staged :=
  (s.mem.reqs.filter fun r => r.sluice && r.gid == gid && r.stage == .posted).flatMap Request.unstage

/-- R384: the staged records that a load of a group sees. -/
def State.visibleStaged (s : State) (gid : Nat) : List Staged :=
  s.provStaged gid ++ s.leaving gid ++ match s.group? gid with | some g => g.staged | none => []

/-- Bytes at a physical address with staged records over those that memory holds. -/
def overlayOf (s : State) (all : List Staged) (t : Target) (pa : Nat) (bs : List Byte) : List Byte :=
  let recs := all.filter fun r => r.tgt == t && (locsOf pa bs.length).contains (r.pa / 8)
  if recs = [] then bs
  else
    let base := pa / 8 * 8
    let n := ((pa + bs.length + 7) / 8 * 8) - base
    let raw := (List.range n).map fun k => if base + k < pa ∨ pa + bs.length ≤ base + k then (s.mem.of t).byte (base + k) else bs.getD (base + k - pa) 0
    let out := recs.foldl (fun acc r =>
      let o := r.pa - base
      acc.take o ++ r.apply ((acc.drop o).take 8) ++ acc.drop (o + 8)) raw
    (out.drop (pa - base)).take bs.length

/-- R384: the bytes that a load of the group reads at a physical address, over those that memory holds (DEDUCED, log entry 37). -/
def State.overlay (s : State) (gid : Nat) (t : Target) (pa : Nat) (bs : List Byte) : List Byte := overlayOf s (s.visibleStaged gid) t pa bs

/-- A released record as a request to its home slice (R383, R465), with the ticket that a `.sc` write took when it was staged (R257). -/
def Staged.request (r : Staged) (gid id : Nat) : Request :=
  let b := maskedBytes r.mask r.data
  { id := id, core := 4096, gid := gid, widx := r.warp
    kind := match r.kind with | .store => .store | .atom op flt sgn => .atom op flt sgn true
    grp := r.at_, space := 0, unit := 0, tgt := r.tgt
    accs := [{ lane := r.lane, va := r.va + BitVec.ofNat 64 b.1, pa := r.pa + b.1, n := b.2.length
               data := b.2, b := r.data, cmp := 0, mode := 0, ticket := r.ticket, hz := 0 }]
    act := r.act, pc := r.pc, order := r.order, scope := if r.near then 2 else 5, hint := r.hint, fresh := false, noAlloc := true, lease := 0, sluice := true
    epoch := r.epoch, frontier := false, pend := none, weight := 0, stage := .posted }

/-- Requests are posted, numbered in order. -/
def State.postAll (s : State) (gid : Nat) : List Staged → State
  | [] => s
  | r :: rs => ({ s.bump with mem := { s.mem with reqs := s.mem.reqs ++ [r.request gid s.fresh] } }).postAll gid rs

/-- The tickets of some staged writes are held no longer: the writes are on their way, or will never be performed (R257). -/
def State.unstageTickets (s : State) (rs : List Staged) : State :=
  { s with mem := { s.mem with ticketsStaged := s.mem.ticketsStaged.filter fun e => !(rs.any fun r => r.ticket == some e.1) } }

/-- R384: staged writes are discarded, and with them their tickets (R257). -/
def State.dropTickets (s : State) (rs : List Staged) : State :=
  let s1 := s.unstageTickets rs
  { s1 with mem := { s1.mem with ticketsOut := s1.mem.ticketsOut.filter fun t => !(rs.any fun r => r.ticket == some t) } }

/-- R383: what a group has staged so far is released: in ordered class to its home slices, in strict class provisionally. -/
def State.releaseStaged (s : State) (gid : Nat) (which : Staged → Bool) : State :=
  match s.group? gid with
  | none => s
  | some g =>
    let go := g.staged.filter fun r => which r && !r.prov
    if go = [] then s
    else
      let strict := match s.launch? g.launch with | some l => l.kern.cls == 2 | none => false
      let s1 := s.modLaunch g.launch fun l => { l with lastRelease := s.ns }
      if strict then
        s1.modGroup gid fun g => { g with released := true, staged := g.staged.map fun r => if which r then { r with prov := true } else r }
      else
        ((s1.unstageTickets go).modGroup gid fun g => { g with released := true, staged := g.staged.filter fun r => !which r }).postAll gid (sortStaged go)

/-- The group of a launch copy at an index. -/
def State.groupAt (s : State) (launch index : Nat) : Option (Nat × Group) :=
  s.groups.find? fun e => e.2.launch == launch && e.2.index == index

/-- R383, R380: the frontier group's writes are released; once it has retired or been discarded, the frontier passes to the next group. Of a
cancelled launch it passes over those that never start. -/
def State.advanceFrontier (s : State) (launch : Nat) : Nat → State
  | 0 => s
  | fuel + 1 =>
    match s.launch? launch with
    | none => s
    | some l =>
      match s.groupAt launch l.frontier with
      | none => if l.cancelled ∧ l.frontier < l.groups then (s.modLaunch launch fun l => { l with frontier := l.frontier + 1 }).advanceFrontier launch fuel else s
      | some (gid, g) =>
        let s1 := s.releaseStaged gid fun _ => true
        if g.mode = .retired ∨ g.mode = .discarded then
          (s1.modLaunch launch fun l => { l with frontier := l.frontier + 1 }).advanceFrontier launch fuel
        else s1

/-- R380: no group of a launch that may still retire stands at its frontier. -/
def State.frontierGone (s : State) (launch : Nat) : Bool :=
  match s.launch? launch with
  | none => true
  | some l => match s.groupAt launch l.frontier with | some (_, g) => g.mode == .retired || g.mode == .discarded | none => true

/-- R383: a write that an engine stages for a group that the frontier has passed is released at once. -/
def State.releasePast (s : State) (gid : Nat) : State :=
  match s.group? gid with
  | none => s
  | some g => match s.launch? g.launch with | some l => if g.index < l.frontier then s.releaseStaged gid fun _ => true else s | none => s

/-- R383: a group has retired or been discarded, or a write has been staged: the frontier moves as far as it can. A write of a
group that is already the frontier group stays staged until it retires or the launch commits. -/
def State.sluiceRetire (s : State) (gid : Nat) : State :=
  match s.group? gid with
  | none => s
  | some g =>
    match s.launch? g.launch with
    | none => s
    | some l => if l.kern.cls = 0 ∨ g.index ≠ l.frontier then s else s.advanceFrontier g.launch (l.groups + 1)

end Sys2Proof.Machine
end

