-- ==== Sys2Proof/Machine/Orders.lean ====
section
/-! DEFINITION. Horizons (spec 11, R252, R253, R256), the crew of a group, and barriers (R268 to R270). -/

namespace Sys2Proof.Machine

/-! ### Horizons -/

/-- The request carries an access of a thread. A write that the Sluice has released is not the thread's own any more (R465). -/
def Request.isOf (r : Request) (gid widx lane : Nat) : Bool :=
  r.gid == gid && r.widx == widx && !r.sluice && r.accs.any fun a => a.lane == lane

def Request.reads (r : Request) : Bool := match r.kind with | .load _ | .cas | .atom _ _ _ _ => true | _ => false
def Request.writes (r : Request) : Bool := match r.kind with | .store | .cas | .atom _ _ _ _ => true | _ => false

/-- Every read of a thread has been performed. -/
def State.readsDone (s : State) (gid widx lane : Nat) : Bool :=
  s.mem.reqs.all fun r => !(r.isOf gid widx lane && r.reads && r.stage == .posted)

/-- R252: every write of a thread has returned its times; for `.sy` scope host and peer writes are acknowledged too. -/
def State.writesBack (s : State) (gid widx lane : Nat) (sy : Bool) : Bool :=
  s.mem.reqs.all fun r => !(r.isOf gid widx lane && r.writes && (sy || r.stage != .unacked))

/-- A number that no group has: that of what comes from outside the cores (R426, R431). -/
def outsideGid : Nat := 2 ^ 256

/-- R9, R253: device time has passed a time: every die's copy, each within 1 ns of the device's, exceeds it by more than 2; 0 stands for none
(DEDUCED, log entry 44). -/
def State.timePasses (s : State) (t : Nat) : Bool := t == 0 || decide (t + 3 < s.ns)

/-- R252: the later of two times; a time 0 counts as 1, since 0 stands for none. -/
def laterOf (h t : Nat) : Nat := max h (max 1 t)

/-- R241: the scopes `.cw` and wider. -/
def farScope (scope : Nat) : Bool := decide (3 ≤ scope)

def Thread.horizon (t : Thread) (scope : Nat) : Nat := if farScope scope then t.farH else t.nearH

/-- R256: the earlier accesses of a thread let a release of a scope be performed. -/
def State.mayRelease (s : State) (w : Warp) (scope : Nat) (i : Fin 32) : Bool :=
  s.readsDone w.gid w.widx i && s.writesBack w.gid w.widx i (scope == 6) && s.timePasses (w.threads[i].horizon scope)

/-- R252: a thread's write has returned its times. -/
def Thread.wrote (t : Thread) (p c : Nat) : Thread := { t with nearH := laterOf t.nearH p, farH := laterOf t.farH c }

/-- R252: an acquire of some threads has completed: their acquire horizons begin anew, where device time has passed them (DEDUCED, log
entry 39). -/
def State.clearAcq (s : State) (wk : Nat) (m : Mask) : State :=
  s.modWarp wk fun w => w.modThreads m fun _ t => { t with acqH := if s.timePasses t.acqH then 0 else t.acqH }

/-- R76: a fence, an acquire or a barrier of the warp has completed. -/
def State.noteSync (s : State) (wk : Nat) : State := s.modWarp wk fun w => { w with lastSync := s.ns }

/-- The least of a list of program counters. -/
def leastPc : List Word → Option Word
  | [] => none
  | a :: as => match leastPc as with | none => some a | some b => some (if b.toNat < a.toNat then b else a)

/-! ### Crews and barriers -/

/-- The crew that a group belongs to; a group without a crew is its own. -/
def crewNumber (l : Launch) (g : Group) : Nat := if l.kern.crew ≤ 1 then g.index else g.index / l.kern.crew

/-- The groups that share a barrier of a group: itself, or its crew. -/
def State.barrierGroups (s : State) (gid : Nat) (crew : Bool) : List Nat :=
  match s.group? gid with
  | none => []
  | some g =>
    match s.launch? g.launch with
    | none => [gid]
    | some l =>
      if !crew || decide (l.kern.crew ≤ 1) then [gid]
      else (s.groups.filter fun e => e.2.launch == g.launch && e.2.copy == g.copy && crewNumber l e.2 == crewNumber l g).map (·.1)

/-- The key of a crew's barriers in its launch copy. -/
def crewKey (l : Launch) (g : Group) : Nat := crewNumber l g

def State.barrier (s : State) (gid : Nat) (crew : Bool) (n : Nat) : Barrier :=
  match s.group? gid with
  | none => Barrier.init
  | some g =>
    if crew then
      match s.launch? g.launch with
      | some l => (Sparse.find ((Sparse.find l.crewBars (crewKey l g)).getD []) n).getD Barrier.init
      | none => Barrier.init
    else (Sparse.find g.bars n).getD Barrier.init

def State.setBarrier (s : State) (gid : Nat) (crew : Bool) (n : Nat) (b : Barrier) : State :=
  match s.group? gid with
  | none => s
  | some g =>
    if crew then
      s.modLaunch g.launch fun l =>
        { l with crewBars := Sparse.insert l.crewBars (crewKey l g) (Sparse.insert ((Sparse.find l.crewBars (crewKey l g)).getD []) n b) }
    else s.modGroup gid fun g => { g with bars := Sparse.insert g.bars n b }

/-- The resident warps of some groups. -/
def State.warpsIn (s : State) (gids : List Nat) : List (Nat × Warp) := s.warps.filter fun e => gids.contains e.2.gid

/-- The non-exited threads of some groups. -/
def State.liveThreads (s : State) (gids : List Nat) : Nat :=
  (((s.warpsIn gids).filter fun e => !e.2.doomed).map fun e => Mask.count (e.2.which fun t => !t.isExited)).sum

/-- R364: threads whose late fault was held for the end of their wait are parked at the instruction they now stand at. -/
def State.parkHeld (s : State) (wk : Nat) (m : Mask) : State :=
  match s.warp? wk with
  | none => s
  | some w =>
    let due := maskOf fun i => m.getLsbD i && w.threads[i].isReady && w.threads[i].lateRec.isSome
    if due = 0 then s
    else
      (List.range 0x16).foldl (fun s1 cause =>
        let hit := maskOf fun i => due.getLsbD i && (match w.threads[i].lateRec with | some (c, _) => c == cause | none => false)
        (Mask.lanes hit).foldl (fun s2 i =>
          s2.park wk { cause := cause, late := true, pc := w.threads[i].pc, mask := maskOf fun j => j == i }
            (fun j => match w.threads[j].lateRec with | some (_, a) => a | none => 0) fun j => w.threads[j].pc) s1)
        (s.modWarp wk fun w => w.modThreads due fun _ t => { t with lateRec := none })

/-- The waits of some threads end together: they are ready at the next instruction with wait count 0. -/
def State.release (s : State) (wk : Nat) (m : Mask) : State :=
  (s.modWarp wk fun w => w.modThreads m fun _ t => t.wake).parkHeld wk m

/-- Threads that wait for a phase up to `phase` of a barrier. -/
def Warp.atBarrier (w : Warp) (crew : Bool) (n phase : Nat) : Mask :=
  w.which fun t => match t.waits with | some (.bar c k p) => c == crew && k == n && decide (p < phase) | _ => false

/-- R268: a phase is complete: its waiters are released. -/
def State.completePhase (s : State) (gid : Nat) (crew : Bool) (n : Nat) : State :=
  let b := s.barrier gid crew n
  let s1 := s.setBarrier gid crew n { phase := b.phase + 1, arrived := 0, count := 0, openLeft := 0 }
  (s1.warpsIn (s1.barrierGroups gid crew)).foldl (fun s2 e =>
    let m := e.2.atBarrier crew n (b.phase + 1)
    if m = 0 then s2 else ((s2.release e.1 m).clearAcq e.1 m).noteSync e.1) s1

/-- R268: a thread arrives. A count that differs from the open phase's gives nothing (R269) (DEDUCED, log entry 40). -/
def State.arrive (s : State) (gid : Nat) (crew : Bool) (n count : Nat) : Option (State × Nat) :=
  let b := s.barrier gid crew n
  let b1 := if b.arrived = 0 then { b with count := count, openLeft := if count = 0 then s.liveThreads (s.barrierGroups gid crew) else count } else b
  if b1.count ≠ count then none
  else
    let b2 := { b1 with arrived := b1.arrived + 1 }
    let s1 := s.setBarrier gid crew n b2
    some (if b2.openLeft ≤ b2.arrived then s1.completePhase gid crew n else s1, b1.phase)

/-- R268: threads of a group exit: the default counts of open phases fall. -/
def State.exitBarrier (s : State) (gid : Nat) (crew : Bool) (k n : Nat) : State :=
  let b := s.barrier gid crew n
  if b.arrived = 0 ∨ b.count ≠ 0 then s
  else
    let b1 := { b with openLeft := b.openLeft - k }
    let s1 := s.setBarrier gid crew n b1
    if b1.openLeft ≤ b1.arrived then s1.completePhase gid crew n else s1

def State.exitBarriers (s : State) (gid k : Nat) : State :=
  let s1 := (List.range 16).foldl (fun s n => s.exitBarrier gid false k n) s
  (List.range 4).foldl (fun s n => s.exitBarrier gid true k n) s1

end Sys2Proof.Machine
end

