-- ==== Sys2Proof/Machine/SpecFn.lean ====
section
/-! DEFINITION. Special functions and conversions on one element (spec 08, R182 to R192). The correctly rounded functions are
computed in fixed point to `n` fraction bits with an error below 2^20 units; when the bounds of that error still round
differently, `n` is doubled (DEDUCED, log entry 26). -/

namespace Sys2Proof.Machine

/-! ### Fixed point -/

/-- Σ of an alternating or plain series: each term is the one before times `step`, divided by the next of `dens`. -/
def seriesSum (n : Nat) (z : Nat) (alternate : Bool) : Nat → Nat → Nat → Int
  | 0, _, _ => 0
  | fuel + 1, k, term =>
    if term = 0 then 0
    else (term : Int) + (if alternate then -1 else 1) * seriesSum n z alternate fuel (k + 1) (term * z / 2 ^ n / k)

/-- exp of a number in [0, 1], scaled by 2^n. -/
def expFix (n r : Nat) : Nat := (seriesSum n r false (n + 8) 1 (2 ^ n)).toNat

/-- exp(−r) for r in [0, 1], scaled by 2^n. -/
def expNegFix (n r : Nat) : Nat := (seriesSum n r true (n + 8) 1 (2 ^ n)).toNat

/-- Σ z^(2k+1) / (2k+1), with alternating signs for the arc tangent. -/
def atanSum (n z2 : Nat) (alternate : Bool) : Nat → Nat → Nat → Int
  | 0, _, _ => 0
  | fuel + 1, k, p =>
    if p = 0 then 0
    else (p / (2 * k + 1) : Nat) + (if alternate then -1 else 1) * atanSum n z2 alternate fuel (k + 1) (p * z2 / 2 ^ n)

/-- atanh(z), scaled by 2^n, for z scaled by 2^n. -/
def atanhFix (n z : Nat) : Nat := (atanSum n (z * z / 2 ^ n) false (n + 8) 0 z).toNat

/-- atan(1/d), scaled by 2^n. -/
def atanInv (n d : Nat) : Int := atanSum n (2 ^ n / (d * d)) true (n + 8) 0 (2 ^ n / d)

/-- ln 2 and π, scaled by 2^n. -/
def ln2Fix (n : Nat) : Nat := 2 * atanhFix n (2 ^ n / 3)
def piFix (n : Nat) : Nat := (16 * atanInv (n + 16) 5 - 4 * atanInv (n + 16) 239).toNat / 2 ^ 16

/-- A magnitude in fixed point: m · 2^e scaled by 2^n, cut off below. -/
def Exact.fix (x : Exact) (n : Nat) : Nat := if 0 ≤ x.e + n then x.m * 2 ^ (x.e + n).toNat else x.m / 2 ^ (-(x.e + n)).toNat

/-- 2^20 units around an approximation lie in one cell of 2^40 units, or a finer approximation is asked for. -/
def ziv (neg : Bool) (scale : Int) (f : Nat → Nat) : Nat → Nat → Exact
  | 0, n => { neg := neg, m := f n / 2 ^ 40, e := scale - n + 40, sticky := true }
  | fuel + 1, n =>
    let v := f n
    if (v - 2 ^ 20) / 2 ^ 40 = (v + 2 ^ 20) / 2 ^ 40 then { neg := neg, m := v / 2 ^ 40, e := scale - n + 40, sticky := true }
    else ziv neg scale f fuel (2 * n)

/-- A value strictly between a number and its neighbour 2^−60 of it away, above or below. -/
def justAbove (neg : Bool) (e : Int) : Exact := { neg := neg, m := 2 ^ 60, e := e - 60, sticky := true }
def justBelow (neg : Bool) (e : Int) : Exact := { neg := neg, m := 2 ^ 60 - 1, e := e - 60, sticky := true }

/-- A magnitude is below 2^−60, or at least 2^k. -/
def Exact.tiny (x : Exact) : Bool := decide (x.log2 < -60)

/-- exp(−y), for y scaled by 2^n: k and u with exp(−y) = 2^−k · u, u scaled by 2^n. -/
def expNegParts (n y : Nat) : Nat × Nat :=
  let l := ln2Fix n
  (y / l, expNegFix n (y % l))

/-- 2^x, x not an integer and of moderate size. -/
def exactExp2 (x : Exact) : Exact :=
  if x.tiny then (if x.neg then justBelow false 0 else justAbove false 0)
  else
    let k := x.m / 2 ^ (-x.e).toNat
    let frac : Exact := { neg := false, m := x.m % 2 ^ (-x.e).toNat, e := x.e }
    if x.neg then ziv false (-(k : Int)) (fun n => expNegFix n (frac.fix n * ln2Fix n / 2 ^ n)) 6 340
    else ziv false k (fun n => expFix n (frac.fix n * ln2Fix n / 2 ^ n)) 6 340

/-- x is an integer. -/
def Exact.integral (x : Exact) : Bool := decide (0 ≤ x.e) || x.m % 2 ^ (-x.e).toNat == 0

/-- The integer part of a magnitude, at most 2^20. -/
def Exact.floorCap (x : Exact) : Nat := if 20 < x.log2 then 2 ^ 20 else x.fix 0

/-- log2 of a positive number that is no power of two: n + log2 of its significand. -/
def exactLog2 (x : Exact) : Exact :=
  let k := x.log2
  let f := fun (n : Nat) =>
    let m := ({ x with e := x.e - k } : Exact).fix n
    (2 * atanhFix n ((m - 2 ^ n) * 2 ^ n / (m + 2 ^ n))) * 2 ^ n / ln2Fix n
  if 0 ≤ k then ziv false 0 (fun n => k.toNat * 2 ^ n + f n) 6 340 else ziv true 0 (fun n => (-k).toNat * 2 ^ n - f n) 6 340

/-- x modulo π/2, scaled by 2^n, with the quadrant. -/
def reducePi (x : Exact) (n : Nat) : Nat × Nat :=
  let g := (max 0 x.log2).toNat + 24
  let h := piFix (n + g) / 2
  let v := x.fix (n + g)
  (v / h % 4, v % h / 2 ^ g)

/-- sin and cos of r in [0, π/2], scaled by 2^n: Taylor series in r². -/
def trigSum (n r2 : Nat) : Nat → Nat → Nat → Int
  | 0, _, _ => 0
  | fuel + 1, k, term => if term = 0 then 0 else (term : Int) - trigSum n r2 fuel (k + 2) (term * r2 / 2 ^ n / (k * (k + 1)))

def sinFix (n r : Nat) : Nat := (trigSum n (r * r / 2 ^ n) (n + 8) 2 r).toNat
def cosFix (n r : Nat) : Nat := (trigSum n (r * r / 2 ^ n) (n + 8) 1 (2 ^ n)).toNat

/-- sin or cos of a finite nonzero number; `shift` 1 turns the sine into the cosine. -/
def exactTrig (cosine : Bool) (x : Exact) : Exact :=
  if x.tiny then (if cosine then justBelow false 0 else { neg := x.neg, m := x.m * 2 ^ 60 - 1, e := x.e - 60, sticky := true })
  else
    let q := ((reducePi x 340).1 + if cosine then 1 else 0) % 4
    let neg := (2 ≤ q : Bool) != (x.neg && !cosine)
    ziv neg 0 (fun n => let r := (reducePi x n).2; if q % 2 = 0 then sinFix n r else cosFix n r) 6 340

/-- tanh of a finite nonzero number. -/
def exactTanh (x : Exact) : Exact :=
  if x.tiny then { neg := x.neg, m := x.m * 2 ^ 60 - 1, e := x.e - 60, sticky := true }
  else if 5 ≤ x.log2 then justBelow x.neg 0
  else
    ziv x.neg 0 (fun n =>
      let p := expNegParts n (2 * x.fix n)
      let u := p.2 / 2 ^ p.1
      (2 ^ n - u) * 2 ^ n / (2 ^ n + u)) 6 340

/-- The logistic function of a finite nonzero number. -/
def exactSigm (x : Exact) : Exact :=
  if x.tiny then (if x.neg then justBelow false (-1) else justAbove false (-1))
  else if 6 ≤ x.log2 ∧ x.neg = false then justBelow false 0
  else if 11 ≤ x.log2 then { neg := false, m := 1, e := -2000, sticky := true }
  else
    let k := (expNegParts 340 (x.fix 340)).1
    if x.neg then
      ziv false (-(k : Int)) (fun n => let p := expNegParts n (x.fix n); p.2 * 2 ^ n / (2 ^ n + p.2 / 2 ^ k)) 6 340
    else ziv false 0 (fun n => let p := expNegParts n (x.fix n); 2 ^ (2 * n) / (2 ^ n + p.2 / 2 ^ p.1)) 6 340

/-! ### The eight functions (R182 to R185) -/

/-- R183: 1 / a. -/
def fpRcp (f : FFmt) (mode : Nat) (ftz : Bool) (a : Nat) : Nat × BitVec 5 :=
  match f.firstNan [a] with
  | some r => r
  | none =>
    if f.isInf a then (f.zero (f.sign a), 0)
    else if f.isZero a then (f.inf (f.sign a), flagDZ)
    else deliver f mode ftz (exactDiv (f.prec + 3) { neg := false, m := 1, e := 0 } (f.val a))

/-- R183: 1 / √a. -/
def fpRsq (f : FFmt) (mode : Nat) (ftz : Bool) (a : Nat) : Nat × BitVec 5 :=
  match f.firstNan [a] with
  | some r => r
  | none =>
    if f.isZero a then (f.inf (f.sign a), flagDZ)
    else if f.sign a then f.invalid
    else if f.isInf a then (f.zero false, 0)
    else
      let x := f.val a
      let m := if x.e % 2 = 0 then x.m else 2 * x.m
      let e := if x.e % 2 = 0 then x.e else x.e - 1
      let k := f.prec + 3 + Nat.log2 m
      let q := isqrt (2 ^ (2 * k) / m)
      deliver f mode ftz { neg := false, m := q, e := -(e / 2) - k, sticky := q * q * m != 2 ^ (2 * k) }

/-- R183: 2^a, correctly rounded (binary64). -/
def fpExp2 (f : FFmt) (ftz : Bool) (a : Nat) : Nat × BitVec 5 :=
  match f.firstNan [a] with
  | some r => r
  | none =>
    if f.isInf a then (if f.sign a then f.zero false else f.inf false, 0)
    else
      let x := f.val a
      let one := (deliver f 0 false { neg := false, m := 1, e := 0 }).1
      if f.isZero a then (one, 0)
      else if x.integral then
        deliver f 0 ftz { neg := false, m := 1, e := if x.neg then -(min x.floorCap 5000 : Nat) else (min x.floorCap 5000 : Nat) }
      else if 12 ≤ x.log2 then deliver f 0 ftz { neg := false, m := 1, e := if x.neg then -5000 else 5000, sticky := true }
      else deliver f 0 ftz (exactExp2 x)

/-- R183: log2 a. Of 1.0 it is +0 (DESIGN CHOICE, log entry 102). -/
def fpLog2 (f : FFmt) (ftz : Bool) (a : Nat) : Nat × BitVec 5 :=
  match f.firstNan [a] with
  | some r => r
  | none =>
    if f.isZero a then (f.inf true, flagDZ)
    else if f.sign a then f.invalid
    else if f.isInf a then (a, 0)
    else
      let x := f.val a
      if x.m = 2 ^ Nat.log2 x.m then deliver f 0 ftz (exactOf x.log2 0 false) else deliver f 0 ftz (exactLog2 x)

/-- R183: sin a and cos a. -/
def fpTrig (cosine : Bool) (f : FFmt) (ftz : Bool) (a : Nat) : Nat × BitVec 5 :=
  match f.firstNan [a] with
  | some r => r
  | none =>
    if f.isInf a then f.invalid
    else if f.isZero a then (if cosine then ((deliver f 0 false { neg := false, m := 1, e := 0 }).1, 0) else (a, 0))
    else deliver f 0 ftz (exactTrig cosine (f.val a))

/-- rne32 of the operations of R184 and R185: no flag. -/
def r32mul (a b : Nat) : Nat := (fpMul f32 0 false a b).1
def r32add (a b : Nat) : Nat := (fpAdd f32 0 false a b).1
def r32sub (a b : Nat) : Nat := (fpSub f32 0 false a b).1
def r32div (a b : Nat) : Nat := (fpDiv f32 0 false a b).1

/-- The largest r below 2^(k+1), found from bit k down, for which (2r − 1)^64 ≤ 2^(24·64 + j): the nearest integer to 2^(23 + j/64). -/
def root64From (j : Nat) : Nat → Nat → Nat
  | 0, r => r
  | k + 1, r => if (2 * (r + 2 ^ k) - 1) ^ 64 ≤ 2 ^ (1536 + j) then root64From j k (r + 2 ^ k) else root64From j k r

/-- R184: T[j], the binary32 nearest 2^(j/64). -/
def expTable (j : Nat) : Nat := 126 * 2 ^ 23 + root64From j 24 0

/-- R184: dexp2 of a binary32 pattern that is no NaN; FTZ acts on the delivery. -/
def dexp2 (ftz : Bool) (a : Nat) : Nat × BitVec 5 :=
  if f32.isInf a then (if f32.sign a then f32.zero false else f32.inf false, 0)
  else if f32.isZero a then (0x3F800000, 0)
  else
    let x := f32.val a
    if f32.sign a = false ∧ 0x43000000 ≤ a then (f32.inf false, flagOF ||| flagNX)
    else if f32.sign a ∧ 0x43170000 ≤ f32.mag a then (f32.zero false, flagUF ||| flagNX)
    else
      let q := (roundAt 0 { x with e := x.e + 6 } 0).1
      let n : Int := if x.neg then -(q : Int) else q
      let k := n / 64
      let t := expTable (n % 64).toNat
      let fr := r32sub a (deliver f32 0 false (exactOf n (-6) false)).1
      let p := r32add (r32mul 0x3D635826 fr) 0x3E75FDF0
      let p := r32add (r32mul p fr) 0x3F317218
      let p := r32mul p fr
      let m := r32add (r32mul t p) t
      let r := fpScale f32 0 ftz m k
      (r.1, r.2 ||| flagIf (!x.integral) flagNX)

/-- R184: `fexp2` of a binary32 or BF16 element. -/
def fpDexp2 (f : FFmt) (ftz : Bool) (a : Nat) : Nat × BitVec 5 :=
  match f.firstNan [a] with
  | some r => r
  | none =>
    if f = f32 then dexp2 ftz a
    else if f.isZero a then (0x3F80, 0)
    else if f.isInf a then (if f.sign a then f.zero false else f.inf false, 0)
    else
      let r := dexp2 false (f.widenTo f32 a)
      if f32.isInf r.1 then (f.inf false, r.2)
      else
        let d := deliver f 0 ftz (f32.val r.1)
        (d.1, r.2 ||| d.2)

/-- R185: fsigm and ftanh in binary32. -/
def sigm32 (x : Nat) : Nat :=
  let e := (dexp2 false (f32.neg (r32mul x 0x3FB8AA3B))).1
  r32div 0x3F800000 (r32add 0x3F800000 e)

def tanh32 (x : Nat) : Nat :=
  let a := f32.mag x
  if a < 0x3E000000 then
    let s := r32mul x x
    let p := r32add (r32mul 0xBD5D0DD4 s) 0x3E088889
    let p := r32add (r32mul p s) 0xBEAAAAAB
    let p := r32mul p s
    r32add x (r32mul x p)
  else
    let e := (dexp2 false (f32.neg (r32mul a 0x4038AA3B))).1
    let r := r32div (r32sub 0x3F800000 e) (r32add 0x3F800000 e)
    if f32.sign x then f32.neg r else r

/-- R185: a result of the binary32 algorithm, delivered with the flags that the rule states. -/
def algo32 (g : Nat → Nat) (f : FFmt) (ftz : Bool) (a : Nat) : Nat × BitVec 5 :=
  let y := g (f.widenTo f32 a)
  let r := if f = f32 then y else (deliver f 0 false (f32.val y)).1
  let small := f.isSub r || f.isZero r
  (if ftz && f.isSub r then f.zero (f.sign r) else r, flagNX ||| flagIf small flagUF)

/-- R182, R183, R185: ftanh and fsigm. -/
def fpTanh (f : FFmt) (ftz : Bool) (a : Nat) : Nat × BitVec 5 :=
  match f.firstNan [a] with
  | some r => r
  | none =>
    if f.isInf a then ((deliver f 0 false { neg := f.sign a, m := 1, e := 0 }).1, 0)
    else if f.isZero a then (a, 0)
    else if f = f64 then deliver f 0 false (exactTanh (f.val a))
    else algo32 tanh32 f ftz a

def fpSigm (f : FFmt) (ftz : Bool) (a : Nat) : Nat × BitVec 5 :=
  match f.firstNan [a] with
  | some r => r
  | none =>
    if f.isInf a then (if f.sign a then f.zero false else (deliver f 0 false { neg := false, m := 1, e := 0 }).1, 0)
    else if f.isZero a then ((deliver f 0 false { neg := false, m := 1, e := -1 }).1, 0)
    else if f = f64 then deliver f 0 false (exactSigm (f.val a))
    else algo32 sigm32 f ftz a

/-! ### Conversions (R187) -/

/-- A NaN in another format: sign, the high bits of its payload that fit, quieted. -/
def FFmt.convNan (f g : FFmt) (a : Nat) : Nat :=
  let p := if f.fb ≤ g.fb then f.frac a * 2 ^ (g.fb - f.fb) else f.frac a / 2 ^ (f.fb - g.fb)
  g.quiet (g.signed (f.sign a) (g.expMax * 2 ^ g.fb + p))

/-- R187: one element from type `st` to type `dt`. -/
def cvtElem (dt st mode : Nat) (ftz sat : Bool) (a0 : Nat) : Nat × BitVec 5 :=
  let fs := tyFmt st
  let fd := tyFmt dt
  let a := if tyFloat st then fs.read (ftz && st != 9) a0 else a0
  match tyFloat st, tyFloat dt with
  | false, false =>
    let v := tyVal st a
    (wrap (tyWidth dt) (if sat then max (tyMin dt) (min v (tyMax dt)) else v), 0)
  | false, true => deliver fd mode (ftz && dt != 9) (exactOf (tyVal st a) 0 false)
  | true, true =>
    if fs.isNan a then (fs.convNan fd a, flagIf (fs.isSnan a) flagNV)
    else if fs.isInf a then (fd.inf (fs.sign a), 0)
    else deliver fd mode (ftz && dt != 9) (fs.val a)
  | true, false =>
    let out := fun (neg : Bool) => wrap (tyWidth dt) (if neg then tyMin dt else tyMax dt)
    if fs.isNan a then (0, flagNV)
    else if fs.isInf a then (out (fs.sign a), flagNV)
    else
      let x := fs.val a
      let r := roundAt mode x 0
      let v : Int := if x.neg then -(r.1 : Int) else r.1
      if v < tyMin dt ∨ tyMax dt < v then (out x.neg, flagNV) else (wrap (tyWidth dt) v, flagIf r.2 flagNX)

/-! ### Random numbers (R190 to R192) -/

def rotl32 (x k : Nat) : Nat := (x * 2 ^ k % 2 ^ 32) + x / 2 ^ (32 - k)

def rngRotA (i : Nat) : Nat := [7, 12, 5, 16, 9, 24, 3, 13, 11, 20].getD i 0
def rngRotB (i : Nat) : Nat := [19, 8, 27, 4, 14, 6, 21, 10, 25, 17].getD i 0

/-- R190: one round. -/
def rngRound (key i : Nat) (q : Nat × Nat × Nat × Nat) : Nat × Nat × Nat × Nat :=
  let (a, b, c, d) := q
  let a := (a + d + 0x7A31C58D * (i + 1)) % 2 ^ 32
  let b := rotl32 (b ^^^ a) (rngRotA i)
  let c := (c + b) % 2 ^ 32
  let d := rotl32 (d ^^^ c) (rngRotB i)
  let a := if i = 4 ∨ i = 9 then (a + key % 2 ^ 32) % 2 ^ 32 else a
  let c := if i = 4 ∨ i = 9 then (c + key / 2 ^ 32) % 2 ^ 32 else c
  (c, d, a, b)

/-- R190: rngblock. -/
def rngBlock (key ctr : Nat) : Nat :=
  let (a, b, c, d) := (List.range 10).foldl (fun q i => rngRound key i q) (ctr % 2 ^ 32, ctr / 2 ^ 32, key % 2 ^ 32, key / 2 ^ 32)
  d * 2 ^ 96 + c * 2 ^ 64 + b * 2 ^ 32 + a

/-- R192: a draw. -/
def rngDraw (ty n : Nat) (hi : Bool) (key pos : Word) : Word :=
  let o := rngBlock key.toNat ((pos.toNat * 64 + n) % 2 ^ 64) / 2 ^ (if hi then 64 else 0) % 2 ^ 64
  match ty with
  | 9 => BitVec.ofNat 64 (deliver f64 0 false { neg := false, m := o / 2 ^ 11, e := -53 }).1
  | 10 => ofElems 32 ((List.range 2).map fun e => (deliver f32 0 false { neg := false, m := o / 2 ^ (32 * e + 8) % 2 ^ 24, e := -24 }).1)
  | _ => BitVec.ofNat 64 o

end Sys2Proof.Machine
end

