-- ==== Sys2Proof/Machine/Life.lean ====
section
/-! DEFINITION. The life of threads, warps and groups: the release of a `rejoin` (spec 04, R117), the faults of collectives that
cannot complete (R117, R196, R270, R283), exit, retirement, restart and mismatch (R107 to R109), and what a group's retirement
sets going (R369, R383, R388, R393). -/

namespace Sys2Proof.Machine

/-- Threads that wait are parked together, each at its own instruction (R117, R196, R283) (DEDUCED, log entry 83). -/
def State.parkWaiting (s : State) (wk cause : Nat) (m : Mask) (addr : Word) (pc : Thread → Word) : State :=
  if m = 0 then s
  else
    (s.modWarp wk fun w => w.modThreads m fun i t => t.take { cause := cause, pc := pc t, mask := m } w.widx i s.ns addr (pc t)).noteRecords wk m

/-- The threads that have exited. -/
def Warp.gone (w : Warp) : Mask := w.which Thread.isExited

/-- The threads that wait at a `rejoin` at an address. -/
def Warp.rejoinAt (w : Warp) (pc : Word) : Mask := w.which fun t => t.pc == pc && (match t.waits with | some (.rejoin _) => true | _ => false)

/-- R117: the threads that their masks release. -/
def Warp.rejoined (w : Warp) : Mask :=
  w.which fun t => match t.waits with | some (.rejoin m) => m &&& ~~~ (w.rejoinAt t.pc ||| w.gone) == 0 | _ => false

/-- The threads that have arrived at a `.m` instruction at an address. -/
def Warp.memberAt (w : Warp) (pc : Word) : Mask := w.which fun t => t.pc == pc && (match t.waits with | some (.member _ _) => true | _ => false)

/-- R195: the threads at an address whose members have all arrived. -/
def Warp.membersReady (w : Warp) (pc : Word) : Mask :=
  w.which fun t => t.pc == pc && (match t.waits with | some (.member m _) => m &&& ~~~ w.memberAt pc == 0 | _ => false)

/-- A quarter of a warp (R19). -/
def quarterMask (j : Nat) : Mask := 0xFF#32 <<< (8 * j)

/-- The quarter of a thread. -/
def quarterOf (i : Fin 32) : Nat := i.val / 8

/-- R196, R283: the waiting threads whose collective holds an exited thread. -/
def Warp.incomplete (w : Warp) : Mask :=
  maskOf fun i => match w.threads[i].waits with
    | some (.member m _) => m &&& w.gone != 0
    | some (.collective _) => quarterMask (quarterOf i) &&& w.gone != 0
    | _ => false

/-- R283: the threads of quarters whose threads all wait at collectives, at addresses that differ. -/
def Warp.crossed (w : Warp) : Mask :=
  let at_ := w.which fun t => match t.waits with | some (.collective _) => true | _ => false
  (List.range 4).foldl (fun m j =>
    let q := quarterMask j
    let live := q &&& ~~~ w.gone
    let same := match Mask.lowest live with
      | some i0 => (Mask.lanes live).all fun i => w.threads[i].pc == w.threads[i0].pc
      | none => true
    if live != 0 && live &&& ~~~ at_ == 0 && !same then m ||| live else m) 0

/-- A thread waits at a `rejoin` or a `.m` instruction, or, where `bars` says so, at a barrier. -/
def Thread.stuckAt (bars : Bool → Bool) (t : Thread) : Bool :=
  match t.waits with
  | some (.rejoin _) | some (.member _ _) => true
  | some (.bar crew _ _) => bars crew
  | _ => false

/-- R117, R196, R270: every non-exited thread of some warps waits, and there is one. -/
def deadlocked (bars : Bool → Bool) (ws : List (Nat × Warp)) : Bool :=
  ws.any (fun e => e.2.gone != BitVec.allOnes 32) && ws.all fun e => (e.2.which fun t => t.isExited || t.stuckAt bars) == BitVec.allOnes 32

/-- The waiting threads of deadlocked warps take collective mismatch. -/
def State.breakDeadlock (s : State) (bars : Bool → Bool) (ws : List (Nat × Warp)) : State :=
  if deadlocked bars ws then ws.foldl (fun s e => s.parkWaiting e.1 0x0A (~~~ e.2.gone) 0 fun t => t.pc) s else s

/-- What follows an arrival or an exit in a warp: releases first, then the faults of what can no longer complete. -/
def State.settle (s : State) (wk : Nat) : State :=
  match s.warp? wk with
  | none => s
  | some w =>
    let s1 := s.parkWaiting wk 0x0B w.incomplete 0 fun t => t.pc
    let s2 := match s1.warp? wk with | some w1 => if w1.rejoined = 0 then s1 else s1.release wk w1.rejoined | none => s1
    let s3 := match s2.warp? wk with | some w2 => s2.parkWaiting wk 0x0A w2.crossed 0 fun t => t.pc | none => s2
    let s4 := match s3.warp? wk with | some w3 => s3.breakDeadlock (fun _ => false) [(wk, w3)] | none => s3
    let s5 := s4.breakDeadlock (fun crew => !crew) (s4.warpsIn (s4.barrierGroups w.gid false))
    s5.breakDeadlock (fun _ => true) (s5.warpsIn (s5.barrierGroups w.gid true))

/-! ### Steps and launches -/

/-- A launch has dual execution (R392). -/
def Launch.dual (l : Launch) : Bool := l.kern.cls == 2 && decide (l.groups ≤ 32) && Config.caps.getLsbD 3

/-- R388: threads of a counted group, named by its index, exit. -/
def Launch.exitStep (l : Launch) (index k : Nat) : Launch :=
  match l.stepCount with
  | some (n, true) =>
    if l.hasArrived ∨ !(l.counted.contains index) then l
    else { l with stepCount := some (n - k, true), hasArrived := decide (n - k ≤ l.arrived) && l.stepping }
  | _ => l

/-- R388: the last group of a launch has retired: it stops stepping. -/
def Launch.stopStep (l : Launch) : Launch :=
  if l.retired < l.groups then l else { l with stepping := false, stepCount := none, hasArrived := false, arrived := 0 }

/-- The `stage.get` instructions at which threads of a warp wait: address, destination and threads. -/
def Warp.stageGets (w : Warp) : List (Word × BitVec 6 × Mask) :=
  let at_ := (Mask.lanes (w.which fun _ => true)).filterMap fun i => match w.threads[i].waits with
    | some (.stage true d _ _) => some (w.threads[i].pc, d)
    | _ => none
  at_.eraseDups.map fun e => (e.1, e.2, w.which fun t => t.pc == e.1 && (match t.waits with | some (.stage true d _ _) => d == e.2 | _ => false))

/-- R369, R379: a pipeline queue is empty and its producer has retired: its waiting consumers receive 0. -/
def State.endStream (s : State) (q : Nat) : State :=
  match Sparse.find s.sched.stageQs q with
  | none => s
  | some sq =>
    let ended := sq.count == 0 && (match s.launch? sq.launch with | some l => decide (l.groups ≤ l.retired) | none => true)
    if !ended then s
    else
      s.warps.foldl (fun s1 e =>
        let mine := match s.launchOf e.2 with | some l => l.inQueue == some q | none => false
        if !mine then s1
        else e.2.stageGets.foldl (fun s2 g => (s2.writeVec e.1 g.2.1 g.2.2 0 fun _ => 0).release e.1 g.2.2) s1) s

/-- R385: room has come free in a staging or atomic buffer: the threads that wait for it try again. -/
def State.wakeBuffer (s : State) : State :=
  s.warps.foldl (fun s e =>
    let m := e.2.which fun t => match t.waits with | some (.buffer _) => true | _ => false
    if m = 0 then s else s.release e.1 m) s

/-- R292: the streams of an owner are unbound, and what still names them is withdrawn. -/
def State.unbindOwner (s : State) (launch copy crew : Nat) : State :=
  { s with gantries := s.gantries.map fun e =>
      let mine := (e.2.streams.filter fun q => q.2.launch == launch && q.2.copy == copy && q.2.crew == crew).map (·.1)
      (e.1, { e.2 with streams := e.2.streams.filter fun q => !(mine.contains q.1)
                       table := e.2.table.filter fun m => !(mine.contains m.sa || mine.contains m.sb) }) }

/-- R292: an owner retires with the last of its groups. -/
def State.unbindStreams (s : State) (gid : Nat) : State :=
  match s.group? gid with
  | none => s
  | some g =>
    match s.launch? g.launch with
    | none => s
    | some l =>
      if (s.barrierGroups gid true).all fun i => match s.group? i with | some q => q.mode == .retired || q.mode == .discarded | none => true
      then s.unbindOwner g.launch g.copy (crewNumber l g) else s

/-- R393: a group of a strict launch, under sampled re-execution, is sampled; one that executes `step` never is. -/
def State.samples (s : State) (l : Launch) (g : Group) : Bool :=
  g.copy == 0 && l.kern.cls == 2 && !l.dual && s.steps.sample && !g.stepped && rngBlock (s.steps.seed ^^^ l.ident).toNat g.index % 2 ^ 10 == 0

/-- A group has retired (R107). -/
def State.retireGroup (s : State) (gid : Nat) : State :=
  match s.group? gid with
  | none => s
  | some g =>
    let s1 := (s.modGroup gid fun g => { g with mode := .retired }).unbindStreams gid
    let s2 := s1.modLaunch g.launch fun l =>
      ({ l with retired := l.retired + 1, runtimes := ((s.ns - g.since) :: l.runtimes).take 64
                resumes := if s.samples l g then l.resumes ++ [g.index] else l.resumes }).stopStep
    let s3 := ((s2.dropArea g.privPa).sluiceRetire gid).wakeBuffer
    match s3.launch? g.launch with
    | some l => match l.outQueue with | some q => if g.copy = 0 then s3.endStream q else s3 | none => s3
    | none => s3

/-! ### Warps -/

/-- R71: entries that name a register which no warp of the core maps any more are killed. -/
def State.dropNames (s : State) (core : Nat) (old : List VecReg) : State :=
  let live := s.liveRegs core
  let dead := old.filterMap fun r => match r.name with
    | .named n => if n = 0 ∨ (live.any fun q => q.name == .named n) then none else some n
    | .unnamed _ => none
  if dead = [] then s
  else s.modCore core fun k =>
    { k with reuse := k.reuse.filter fun e =>
        !(e.names.any fun n => dead.contains n) && (match e.result with | some r => !(dead.any fun n => r.name == .named n) | none => true) }

/-- R107: a warp retires: its registers, cells and slot are free, and its group retires with its last warp. -/
def State.retireWarp (s : State) (wk : Nat) : State :=
  match s.warp? wk with
  | none => s
  | some w =>
    let s1 := ({ s with warps := Sparse.erase s.warps wk }).dropNames (wkCore wk) w.regs.toList
    let s2 := s1.modGroup w.gid fun g => { g with warpsLeft := g.warpsLeft - 1 }
    match s2.group? w.gid with
    | some g => if g.warpsLeft = 0 then s2.retireGroup w.gid else s2
    | none => s2

/-- R108: a thread of a warp that restarts. -/
def Thread.restart (t : Thread) (pc : Word) : Thread :=
  { Thread.start pc with nearH := t.nearH, farH := t.farH, acqH := t.acqH, seqNo := t.seqNo, epoch := t.epoch, lastTime := t.lastTime }

/-- R108: a warp restarts at a target with the registers of a keep mask. -/
def Warp.restart (w : Warp) (pc keep : Word) : Warp :=
  { w with regs := Vector.ofFn fun i => if keep.getLsbD i then w.regs[i] else VecReg.null
           guards := Vector.replicate 16 0
           threads := Vector.ofFn fun i => w.threads[i].restart pc
           tmr := 0, handler := 0, stopped := 0 }

/-- R108, R109: the last thread of a warp has exited. -/
def State.finishWarp (s : State) (wk : Nat) : State :=
  match s.warp? wk with
  | none => s
  | some w =>
    if w.gone ≠ BitVec.allOnes 32 then s
    else
      let by_ := w.which fun t => t.exitTo.isSome
      match w.doomed, Mask.lowest by_ with
      | true, _ => s.retireWarp wk
      | false, none => s.retireWarp wk
      | false, some i0 =>
        let t0 := w.threads[i0]
        let differ := by_ &&& w.which fun t => t.exitTo != t0.exitTo
        if differ = 0 then
          match t0.exitTo with
          | some (pc, keep) => (s.setWarp wk (w.restart pc keep)).dropNames (wkCore wk) w.regs.toList
          | none => s
        else
          (s.modWarp wk fun w => { (w.modThreads (BitVec.allOnes 32) fun i t =>
              t.take { cause := 0x0A, pc := t.exitPc, mask := differ } w.widx i s.ns t0.exitPc t.exitPc) with doomed := true }).noteRecords wk (BitVec.allOnes 32)

/-- R107, R404: threads exit, for a successor target or not. -/
def State.exitThreads (s : State) (wk : Nat) (m : Mask) (target : Option (Word × Word)) : State :=
  match s.warp? wk with
  | none => s
  | some w =>
    if m = 0 then s
    else
      let s1 := s.modWarp wk fun w =>
        (w.modThreads m fun _ t => { t with st := .exited, privl := false, tcause := 0, frec := none, exitPc := t.pc
                                            exitTo := if w.doomed then t.exitTo else target }).leftHandler m
      let k := if w.doomed then 0 else Mask.count m
      let at_ := match s.group? w.gid with | some g => (g.launch, g.index) | none => (0, 0)
      let s2 := (s1.exitBarriers w.gid k).modLaunch at_.1 fun l => l.exitStep at_.2 k
      (s2.settle wk).finishWarp wk

end Sys2Proof.Machine
end

