-- ==== Sys2Proof/Machine/Narrow.lean ====
section
/-! DEFINITION. Narrow and scaled formats (spec 07, R163 to R179): decoding, the single rounding that encodes, MX blocks, QC4
superblocks, rows in their packed layout (R298), and page values (R176). -/

namespace Sys2Proof.Machine

/-- A value that a narrow format decodes to (R165): no NaN payload; `sig` marks a signalling NaN of BF16, FP16 or FP32 (R228). -/
inductive NVal where
  | fin (x : Exact)
  | inf (neg : Bool)
  | nan (sig : Bool)
  deriving DecidableEq, Repr

/-- R164: the fields of the floating formats, by operand format code. -/
def codeFmt (code : Nat) : FFmt :=
  match code with
  | 0 => bf16 | 1 => fp16 | 2 => f32
  | 3 => { eb := 4, fb := 3 } | 4 => { eb := 5, fb := 2 } | 5 => { eb := 2, fb := 3 } | 6 => { eb := 3, fb := 2 }
  | _ => { eb := 2, fb := 1 }

/-- R163: element bits. -/
def codeBits (code : Nat) : Nat :=
  match code with | 0 => 16 | 1 => 16 | 2 => 32 | 3 => 8 | 4 => 8 | 5 => 6 | 6 => 6 | 7 => 4 | 8 => 8 | _ => 4

def codeHasInf (code : Nat) : Bool := code == 0 || code == 1 || code == 2 || code == 4
def codeHasNan (code : Nat) : Bool := decide (code ≤ 4)

/-- R164: the magnitude bits of the largest finite value, and of the canonical NaN. -/
def codeLargest (code : Nat) : Nat := match code with | 3 => 0x7E | 5 => 0x1F | 6 => 0x1F | 7 => 0x7 | _ => (codeFmt code).largest false
def codeNan (code : Nat) : Nat := match code with | 3 => 0x7F | 4 => 0x7F | _ => (codeFmt code).canon

def codeIsMx (code : Nat) : Bool := code == 5 || code == 6 || code == 7

/-- An integer as an exact value. -/
def exactInt (i : Int) : Exact := { neg := decide (i < 0), m := i.natAbs, e := 0 }

/-- R165: decode(b, F). -/
def decodeNarrow (code b : Nat) : NVal :=
  let f := codeFmt code
  if code = 8 then .fin (exactInt (toSigned 8 b))
  else if code = 3 then (if f.mag b = 0x7F then .nan false else .fin (f.val b))
  else if 5 ≤ code then .fin (f.val b)
  else if f.isNan b then .nan (code != 4 && f.isSnan b)
  else if f.isInf b then .inf (f.sign b)
  else .fin (f.val b)

/-- A value times a power of two. -/
def Exact.scale (x : Exact) (k : Int) : Exact := { x with e := x.e + k }

def NVal.scale (v : NVal) (k : Int) : NVal := match v with | .fin x => .fin (x.scale k) | v => v

/-- R170: narrow(x, F, sm), with its conditions in %fsr positions. -/
def narrowFlt (code : Nat) (sm : Bool) (v : NVal) : Nat × BitVec 5 :=
  let f := codeFmt code
  match v with
  | .nan _ => if codeHasNan code then (codeNan code, 0) else (0, flagNV)
  | .inf neg =>
    if codeHasInf code && !sm then (f.inf neg, 0)
    else if code = 3 && !sm then (codeNan code, flagOF)
    else (f.signed neg (codeLargest code), flagOF)
  | .fin x =>
    if x.m = 0 then (f.signed x.neg 0, 0)
    else
      let lsb := max (x.e + (Nat.log2 x.m : Int) - f.fb) (f.emin - f.fb)
      let u := roundAt 0 x lsb
      let mag := ((lsb + f.fb + f.bias).toNat - 1) * 2 ^ f.fb + u.1
      let nx := flagIf u.2 flagNX
      if mag ≤ codeLargest code then (f.signed x.neg mag, nx)
      else if sm || !(codeHasNan code) then (f.signed x.neg (codeLargest code), nx ||| flagOF)
      else if codeHasInf code then (f.inf x.neg, nx ||| flagOF)
      else (codeNan code, nx ||| flagOF)

/-- R171: narrow(x, INT8, sm). -/
def narrowInt8 (v : NVal) : Nat × BitVec 5 :=
  match v with
  | .nan _ => (0, flagNV)
  | .inf neg => (if neg then 0x80 else 0x7F, flagOF)
  | .fin x =>
    let u := roundAt 0 x 0
    let i : Int := if x.neg then -(u.1 : Int) else (u.1 : Int)
    let y := max (-128) (min i 127)
    (wrap 8 y, flagIf u.2 flagNX ||| flagIf (y != i) flagOF)

def narrow (code : Nat) (sm : Bool) (v : NVal) : Nat × BitVec 5 := if code = 8 then narrowInt8 v else narrowFlt code sm v

/-- A value of the operand path delivered to a format of R139 (R228): with NV for a signalling NaN. -/
def NVal.deliver (v : NVal) (f : FFmt) (mode : Nat) (ftz : Bool) : Nat × BitVec 5 :=
  match v with
  | .nan sig => (f.canon, flagIf sig flagNV)
  | .inf neg => (f.inf neg, 0)
  | .fin x => Sys2Proof.Machine.deliver f mode ftz x

/-- An element of a format of R139 as a value. -/
def FFmt.toVal (f : FFmt) (b : Nat) : NVal := if f.isNan b then .nan (f.isSnan b) else if f.isInf b then .inf (f.sign b) else .fin (f.val b)

/-- The magnitude of a finite value against another: x < y. -/
def Exact.ltMag (x y : Exact) : Bool :=
  let e := min x.e y.e
  decide (x.m * 2 ^ (x.e - e).toNat < y.m * 2 ^ (y.e - e).toNat)

/-- The largest magnitude among finite values, or 0. -/
def amax (vs : List NVal) : Exact :=
  vs.foldl (fun a v => match v with | .fin x => if a.ltMag x then { x with neg := false } else a | _ => a) { neg := false, m := 0, e := 0 }

/-- sat(i, lo, hi) of R5. -/
def satInt (i lo hi : Int) : Int := max lo (min i hi)

/-! ### MX blocks (R167, R172) -/

/-- R167: the values of a block, from its scale byte and elements. -/
def mxDecode (code scale : Nat) (bs : List Nat) : List NVal :=
  bs.map fun b => if scale = 0xFF then .nan false else (decodeNarrow code b).scale ((scale : Int) - 127)

/-- R172: emax of an element format. -/
def mxEmax (code : Nat) : Int := if code = 6 then 4 else 2

/-- R172: mxencode: the scale byte, the elements and the conditions. -/
def mxEncode (code : Nat) (xs : List NVal) : Nat × List Nat × BitVec 5 :=
  if xs.any (fun v => match v with | .nan _ => true | _ => false) then (0xFF, xs.map fun _ => 0, flagNV)
  else
    let a := amax xs
    let ex : Int := if a.m = 0 then 0 else satInt (a.log2 - mxEmax code) (-127) 127
    let rs := xs.map fun v => narrowFlt code true (v.scale (-ex))
    ((ex + 127).toNat, rs.map (·.1), rs.foldl (fun c r => c ||| r.2) 0)

/-- Elements of `w` bits in a number, the first lowest. -/
def digits (w n : Nat) : Nat → List Nat
  | 0 => []
  | k + 1 => n % 2 ^ w :: digits w (n / 2 ^ w) k

/-! ### QC4 superblocks (R168, R169, R173) -/

/-- R168: the levels, as BF16. -/
def qc4Level (q : Nat) : Exact :=
  bf16.val ([0xBF80, 0xBF38, 0xBF08, 0xBED0, 0xBE98, 0xBE48, 0xBDC8, 0x0000, 0x3DB8, 0x3E30, 0x3E84, 0x3EB0, 0x3EE4, 0x3F12, 0x3F3C, 0x3F80].getD q 0)

/-- R169: the value of an element under a block's scale code and the superblock scale. A zero has the sign of the exact product's factors
(DESIGN CHOICE, log entry 101). -/
def qc4Value (q c s : Nat) : NVal :=
  if f32.sign s || f32.isNan s || f32.isInf s then .nan false
  else .fin (((qc4Level q).mul (f32.val s)).mul { neg := false, m := c, e := -8 })

/-- R169: the values of a superblock image. -/
def qc4Decode (img : List Byte) : List NVal :=
  let s := natOfBytes ((img.drop 0x84).take 4)
  (List.range 256).map fun i =>
    let b := (img.getD (i / 2) 0).toNat
    qc4Value (if i % 2 = 0 then b % 16 else b / 16) (img.getD (0x80 + i / 64) 0).toNat s

/-- The distance of two exact values, as a number of units of 2^e. -/
def Exact.dist (x y : Exact) (e : Int) : Nat := (x.units e - y.units e).natAbs

/-- R173: the code whose level times b is nearest x, the smaller magnitude on a tie. -/
def qc4Nearest (x b : Exact) : Nat :=
  let e := min x.e (b.e - 40)
  ([7, 6, 8, 5, 9, 4, 10, 3, 11, 2, 12, 1, 13, 14, 0, 15].foldl (fun (best : Nat × Nat) q =>
    let d := x.dist ((qc4Level q).mul b) e
    if d < best.2 then (q, d) else best) (7, x.dist { neg := false, m := 0, e := 0 } e)).1

/-- Ceiling of a quotient. -/
def ceilDiv (a b : Nat) : Nat := (a + b - 1) / b

/-- R173: ceil(m · 256 / S) for positive S. -/
def qc4Scale (m s : Exact) : Nat :=
  let e := min m.e s.e
  min 255 (ceilDiv (m.m * 2 ^ (m.e - e).toNat * 256) (s.m * 2 ^ (s.e - e).toNat))

/-- R173: qc4encode: the superblock image and the conditions. -/
def qc4Encode (xs : List NVal) : List Byte × BitVec 5 :=
  let ms := (List.range 4).map fun j => amax ((xs.drop (64 * j)).take 64)
  let top := amax xs
  let s0 := Sys2Proof.Machine.deliver f32 2 false (exactDiv 40 { top with m := top.m * 256 } { neg := false, m := 255, e := 0 })
  let over_ := top.m != 0 && f32.isInf s0.1
  let s := if top.m = 0 then 0 else if over_ then f32.largest false else s0.1
  let cs := ms.map fun m => if top.m = 0 ∨ m.m = 0 then 0 else qc4Scale m (f32.val s)
  let rs := (List.range 256).map fun i =>
    let c := cs.getD (i / 64) 0
    match xs.getD i (.nan false) with
    | .nan _ => (7, flagNV)
    | .inf neg => (if neg then 0 else 15, flagOF)
    | .fin x =>
      let b := (f32.val s).mul { neg := false, m := c, e := -8 }
      let q := if b.m = 0 then 7 else qc4Nearest x b
      let back := (qc4Level q).mul b
      (q, flagIf (x.dist back (min x.e back.e) != 0) flagNX)
  ((List.range 128).map (fun k => BitVec.ofNat 8 ((rs.getD (2 * k) (7, 0)).1 + 16 * (rs.getD (2 * k + 1) (7, 0)).1))
      ++ cs.map (BitVec.ofNat 8) ++ bytesOfNat 4 s,
    rs.foldl (fun c r => c ||| r.2) (flagIf over_ flagOF))

/-! ### Rows (R298, R299) -/

/-- The bytes of a row of `n` elements. -/
def rowBytes (code n : Nat) : Nat :=
  match code with
  | 5 => n / 32 * 25 | 6 => n / 32 * 25 | 7 => n / 32 * 17 | 9 => n / 256 * 136
  | _ => n * (codeBits code / 8)

/-- The bytes of successive pieces. -/
def chunks (k : Nat) (bs : List Byte) : Nat → List (List Byte)
  | 0 => []
  | n + 1 => bs.take k :: chunks k (bs.drop k) n

/-- Successive pieces of a list of values. -/
def valChunks (k : Nat) (vs : List NVal) : Nat → List (List NVal)
  | 0 => []
  | n + 1 => vs.take k :: valChunks k (vs.drop k) n

/-- R298: the values of a row of `n` elements in the packed layout, with the scales of MX blocks in it (DEDUCED, log entry 105). -/
def rowDecode (code n : Nat) (bs : List Byte) : List NVal :=
  if codeIsMx code then
    let k := 4 * codeBits code
    (chunks (k + 1) bs (n / 32)).flatMap fun c => mxDecode code (c.getD k 0).toNat (digits (codeBits code) (natOfBytes (c.take k)) 32)
  else if code = 9 then (chunks 136 bs (n / 256)).flatMap qc4Decode
  else (chunks (codeBits code / 8) bs n).map fun c => decodeNarrow code (natOfBytes c)

/-- A row of values encoded, with its conditions. -/
def rowEncode (code : Nat) (sm : Bool) (vs : List NVal) : List Byte × BitVec 5 :=
  if codeIsMx code then
    let k := 4 * codeBits code
    let rs := (valChunks 32 vs (vs.length / 32)).map fun b =>
      let r := mxEncode code b
      (bytesOfNat k (r.2.1.reverse.foldl (fun a d => a * 2 ^ codeBits code + d) 0) ++ bytesOfNat 1 r.1, r.2.2)
    (rs.flatMap (·.1), rs.foldl (fun c r => c ||| r.2) 0)
  else if code = 9 then
    let rs := (valChunks 256 vs (vs.length / 256)).map qc4Encode
    (rs.flatMap (·.1), rs.foldl (fun c r => c ||| r.2) 0)
  else
    let rs := vs.map (narrow code sm)
    (rs.flatMap fun r => bytesOfNat (codeBits code / 8) r.1, rs.foldl (fun c r => c ||| r.2) 0)

/-- R299: a row converted: copied bit for bit where the formats are equal. -/
def rowConvert (fs fd n : Nat) (sm : Bool) (bs : List Byte) : List Byte × BitVec 5 :=
  if fs = fd then (bs.take (rowBytes fs n), 0) else rowEncode fd sm (rowDecode fs n bs)

/-! ### Page values (R175, R176) -/

/-- R176: pgdecode of one stored element: BF16 bits, from the element, and the page exponent or block scale. -/
def pgDecode (fmt : Nat) (scale : Int) (b : Nat) : Nat :=
  match fmt with
  | 0 => b
  | 1 => if b % 0x80 = 0x7F then 0x7FC0 else ((decodeNarrow 3 b).scale scale).deliver bf16 0 false |>.1
  | _ => if scale = 255 then 0x7FC0 else ((decodeNarrow (if fmt = 2 then 5 else 7) b).scale (scale - 127)).deliver bf16 0 false |>.1

/-- R178: the page exponent of values, and a value under it. -/
def e4m3PageExp (vs : List NVal) : Int :=
  let a := amax vs
  if a.m = 0 then 0 else satInt (a.log2 - 8) (-128) 127

def e4m3PageElem (e : Int) (v : NVal) : Nat :=
  match v with
  | .nan _ => 0x7F
  | v => (narrowFlt 3 true (v.scale (-e))).1

end Sys2Proof.Machine
end

