-- ==== Sys2Proof/Machine/Requests.lean ====
section
/-! DEFINITION. Requests to memory (spec 10, R212 to R219; 11, R252 to R259): where an access goes, the lines of the L1, the posting of
requests, and the conditions under which they are performed. -/

namespace Sys2Proof.Machine

/-- Where an access goes (R212): to physical memory, for the global, constant and private spaces, to a vault, or to the group's scratchpad. -/
inductive Place where
  | glob (t : Target) (pa : Nat)
  | vault (core off : Nat)
  | scratch (off : Nat)
  deriving DecidableEq, Repr

/-- R392: in a copy of a launch a vault address names the core that corresponds to the primary's core. -/
def State.vaultCore (s : State) (w : Warp) (core : Nat) : Nat :=
  match s.groupOf w with
  | none => core
  | some g =>
    if g.copy = 0 ∨ 4 ≤ g.copy then core
    else
      match s.groups.find? fun e => e.2.launch == g.launch % 2 ^ 64 && e.2.core == core with
      | none => core
      | some (_, p) => match s.groups.find? fun e => e.2.launch == g.launch && e.2.index == p.index with | some (_, q) => q.core | none => core

/-- An address behind a translation, as a place. -/
def placeOf (r : Except Nat (Target × Nat)) : Except Nat Place :=
  match r with
  | .ok (t, pa) => .ok (.glob t pa)
  | .error c => .error c

/-- R212 to R214: the place of an access of `n` bytes of a lane with an alignment, or the cause of its fault (DEDUCED, log entry 48). -/
def State.place (s : State) (w : Warp) (lane space : Nat) (va : Word) (n al : Nat) (p : Perm) : Except Nat Place :=
  if va.toNat % al ≠ 0 then .error 0x03
  else
    match space with
    | 0 => placeOf (s.resolve va p)
    | 1 =>
      if 2 ^ 32 ≤ va.toNat then .error 0x04
      else if Config.vaultBytes < va.toNat % 2 ^ 25 + n then .error 0x05
      else .ok (.vault (s.vaultCore w (va.toNat / 2 ^ 25)) (va.toNat % 2 ^ 25))
    | 2 => if (match s.launchOf w with | some l => l.kern.scratch | none => 0) < va.toNat + n then .error 0x05 else .ok (.scratch va.toNat)
    | 3 => placeOf (s.constPlace w va.toNat n)
    | _ => placeOf (s.privPlace w lane va.toNat n)

/-- R230, R289: a run of bytes that lies in one space: every 16 bytes of it has a place. The first fault gives cause and address. -/
def State.rangeFault (s : State) (w : Warp) (lane space : Nat) (va : Word) (p : Perm) : Nat → Option (Nat × Word)
  | 0 => none
  | n + 1 =>
    match s.place w lane space va 1 1 p with
    | .error c => some (c, va)
    | .ok _ => s.rangeFault w lane space (va + 16) p n

/-- The first fault of `n` bytes from an address: at the address itself, at a later multiple of 16, or at the last byte. -/
def State.spanFault (s : State) (w : Warp) (lane space : Nat) (va : Word) (p : Perm) (n : Nat) : Option (Nat × Word) :=
  match s.rangeFault w lane space va p 1 with
  | some e => some e
  | none =>
    let lo := va.toNat % 16
    match s.rangeFault w lane space (va + BitVec.ofNat 64 (16 - lo)) p ((lo + n + 15) / 16 - 1) with
    | some e => some e
    | none => s.rangeFault w lane space (va + BitVec.ofNat 64 (n - 1)) p 1

/-- R226, R228: a load's bytes as a thread value. -/
def convOut (conv : LoadConv) (mode : Nat) (bs : List Byte) : LaneOut :=
  match conv with
  | .zx => plain (BitVec.ofNat 64 (natOfBytes bs))
  | .sx => plain (BitVec.ofInt 64 (toSigned (8 * bs.length) (natOfBytes bs)))
  | .mx fmt ty =>
    let n := 64 / tyWidth ty
    let rs := (chunks (codeBits fmt / 8) bs n).map fun c =>
      (decodeNarrow fmt (natOfBytes c)).deliver (tyFmt ty) (mode % 8) (decide (8 ≤ mode))
    .value (ofElems (tyWidth ty) (rs.map (·.1))) false (rs.foldl (fun f r => f ||| r.2) 0) 0
  | .reg => plain 0

/-- What a thread's modes are for a converting load: its rounding mode, and 8 where it flushes. -/
def Thread.loadMode (t : Thread) (x : Ext) : Nat := t.rounding x.rm + if fsrFtz t.fsr && (x.ty == 10 || x.ty == 11) then 8 else 0

/-! ### Lines and the L1 (R215, R218, R259) -/

/-- The key of a vault's line, for the reuse table. -/
def vaultLine (core off : Nat) : Nat := 32 * 2 ^ 64 + core * 2 ^ 32 + off / 128

/-- The line keys that an access touches. -/
def Request.accLines (r : Request) (a : Access) : List Nat :=
  let first := a.pa / 128
  (List.range ((a.pa + a.n - 1) / 128 - first + 1)).map fun k =>
    if r.space = 1 then vaultLine r.unit (128 * (first + k)) else r.tgt.code * 2 ^ 64 + first + k

def Request.lines (r : Request) : List Nat := r.accs.flatMap r.accLines

/-- Load-reuse entries that depend on a line are killed (R76). -/
def Core.killLines (k : Core) (keys : List Nat) : Core := { k with reuse := k.reuse.filter fun e => !(e.lines.any fun l => keys.contains l.1) }

/-- A function on the results that are outstanding in a core's warps. -/
def State.modPends (s : State) (core : Nat) (f : Pending → Pending) : State :=
  { s with warps := s.warps.map fun (e : Nat × Warp) => (e.1, if wkCore e.1 == core && !e.2.pend.isEmpty then { e.2 with pend := e.2.pend.map f } else e.2) }

/-- R76: an outstanding load makes no entry any more. -/
def Pending.unkey (p : Pending) (dead : Bool) : Pending := if dead then { p with key := none } else p

/-- R76: the entries of a core that depend on some lines are killed, and so are those that its outstanding loads would make. -/
def State.killReuse (s : State) (core : Nat) (keys : List Nat) : State :=
  (s.modCore core fun k => k.killLines keys).modPends core fun p => p.unkey (p.lines.any fun l => keys.contains l.key)

/-- The core's L1 drops its copies of lines, and with them their reuse entries. -/
def State.dropLines (s : State) (core : Nat) (keys : List Nat) : State :=
  if keys = [] then s
  else (s.killReuse core keys).modCore core fun k => { k with l1 := k.l1.filter fun l => !(keys.contains l.line) }

/-- R76, R259: fills of lines that the core has written to since are not allocated, and the loads that await them make no entry. -/
def State.barFills (s : State) (core : Nat) (keys : List Nat) : State :=
  let hit := fun (r : Request) => r.core == core && r.space ≤ 1 && r.lines.any fun l => keys.contains l
  if !(s.mem.reqs.any hit) then s
  else
    let s1 := s.modPends core fun p => p.unkey (s.mem.reqs.any fun r => hit r && r.pend == some p.id)
    { s1 with mem := { s1.mem with reqs := s1.mem.reqs.map fun r => if hit r then { r with noAlloc := true } else r } }

/-- R246: a read that a later write precedes has come: what was read from the line before that write may be entered or hit no more. -/
def State.killStale (s : State) (core key no : Nat) : State :=
  match Sparse.find s.mem.wrote key with
  | none => s
  | some n =>
    let old := fun (k m : Nat) => k == key && decide (m < no) && decide (m < n)
    let back := fun (r : Request) => r.core == core && r.space == 0 && match r.stage with | .performed _ _ _ _ m => r.lines.any fun k => old k m | _ => false
    (s.modCore core fun k => { k with reuse := k.reuse.filter fun e => !(e.lines.any fun l => old l.1 l.2) }).modPends core fun p =>
      p.unkey (p.lines.any (fun l => old l.key l.no) || s.mem.reqs.any fun r => r.pend == some p.id && back r)

/-- The groups that a core holds. -/
def State.groupsOn (s : State) (core : Nat) : List Group :=
  (s.groups.filter fun e => e.2.core == core && (match e.2.mode with | .resident | .saving _ | .draining => true | _ => false)).map (·.2)

/-- R14: the cell pool of a core: the quotas and reserves of the groups that it holds. -/
def State.cellPool (s : State) (core : Nat) : Nat := ((s.groupsOn core).map (·.cells)).sum

/-- R14: the 16 KiB units that some cells and some bytes of scratchpad take. -/
def cellUnits (cells : Nat) : Nat := (cells + 2047) / 2048
def scratchUnits (bytes : Nat) : Nat := (bytes + 16383) / 16384

/-- R14: the units that the scratchpads of a core take. -/
def State.scratchHeld (s : State) (core : Nat) : Nat :=
  ((s.groupsOn core).map fun g => match s.launch? g.launch with | some l => scratchUnits l.kern.scratch | none => 0).sum

/-- R14, R15: the units that are left to the L1: its ways. -/
def State.l1Ways (s : State) (core : Nat) : Nat := Config.storeUnits - cellUnits (s.cellPool core) - s.scratchHeld core

/-- R15: the set of a line. -/
def l1Set (key : Nat) : Nat := key % 128

/-- R15: an outstanding load loses what lines gave it that the L1 holds no more, as far as it has not been written yet: the part that remains,
and the requests that it makes instead. Words of a record are asked for again when the read goes on (R231). -/
def Pending.retake (p : Pending) (gone : List Nat) : Pending × List Request :=
  let cut := fun (r : Request) => { r with accs := r.accs.filter fun (a : Access) => (maskOf fun i => i.val == a.lane) &&& p.left != 0 }
  let mine := fun (r : Request) => r.lines.any fun l => gone.contains l
  let lost := ((p.hits.filter mine).map cut).filter fun r => r.accs != []
  let p1 := { p with outs := (lost.flatMap (·.accs)).foldl (fun m a => Sparse.erase m a.lane) p.outs
                     hits := p.hits.filter fun r => !(mine r), lines := p.lines.filter fun l => !(gone.contains l.key) }
  match p.ldc with
  | some r =>
    let again := r.served.filter fun e => gone.contains e.2
    if again = [] ∨ p.left ≠ p.act ∨ (p.outs ≠ [] ∧ p.form.isNone) then (p1, lost)
    else ({ p1 with outs := [], form := none, ldc := some { r with words := again.foldl (fun m e => Sparse.erase m e.1) r.words
                                                                   served := r.served.filter fun e => !(gone.contains e.2) } }, lost)
  | none => (p1, lost)

/-- R15: units have left the L1: their lines are lost, and the reuse entries that depend on them; loads outstanding to them complete from
the home slice. -/
def State.trimL1 (s : State) (core : Nat) : State :=
  let gone := (((s.coreOf core).l1).filter fun l => decide (s.l1Ways core ≤ l.way)).map (·.line)
  if gone = [] then s
  else
    let lost := (s.warpsOn core).flatMap fun e => e.2.pend.flatMap fun p => (p.retake gone).2
    let s1 := (s.dropLines core gone).modPends core fun p => (p.retake gone).1
    { s1 with mem := { s1.mem with reqs := s1.mem.reqs ++ lost } }

/-- R218: the line of a set that a replacement takes: the least recently used of the lowest priority. `ls` has the latest used first. -/
def l1Victim (ls : List L1Line) : Option L1Line :=
  match (ls.filter fun l => l.prio == .evictFirst).getLast? with
  | some l => some l
  | none => match (ls.filter fun l => l.prio == .normal).getLast? with | some l => some l | none => ls.getLast?

/-- R15, R218: the way that a line takes, any free one (DESIGN CHOICE, log entry 9), or that of the victim, with the lines that stay. -/
def Core.makeWay (k : Core) (key ways choice : Nat) : Nat × List L1Line :=
  let others := k.l1.filter fun l => l.line != key
  let here := others.filter fun l => l1Set l.line == l1Set key
  if here.length < ways then
    let free := (List.range ways).filter fun n => !(here.any fun l => l.way == n)
    (free.getD (choice % free.length) 0, others)
  else
    match l1Victim here with
    | some v => (v.way, others.filter fun l => l.line != v.line)
    | none => (0, others)

/-- R246: reads of a line that were performed before a given one do not enter the L1 after it. -/
def State.barOlder (s0 : State) (core key no : Nat) : State :=
  let s := s0.killStale core key no
  { s with mem := { s.mem with reqs := s.mem.reqs.map fun r =>
      match r.stage with
      | .performed _ _ _ _ n => if r.core == core && r.space == 0 && decide (n < no) && r.lines.contains key then { r with noAlloc := true } else r
      | _ => r } }

/-- A line of the L1 that a load may be served from: leased, and with no request of the core on its way to it. -/
def State.l1Hit (s : State) (core key : Nat) : Option L1Line :=
  match (s.coreOf core).l1.find? fun l => l.line == key with
  | some l => if s.ns < l.lease && !(s.mem.reqs.any fun r => r.core == core && r.space == 0 && r.lines.contains key) then some l else none
  | none => none

/-- R240, R254: the latest of the release times that a line came with for the locations of some bytes. -/
def lineRel (rels : List Nat) (pa n : Nat) : Nat := (locsOf (pa % 128) n).foldl (fun m k => max m (rels.getD k 0)) 0

/-- R218: an L1 line is used: it becomes the most recently used and takes the access's hint. -/
def Core.useLine (k : Core) (key hint : Nat) : Core :=
  { k with l1 := (k.l1.filter fun l => l.line == key).map (fun l => { l with prio := LinePrio.after (some l.prio) hint }) ++ k.l1.filter fun l => l.line != key }

/-! ### Posting -/

/-- What tells the reads of watches apart as requests (R219): their instruction and their line. -/
def Watch.readKey (w : Watch) : List Nat := [w.gid, w.widx, w.pc.toNat, w.space, w.unit, w.tgt.code, w.pa / 128]

/-- The lines that watches read, each once for an instruction. -/
def watchLines (ws : List Watch) : Nat := ((ws.filter fun w => w.flt.isNone).map Watch.readKey).eraseDups.length

/-- What tells the requests of a `.sc` instruction apart, whose accesses stand each for itself: their issue and their line (R219). -/
def Request.singleKeys (r : Request) : List (List Nat) := r.accs.map fun a => [r.grp, r.space, r.unit, r.tgt.code, a.pa / 128]

/-- R219, R272, R310: the requests of a core that are outstanding, among them the reads that `waitv` threads have yet to make and the lines that
its engine operations touch. -/
def State.outstandingOn (s : State) (core : Nat) : Nat :=
  ((s.mem.reqs.map fun r => if r.core = core ∧ r.order ≠ 4 then r.weight else 0).sum)
    + (((s.mem.reqs.filter fun r => r.core == core && r.order == 4).flatMap Request.singleKeys).eraseDups).length
    + ((s.ops.map fun o => if o.core = core then o.busy else 0).sum)
    + watchLines (s.mem.watches.filter fun w => w.notified && w.slot.isNone && (match s.group? w.gid with | some g => g.core == core | none => false))

/-- R219: the core has room for some requests. -/
def State.roomFor (s : State) (core n : Nat) : Bool := decide (s.outstandingOn core + n ≤ Config.requestLimit)

/-- The line that an access lies in, as far as a request counts it (R219). -/
def lineOf (space unit : Nat) (t : Target) (a : Access) : Nat :=
  if space = 0 then lineKey t a.pa else if space = 1 then vaultLine unit a.pa else 64 * 2 ^ 64 + a.pa / 128

/-- An access with its destination: what posting makes requests of. -/
structure Sent where
  space : Nat
  unit  : Nat
  tgt   : Target
  acc   : Access

def Sent.key (e : Sent) : Nat := e.space * 2 ^ 96 + e.unit * 2 ^ 80 + lineOf e.space e.unit e.tgt e.acc

/-- One request for each access, counted once for each line. -/
def singleReqs (of : Sent → List Access → Request) : List Sent → List Nat → List Request
  | [], _ => []
  | e :: es, seen => { of e [e.acc] with weight := if seen.contains e.key then 0 else 1 } :: singleReqs of es (e.key :: seen)

/-- The requests of an issue: one for each line (R219), or one for each access of a `.sc` instruction, whose threads take tickets
one by one (R257). -/
def makeReqs (base : Request) (single : Bool) (es : List Sent) : List Request :=
  let of := fun (e : Sent) (as : List Access) => { base with space := e.space, unit := e.unit, tgt := e.tgt, accs := as, weight := 1 }
  if single then singleReqs of es []
  else ((es.map Sent.key).eraseDups).filterMap fun k =>
    match es.filter fun e => e.key == k with
    | [] => none
    | e :: rest => some (of e ((e :: rest).map (·.acc)))

/-- Requests get numbers and join those on their way. -/
def State.postReqs (s : State) (rs : List Request) : State :=
  let n := rs.length
  { s with fresh := s.fresh + n
           mem := { s.mem with reqs := s.mem.reqs ++ rs.mapIdx fun k r => { r with id := s.fresh + k, grp := s.fresh } } }

/-- The lines of some requests. -/
def weightOf (rs : List Request) : Nat := (rs.map (·.weight)).sum

/-- R219, R220: event 0x08 counts the requests sent to home slices, which host and peer memory do not have. -/
def State.countSent (s : State) (core : Nat) (rs : List Request) : State := s.count core 0x08 (weightOf (rs.filter fun r => r.space == 0 && r.tgt.homed))

/-- Event 0x08 for lines that are not counted as requests of an issue (R310): those that have a home slice. -/
def State.countLines (s : State) (core : Nat) (keys : List Nat) : State :=
  s.count core 0x08 (keys.filter fun k => decide (k / 2 ^ 64 = 0 ∨ k / 2 ^ 64 = 1)).length

/-! ### Conditions -/

def State.req? (s : State) (id : Nat) : Option Request := s.mem.reqs.find? fun r => r.id == id

def State.setReq (s : State) (id : Nat) (f : Request → Request) : State :=
  { s with mem := { s.mem with reqs := s.mem.reqs.map fun r => if r.id == id then f r else r } }

def State.dropReq (s : State) (id : Nat) : State := { s with mem := { s.mem with reqs := s.mem.reqs.filter fun r => r.id != id } }

/-- R215, R217: requests on one path arrive in order: of one core to one line, of one core to one vault, of one warp to its
scratchpad. -/
def Request.samePath (q r : Request) : Bool :=
  q.space == r.space && q.core == r.core &&
  match r.space with
  | 0 => q.lines.any fun l => r.lines.contains l
  | 1 => q.unit == r.unit
  | _ => q.gid == r.gid && q.widx == r.widx

/-- Every request that is ahead on the path has been performed. An atomic that waits until its group is the frontier group (R383) has not
entered the path: it is ahead of its own group's requests only. -/
def State.pathClear (s : State) (r : Request) : Bool :=
  s.mem.reqs.all fun q => !(decide (q.id < r.id) && q.stage == .posted && q.samePath r && (!q.frontier || q.gid == r.gid))

/-- A group sees the staged write of another that holds a ticket: it is provisionally released in the same launch copy (R383). -/
def State.showsTicket (s : State) (gid g t : Nat) : Bool :=
  match s.group? gid, s.group? g with
  | some k, some h => h.launch == k.launch && h.staged.any fun r => r.prov && r.ticket == some t
  | _, _ => false

/-- R257: a ticket that is still out holds up the later `.sc` events of a group. The ticket of a write that its group has staged holds up other
groups, and no write that the Sluice has released (R383, R384, R465; DEDUCED, log entry 93). -/
def State.ticketHolds (s : State) (gid : Nat) (sluice : Bool) (t : Nat) : Bool :=
  match s.mem.ticketsStaged.find? fun e => e.1 == t with
  | some e => !sluice && e.2 != gid && !s.showsTicket gid e.2 t
  | none => !sluice || !(s.mem.ticketsStaged.any fun e => decide (e.1 < t))

/-- R257: no lower ticket holds up a request. -/
def State.ticketsClear (s : State) (r : Request) : Bool :=
  if r.order ≠ 4 then true
  else r.accs.all fun a => match a.ticket with | none => false | some t => s.mem.ticketsOut.all fun q => decide (t ≤ q) || !s.ticketHolds r.gid r.sluice q

/-- The threads whose earlier accesses a release waits for: every active thread of a `strel` (R266), and the writing ones of an RMW. -/
def Request.releasers (r : Request) : Mask := if r.kind = .store then r.act else maskOf fun i => r.accs.any fun a => a.lane == i.val

/-- R255, R266: the earlier accesses of its threads let a release be performed. -/
def State.releaseClear (s : State) (r : Request) : Bool :=
  if r.order < 2 ∨ !r.writes then true
  else s.mem.reqs.all fun q =>
    !(decide (q.id < r.grp) && !q.sluice && q.gid == r.gid && q.widx == r.widx && q.accs.any (fun a => r.releasers.getLsbD a.lane)
      && ((q.writes && (r.scope == 6 || q.stage != .unacked)) || (q.reads && q.stage == .posted)))

/-- A write that the Sluice has released is of one thread. -/
def Request.laneOf (r : Request) : Nat := match r.accs with | a :: _ => a.lane | [] => 0

/-- Two requests are of one launch copy. -/
def State.sameCopy (s : State) (q r : Request) : Bool :=
  match s.group? q.gid, s.group? r.gid with | some g, some h => g.launch == h.launch | _, _ => false

/-- A released write stands behind an atomic of its thread that still waits until its group is the frontier group. -/
def State.behindAtomic (s : State) (q : Request) : Bool :=
  s.mem.reqs.any fun a => a.frontier && a.gid == q.gid && a.widx == q.widx && decide (a.id < q.grp) && a.accs.any fun b => b.lane == q.laneOf

/-- R383, R465: released writes of a launch copy are performed in stream order, and the Sluice keeps the order within a thread's writes. What
stands behind an atomic does not hold up other threads (DEDUCED, log entry 107). -/
def State.sluiceClear (s : State) (r : Request) : Bool :=
  if !r.sluice then true
  else s.mem.reqs.all fun q =>
    !(q.sluice && decide (q.id < r.id)
      && ((q.gid == r.gid && q.widx == r.widx && q.laneOf == r.laneOf && (decide (2 ≤ r.order) || decide (q.epoch < r.epoch)))
        || (q.stage == .posted && s.sameCopy q r && !(s.behindAtomic q))))

/-- R246: no read of a released write's group is on its way back with what the line held before. -/
def State.readersClear (s : State) (r : Request) : Bool :=
  !r.sluice || s.mem.reqs.all fun q =>
    !(q.gid == r.gid && !q.sluice && q.stage != .posted && (match q.kind with | .load _ => true | _ => false) && q.lines.any fun l => r.lines.contains l)

/-- A request can be performed. -/
def State.canPerform (s : State) (r : Request) : Bool :=
  r.stage == .posted && !r.frontier && s.pathClear r && s.ticketsClear r && s.releaseClear r && s.sluiceClear r && s.readersClear r

/-- R257: a performed request's tickets are reported. -/
def State.reportTickets (s : State) (r : Request) : State :=
  { s with mem := { s.mem with ticketsOut := s.mem.ticketsOut.filter fun t => !(r.accs.any fun a => a.ticket == some t) } }

/-! ### Results that come back -/

/-- A pending result learns what some lanes receive. -/
def Pending.learn (p : Pending) (outs : List (Nat × LaneOut)) : Pending := { p with outs := outs.foldl (fun m e => Sparse.insert m e.1 e.2) p.outs }

/-- The warp that waits for a request's results. -/
def State.warpOfReq (s : State) (r : Request) : Option Nat := s.findWarp r.gid r.widx

/-- Results arrive for the pending entry that a request serves, with the lines they were read from. -/
def State.arriveOuts (s : State) (r : Request) (outs : List (Nat × LaneOut)) (lines : List LineRead) (stamp : Nat) : State :=
  match r.pend, s.warpOfReq r with
  | some id, some wk =>
    s.modWarp wk fun w => { w with pend := w.pend.map fun p =>
      if p.id == id then { p.learn outs with lines := p.lines ++ lines, stamp := if p.stamp = 0 then stamp else min p.stamp stamp } else p }
  | _, _ => s

/-- A pending result learns the release times that its reads returned. -/
def Pending.learnRels (p : Pending) (rels : List (Nat × Nat)) : Pending :=
  { p with rels := rels.foldl (fun m e => Sparse.insert m e.1 (max e.2 ((Sparse.find m e.1).getD 0))) p.rels }

/-- R252, R255: release times come back with what was read: to the acquire horizon of a relaxed read, to the wait of an acquire. -/
def State.arriveRel (s : State) (r : Request) (rels : List (Nat × Nat)) : State :=
  match s.warpOfReq r with
  | none => s
  | some wk =>
    if r.order = 0 ∨ r.order = 2 then
      s.modWarp wk fun w => ({ w with pend := w.pend.map fun p => if r.pend == some p.id then p.learnRels rels else p } : Warp).modThreads (maskOf fun i => rels.any fun e => e.1 == i.val) fun i t =>
        { t with acqH := rels.foldl (fun h e => if e.1 == i.val then max h e.2 else h) t.acqH }
    else
      let top := (rels.map (·.2)).foldl max 0
      s.modWarp wk fun w => w.modThreads (BitVec.allOnes 32) fun _ t =>
        match t.st with
        | .waiting (.acquire id u) next => if r.pend == some id then { t with st := .waiting (.acquire id (max u top)) next } else t
        | _ => t

end Sys2Proof.Machine
end

