-- ==== Sys2Proof/Machine/Pick.lean ====
section
/-! DEFINITION. Which thread set issues, and what stands around an instruction: the picker (R97, R98), markers (R43, R45, R46), the
stop around faults (R400, R404, R408), fetch and decode (R26, R47, R48), and the passing of time (DESIGN CHOICE, log entry 3). -/

namespace Sys2Proof.Machine

/-- Ticks of one arithmetic cycle at each clock step (R8): 700, 600, 500 and 350 MHz. -/
def acTicks (step : Nat) : Nat := match step with | 0 => 30 | 1 => 35 | 2 => 42 | _ => 60

/-! ### What is ready to place (R366, R368) -/

/-- A group's warps are in their slots. -/
def GroupMode.present : GroupMode → Bool
  | .resident | .saving _ | .draining => true
  | _ => false

/-- The indices of a launch's groups that are saved. -/
def State.savedIndices (s : State) (key : Nat) : List Nat :=
  s.groups.filterMap fun e => if e.2.launch == key then (match e.2.mode with | .saved _ => some e.2.index | _ => none) else none

/-- The groups of a launch that hold cores. -/
def State.residentOf (s : State) (key : Nat) : List (Nat × Group) := s.groups.filter fun e => e.2.launch == key && e.2.mode.present

/-- The least of a list of numbers. -/
def leastOf : List Nat → Option Nat
  | [] => none
  | a :: as => match leastOf as with | none => some a | some b => some (min a b)

/-- R368: the index of the group, or of the first group of the crew, that comes next: a saved or flushed one before any later. -/
def State.nextIndex (s : State) (key : Nat) (l : Launch) : Option Nat :=
  if l.status ≠ 0 then none
  else
    let new := if l.cancelled ∨ (l.solo.isNone ∧ l.groups ≤ l.next) then [] else
      match l.solo with
      | some g => if (s.groupAt key g).isSome then [] else [g]
      | none => [l.next]
    match leastOf (s.savedIndices key ++ l.flushed ++ new) with
    | none => none
    | some i =>
      if l.kern.stage.isSome && l.solo.isNone && decide (l.target ≤ (s.residentOf key).length) then none
      else some (if l.kern.crew ≤ 1 ∨ l.solo.isSome then i else i / l.kern.crew * l.kern.crew)

/-! ### Time -/

/-- R366: launches that have a group ready to place wait. -/
def State.accrue (s : State) (ns : Nat) : State :=
  { s with launches := if ns = 0 then s.launches else s.launches.map fun (e : Nat × Launch) =>
      (e.1, if (s.nextIndex e.1 e.2).isSome then { e.2 with waited := e.2.waited + ns } else e.2) }

/-- Device time passes, and with it the cycles of the arithmetic clock. -/
def State.pass (s : State) (ticks : Nat) : State :=
  { s.accrue ((s.clock.ticks + ticks) / 21 - s.clock.ticks / 21) with
    clock := { s.clock with ticks := s.clock.ticks + ticks
                            cycles := (s.clock.ticks + ticks) / acTicks s.clock.step - s.clock.ticks / acTicks s.clock.step + s.clock.cycles } }

/-- One arithmetic cycle passes. -/
def State.tick (s : State) : State := s.pass (acTicks s.clock.step)

/-- R404: the action for a parked thread of the warp has not been taken. -/
def Warp.anyParked (w : Warp) : Bool := w.which Thread.isParked != 0

/-- R408: the warp's timer has expired. -/
def Warp.timerDue (w : Warp) (now : Nat) : Bool := w.tmr != 0 && decide (w.tmr.toNat ≤ now)

/-- R400, R402, R404, R408: a thread set that reaches a marked instruction stops there. In a handler it stops only around a fault of the
handler, or for a halt. -/
def Warp.mustStop (w : Warp) (now : Nat) (halted : Bool) : Bool :=
  if w.handler = 0 then w.anyParked || w.stopping || w.timerDue now
  else w.which Thread.isParked &&& w.handler != 0 || (w.stopping && halted)

/-- The threads that can issue: ready, not stopped at a marker, and inside the handler while the warp is in one (R403). -/
def Warp.issuable (w : Warp) : Mask :=
  w.which Thread.isReady &&& ~~~ w.stopped &&& (if w.handler = 0 then BitVec.allOnes 32 else w.handler)

/-- The greatest wait count. -/
def greatest (ns : List Nat) : Nat := ns.foldl max 0

/-- R98: the candidate of a warp: a program counter and the threads that stand there. -/
def Warp.candidate (w : Warp) : Option (Word × Mask) :=
  let r := w.issuable
  let undeferred := maskOf fun i => r.getLsbD i && !w.threads[i].defer
  let t := if undeferred = 0 then r else undeferred
  let waits := (Mask.lanes t).map fun i => w.threads[i].wait
  let top := greatest waits
  let pool := if 256 ≤ top then (Mask.lanes t).filter fun i => w.threads[i].wait == top else Mask.lanes t
  (leastPc (pool.map fun i => w.threads[i].pc)).map fun pc => (pc, maskOf fun i => r.getLsbD i && w.threads[i].pc == pc)

/-- The threads that can issue at an address. -/
def Warp.readyAt (w : Warp) (pc : Word) : Mask := maskOf fun i => w.issuable.getLsbD i && w.threads[i].pc == pc

/-- R42: the results that are outstanding, but for those of threads that wait at a `waitv`. -/
def Warp.resultsOut (w : Warp) : Bool := w.pend.any fun p => !p.watch

/-- R43, R98, R100: the set that issues next. While a marker or a resource holds a candidate, it is the threads that can issue at its address,
and no other; where a fault has parked them all, the warp goes on once the marker's results have been written. -/
def Warp.upNext (w : Warp) : Option (Word × Mask) :=
  match w.latch with
  | some (pc, marker) => if w.readyAt pc ≠ 0 then some (pc, w.readyAt pc) else if marker && w.resultsOut then none else w.candidate
  | none => w.candidate

/-- The candidate is held, by a marker or by a resource. -/
def State.holdSet (s : State) (wk : Nat) (pc : Word) (marker : Bool) : State := s.modWarp wk fun w => { w with latch := some (pc, marker) }

/-- R45: the marker of an instruction. -/
def Instr.marked (i : Instr) : Bool :=
  match i.form with
  | .compact _ c => c.s
  | .ext _ x => x.s
  | .event => false

/-- R46: the ordinal of a marked instruction in the launch's safe-point table (DEDUCED, log entry 38). -/
def Launch.ordinalAt (l : Launch) (pc : Word) : Nat :=
  (l.safes.findIdx? fun e => l.codeVa + BitVec.ofNat 64 e.off == pc).getD 0xFFFFFFFF

/-- R43, R46: the threads of a set pass a safe point. -/
def State.passSafe (s : State) (wk : Nat) (set : Mask) (pc : Word) : State :=
  match s.warp? wk with
  | none => s
  | some w =>
    let ord := match s.launchOf w with | some l => l.ordinalAt pc | none => 0xFFFFFFFF
    s.modWarp wk fun w => w.modThreads set fun _ t => { t with safe := some (ord, pc) }

/-- What an issue turn comes to before an instruction's own effect: the turn is over, or an instruction is to be executed. -/
inductive Picked where
  | done (s : State)
  | run (i : Instr) (s : State)

/-- R430, R431: a fetch that a link does not carry sets its error bit. -/
def State.fetchErr (s : State) (pc : Word) (cause : Nat) : State :=
  if cause ≠ 0x13 then s
  else
    match (List.range 5).find? fun k => match s.fetchWord (pc + BitVec.ofNat 64 (4 * k)) with | .error _ => true | .ok _ => false with
    | some k => match s.resolve (pc + BitVec.ofNat 64 (4 * k)) .exec with | .ok (t, pa) => if (s.peerFault t pa).isSome then s.linkErr t else s | .error _ => s
    | none => s

/-- R26, R43, R47, R98, R400: a warp's candidate is fetched and decoded, and issues unless its marker holds or stops it (DEDUCED, log entry 31).
A fetch or decode fault is taken at once, whatever the S bit of the words (DEDUCED, log entry 111). -/
def pickIssue (core slot : Nat) (s : State) : Picked :=
  let wk := core * 64 + slot
  match s.warp? wk with
  | none => .done s
  | some w =>
    match w.upNext with
    | none => .done s
    | some (pc, set) =>
      let iss : Issue := { core := core, slot := slot, set := set, pc := pc }
      let s0 := s.useTlb pc
      match s.fetch pc with
      | .error (cause, a) => .done (((s0.noteFetch pc 5).fetchErr pc cause).park wk { cause := cause, pc := pc, mask := set } (fun _ => a) fun _ => pc)
      | .ok ws =>
        match decodeWords ((Mask.lanes set).all fun i => w.threads[i].privl) (ws.getD 0 0) (ws.getD 1 0) (ws.getD 2 0) (ws.getD 3 0) (ws.getD 4 0) with
        | .error f => .done (decodeFault (s0.noteFetch pc ws.length) iss f.cause)
        | .ok i =>
          let s1 := s0.noteFetch pc ws.length
          if Instr.marked i then
            if w.resultsOut then .done (s0.holdSet wk pc true)
            else if w.mustStop s.ns (match s.launchOf w with | some l => l.status == 3 | none => false) then .done (s0.modWarp wk fun w => { w with stopped := w.stopped ||| set, latch := none })
            else if !w.pend.isEmpty then .done (s0.holdSet wk pc true)
            else .run i { s1.passSafe wk set pc with issue := some iss }
          else .run i { s1 with issue := some iss }

/-- The thread set that has been picked. -/
def issueSet (s : State) : Mask := match s.issue with | some i => i.set | none => 0

/-- A launch with nothing in it: no code, one group of one warp. -/
def Kernel.blank : Kernel :=
  { entry := 0, warps := 1, crew := 0, cls := 0, prio := 8, quota := 512, accFirst := 0, accCount := 0, reserve := 0, scratch := 0, lease := 2048
    trapFirst := 0, stage := none, manifest := 0, stageEntries := 0, stageBytes := 0, safeFirst := 0, safeCount := 0, rings := [] }

def Launch.blank : Launch :=
  { ident := 0, recVa := 0, kern := Kernel.blank, kidx := 0, objVa := 0, codeVa := 0, codeSize := 0, safes := [], traps := [], pats := [], constPa := Config.areaPa + 0x400000
    constSize := 4160, dataVa := 0, dataPa := 0, dataSize := 0, groups := 1, prio := 8, lam := 0, restartable := false, compl := 0, tag := 0
    queue := none, parent := none, poster := none, status := 0, cause := 0, cancelled := false, order := 0, next := 1, retired := 0, frontier := 0
    lastRelease := 0, waited := 0, runtimes := [], stepCount := none, counted := [], arrived := 0, hasArrived := false
    stepping := false, commits := 0, held := false, peerDigest := none, target := 1, inQueue := none
    outQueue := none, manifest := none, crewBars := [], resumes := [], flushed := [], solo := none, lastDone := 0 }

def Group.blank (launch core : Nat) : Group :=
  { launch := launch, index := 0, copy := 0, core := core, crewPos := 0, mode := .resident, since := 0, lend := 0, scratch := [], scratchRel := [], privPa := Config.areaPa, cells := 512
    rings := [], ringQ := [], bars := [], pats := [], staged := [], performed := [], released := false, warpsLeft := 1, stepped := false, savedWarps := [], savedStreams := [], savedReqs := []
    savedEnds := [], stepGot := [], saveArea := none, accEpoch := 0 }

/-- The page that `withFetchWord` uses for its code. -/
def probePage : TlbEntry := { va := 0x10000, log2 := 16, read := true, write := false, exec := true, tgt := .hbm, pa := 0x10000, fixed := false, page := 0x10 }

/-- A one-warp launch on core 0 whose warp stands at an instruction's bytes, and the turn that issues it (DESIGN CHOICE, log entry 29). -/
def State.withProgram (s : State) (bs : List Byte) : State :=
  { s with
    launches := Sparse.insert s.launches 0 { Launch.blank with codeVa := 0x10000, codeSize := 0x10000 }
    groups := Sparse.insert s.groups 0 (Group.blank 0 0)
    warps := Sparse.insert s.warps 0 (Warp.start 0 0 512 0x10000)
    mem := { s.mem with hbm := s.mem.hbm.setBytes 0x10000 bs, tlb := probePage :: s.mem.tlb }
    turns := [.issue 0 0] }

end Sys2Proof.Machine
end

