-- ==== Sys2Proof/Machine/Control.lean ====
section
/-! DEFINITION. Class 0x0, control instructions, and the compact `nop` (spec 04, R101 to R121). -/

namespace Sys2Proof.Machine

/-- An issue whose active threads go on where `go` says, with their threads changed; the others advance (R101). -/
def controlOp (x : Ext) (s : State) (go : Ctx → Fin 32 → Thread → Thread) (srcs : List Src := []) : State :=
  issuing x s fun c s1 => (c.advance (c.executed s1 (refinement (srcs.map c.srcRuns) c.act)) c.act).modWarp c.wk fun w => w.modThreads c.act (go c)

/-- R111. -/
def execBra (x : Ext) (s : State) : Out := .next (controlOp x s fun c _ t => { t with pc := c.target x.l32 })

/-- The active threads whose target register is not a multiple of 4 (R112, R113) (DEDUCED, log entry 34). -/
def Ctx.crooked (c : Ctx) (x : Ext) : Mask := maskOf fun i => c.act.getLsbD i && (c.reg x.a i).toNat % 4 != 0

/-- R112. -/
def brxOp (x : Ext) (s : State) : State :=
  issuing x s fun c s1 =>
    let bad := c.crooked x
    let s2 := (c.advance (c.executed s1 (refinement [c.srcRuns x.srcA] c.act)) c.act).modWarp c.wk fun w => w.modThreads (c.act &&& ~~~ bad) fun i t => { t with pc := c.reg x.a i }
    c.fault s2 0x03 bad fun _ => 0

def execBrx (x : Ext) (s : State) : Out := .next (brxOp x s)

/-- R217, R246: a request of the core to a line is still on its way. -/
def State.lineBusy (s : State) (core key : Nat) : Bool :=
  s.mem.reqs.any fun r => r.core == core && r.space == 0 && r.stage == .posted && r.lines.contains key

/-- R102, R103: where a thread's return stack goes on in its private area. -/
def Ctx.spillPlace (c : Ctx) (s : State) (i : Fin 32) (off : Nat) : Except Nat (Target × Nat) := s.privPlace c.w i off 8

/-- The causes of translation and protection faults (R104). -/
def spillCauses : List Nat := [0x04, 0x05, 0x13]

/-- The threads of a mask whose spills or refills fault with a cause. -/
def spillFaults (m : Mask) (f : Fin 32 → Except Nat α) (cause : Nat) : Mask :=
  maskOf fun i => m.getLsbD i && (match f i with | .error k => k == cause | .ok _ => false)

/-- R104: those threads are parked. -/
def Ctx.parkSpills (c : Ctx) (s : State) (m : Mask) (f : Fin 32 → Except Nat α) (addr : Fin 32 → Word) : State :=
  spillCauses.foldl (fun s cause => c.fault s cause (spillFaults m f cause) addr) s

/-- R104: a push finds no room. -/
def Thread.pushFails (t : Thread) : Bool := decide (16 ≤ t.rstack.length) && decide (4096 ≤ t.spill.toNat)

/-- R102: a return address is pushed; the oldest entry has been spilled where the stack was full. -/
def Thread.push (t : Thread) (ret : Word) : Thread :=
  if t.rstack.length < 16 then { t with rstack := ret :: t.rstack }
  else { t with rstack := ret :: t.rstack.take 15, spill := t.spill + 8 }

/-- R102: the spill write of a push, performed at its home slice at issue (DESIGN CHOICE, log entry 13). -/
def Ctx.spillOne (c : Ctx) (s : State) (i : Fin 32) : State :=
  match c.spillPlace s i (c.w.threads[i].spill.toNat) with
  | .error _ => s
  | .ok (t, pa) =>
    let s1 := (s.dropLines c.core [lineKey t pa]).barFills c.core [lineKey t pa]
    (s1.performWrite t pa (bytesOfNat 8 (c.w.threads[i].rstack.getLastD 0).toNat) .plain).modWarp c.wk fun w =>
      w.modThreads (maskOf fun j => j == i) fun _ q => q.wrote s.ns (s1.completion t pa)

/-- R113: both calls: `bad` are the threads that misalignment stops, `to` the targets (DEDUCED, log entry 78). A spill waits for what the core
has on its way to its line. The record of a spill or refill fault carries the spill pointer (DESIGN CHOICE, log entry 108). -/
def callOp (x : Ext) (s : State) (bad : Ctx → Mask) (to_ : Ctx → Fin 32 → Word) (srcs : List Src := []) : State :=
  issuing x s fun c s1 =>
    let full := maskOf fun i => c.act.getLsbD i && !(bad c).getLsbD i && c.w.threads[i].pushFails
    let ok := c.act &&& ~~~ bad c &&& ~~~ full
    let deep := maskOf fun i => ok.getLsbD i && decide (16 ≤ c.w.threads[i].rstack.length)
    let place := fun (i : Fin 32) => c.spillPlace s1 i (c.w.threads[i].spill.toNat)
    let lost := maskOf fun i => deep.getLsbD i && (match place i with | .error _ => true | .ok _ => false)
    if (Mask.lanes deep).any fun i => match place i with | .ok (t, pa) => s1.lineBusy c.core (lineKey t pa) | .error _ => false then s
    else
      let s2 := (Mask.lanes (deep &&& ~~~ lost)).foldl (fun s (i : Fin 32) => c.spillOne s i) (c.advance (c.executed s1 (refinement (srcs.map c.srcRuns) c.act)) c.act)
      let s3 := s2.modWarp c.wk fun w => w.modThreads (ok &&& ~~~ lost) fun i t => { t.push c.next with pc := to_ c i }
      c.parkSpills (c.fault (c.fault s3 0x03 (bad c) fun _ => 0) 0x14 full fun i => c.w.threads[i].spill) lost place fun i => c.w.threads[i].spill

def execCall (x : Ext) (s : State) : Out := .next (callOp x s (fun _ => 0) fun c _ => c.target x.l32)
def execCallx (x : Ext) (s : State) : Out := .next (callOp x s (fun c => c.crooked x) (fun c i => c.reg x.a i) [x.srcA])

/-- R103: a return, given the private bytes below the spill pointer. -/
def Thread.pop (t : Thread) (refill : Word) : Thread :=
  match t.rstack with
  | r :: rs => { t with rstack := rs, pc := r }
  | [] => { t with spill := t.spill - 8, pc := refill }

/-- R104: nothing to return to. -/
def Thread.popFails (t : Thread) : Bool := t.rstack.isEmpty && t.spill == 0

/-- R103: the return address that a refill reads, at its home slice at issue (DESIGN CHOICE, log entry 13), or the cause of its fault. -/
def Ctx.refill (c : Ctx) (s : State) (i : Fin 32) : Except Nat Word :=
  match c.spillPlace s i (c.w.threads[i].spill.toNat - 8) with
  | .error k => .error k
  | .ok (t, pa) =>
    match s.lineBad t pa with
    | some 4 => .error 0x13
    | some _ => .ok 0
    | none => .ok (BitVec.ofNat 64 (s.rawNat t pa 8))

/-- R222: what a refill's read of a bad line leaves in the list. -/
def Ctx.noteRefill (c : Ctx) (s : State) (i : Fin 32) : State :=
  match c.spillPlace s i (c.w.threads[i].spill.toNat - 8) with
  | .error _ => s
  | .ok (t, pa) => match s.lineBad t pa with | some k => s.noteBad (pa / 128) k (sectorMask pa 8) | none => s.touchHome t pa 0

/-- R103, R114. A refill waits for what the core has on its way to its line; its fault record carries the spill pointer (DESIGN CHOICE, log
entry 108). -/
def retOp (x : Ext) (s : State) : State :=
  issuing x s fun c s1 =>
    let bad := maskOf fun i => c.act.getLsbD i && c.w.threads[i].popFails
    let deep := maskOf fun i => c.act.getLsbD i && !bad.getLsbD i && c.w.threads[i].rstack.isEmpty
    let lost := maskOf fun i => deep.getLsbD i && (match c.refill s1 i with | .error _ => true | .ok _ => false)
    if (Mask.lanes deep).any fun i => match c.spillPlace s1 i (c.w.threads[i].spill.toNat - 8) with
        | .ok (t, pa) => s1.lineBusy c.core (lineKey t pa)
        | .error _ => false then s
    else
      let s2 := (Mask.lanes deep).foldl (fun s (i : Fin 32) => c.noteRefill s i) (c.advance (c.executed s1) c.act)
      let s3 := s2.modWarp c.wk fun w => w.modThreads (c.act &&& ~~~ bad &&& ~~~ lost) fun i t =>
        t.pop (match c.refill s1 i with | .ok v => v | .error _ => 0)
      c.parkSpills (c.fault s3 0x14 bad fun i => c.w.threads[i].spill) lost (c.refill s1) fun i => c.w.threads[i].spill

def execRet (x : Ext) (s : State) : Out := .next (retOp x s)

/-! ### Loops (R105, R106, R115, R116) -/

/-- R115: the count of `.set`: widen(L32, u64), or a register. The 160-bit form with LSEL 0b01 takes the same count, where R35's table would take
L64 (DESIGN CHOICE, log entry 109). -/
def Ctx.loopCount (c : Ctx) (x : Ext) (i : Fin 32) : Word := if x.lsel = 1 then widen x.l32 1 else c.reg x.b i

def execLoopSetO (x : Ext) (s : State) : Out := .next (controlOp x s (fun c i t => { t with lc0 := c.loopCount x i, pc := c.next }) (if x.lsel = 1 then [] else [.reg x.b]))
def execLoopSetI (x : Ext) (s : State) : Out :=
  .next (controlOp x s (fun c i t => { t with lc1 := c.loopCount x i, reload := c.loopCount x i, pc := c.next }) (if x.lsel = 1 then [] else [.reg x.b]))

/-- `loop.o`. -/
def Thread.loopOuter (t : Thread) (target next : Word) : Thread :=
  if 1 < t.lc0.toNat then { t with lc0 := t.lc0 - 1, lc1 := t.reload, pc := target } else { t with lc0 := 0, pc := next }

/-- `loop.i`, going on at the end of the inner loop as `done` says. -/
def Thread.loopInner (t : Thread) (target : Word) (done : Thread → Thread) : Thread :=
  if 1 < t.lc1.toNat then { t with lc1 := t.lc1 - 1, pc := target } else done { t with lc1 := 0 }

def execLoopI (x : Ext) (s : State) : Out :=
  .next (controlOp x s fun c _ t => t.loopInner (c.target x.l32) fun t => { t with pc := c.next })
def execLoopO (x : Ext) (s : State) : Out := .next (controlOp x s fun c _ t => t.loopOuter (c.target x.l32) c.next)
def execLoopIo (x : Ext) (s : State) : Out :=
  .next (controlOp x s fun c _ t => t.loopInner (c.target x.l32) fun t => t.loopOuter (c.target (x.l64.setWidth 32)) c.next)

/-- R116: MOD[23] names the inner counter. -/
def execLbrk (x : Ext) (s : State) : Out :=
  .next (controlOp x s fun c _ t =>
    if x.mb 23 then { t with lc1 := 0, pc := c.target x.l32 } else { t with lc0 := 0, pc := c.target x.l32 })
def execLbrkZ (x : Ext) (s : State) : Out :=
  .next (controlOp x s fun c _ t => { t with pc := if (if x.mb 23 then t.lc1 else t.lc0) = 0 then c.target x.l32 else c.next })

/-! ### Waiting and leaving -/

/-- Threads begin to wait at the instruction. -/
def Ctx.hold (c : Ctx) (s : State) (m : Mask) (w : Fin 32 → Wait) : State :=
  s.modWarp c.wk fun q => q.modThreads m fun i t => { t with st := .waiting (w i) c.next, since := s.ns }

/-- R117. -/
def rejoinOp (x : Ext) (s : State) : State :=
  issuing x s fun c s1 =>
    let m := if x.mb 23 then x.l32 else c.guard x.a.toNat
    let s2 := c.advance (c.executed s1) c.act
    if c.act = 0 then s2 else (c.hold s2 c.act fun i => .rejoin (m ||| (1#32 <<< i.val))).settle c.wk

def execRejoin (x : Ext) (s : State) : Out := .next (rejoinOp x s)

/-- R118. -/
def execYield (x : Ext) (s : State) : Out := .next (controlOp x s fun c _ t => { t with defer := true, pc := c.next })

/-- R119. -/
def exitOp (x : Ext) (s : State) (target : Ctx → Option (Word × Word)) : State :=
  issuing x s fun c s1 => (c.advance (c.executed s1) c.act).exitThreads c.wk c.act (target c)

def execExit (x : Ext) (s : State) : Out := .next (exitOp x s fun _ => none)
def execExitTo (x : Ext) (s : State) : Out := .next (exitOp x s fun c => some (c.target x.l32, x.l64))

/-- R120: the nanoseconds that a thread sleeps. -/
def sleepTime (v : Word) : Nat := min v.toNat (2 ^ 32 - 1)

def sleepOp (x : Ext) (s : State) : State :=
  issuing x s fun c s1 =>
    let m := maskOf fun i => c.act.getLsbD i && sleepTime (c.src x.srcB i) != 0
    c.hold (c.advance (c.executed s1 (refinement [c.srcRuns x.srcB] c.act)) m) m fun i => .sleep (s1.ns + sleepTime (c.src x.srcB i))

def execSleep (x : Ext) (s : State) : Out := .next (sleepOp x s)

/-- The threads whose sleep is over. -/
def Warp.slept (w : Warp) (now : Nat) : Mask := w.which fun t => match t.waits with | some (.sleep u) => decide (u ≤ now) | _ => false

/-- R120: sleepers of a warp whose time has come become ready. -/
def execSleepWake (wk : Nat) (s : State) : Out :=
  .next (match s.warp? wk with
    | some w => if w.slept s.ns = 0 then s else s.release wk (w.slept s.ns)
    | none => s)

/-- R121. -/
def nopOp (x : Ext) (s : State) : State := issuing x s fun c s1 => c.advance (c.executed s1)

def execNop (x : Ext) (s : State) : Out := .next (nopOp x s)
def execNopCompact (k : Compact) (s : State) : Out := .next (nopOp (k.toExt 0) s)

end Sys2Proof.Machine
end

