-- ==== Sys2Proof/Machine/Memory.lean ====
section
/-! DEFINITION. Class 0x8, memory instructions (spec 10, R226 to R237), and the compact loads and stores (R30). -/

namespace Sys2Proof.Machine

/-! ### Loads -/

/-- What a load instruction reads. -/
structure LoadOp where
  opc   : Nat
  space : Nat
  n     : Nat
  al    : Nat
  conv  : LoadConv
  fresh : Bool
  hint  : Nat
  order : Nat
  scope : Nat
  reuse : Bool

/-- R76: the loads that may be looked up, given the core. -/
def LoadOp.lookedUp (o : LoadOp) : Bool := o.reuse && !o.fresh && (o.space == 0 || o.space == 1 || o.space == 3)

/-- R76, R216: a place whose loads may be looked up: memory with a home slice, or the core's own vault. -/
def Place.reusable (core : Nat) : Place → Bool
  | .glob t _ => t.homed
  | .vault c _ => c == core
  | .scratch _ => false

/-- How one thread's part of a load stands at issue: its result is known, with the L1 line that served it, what it would have asked for
(R15) and the release time it returned; or it goes to memory. -/
inductive LoadPart where
  | known (o : LaneOut) (hit : Option (LineRead × Sent)) (rel : Nat)
  | sent (e : Sent)

/-- R215, R216: whether a load of a target is served by the L1 at all. -/
def LoadOp.cached (o : LoadOp) (t : Target) : Bool := t.homed && !o.fresh

/-- A line of the L1 that serves a load. -/
def Ctx.hitFor (c : Ctx) (s : State) (o : LoadOp) (t : Target) (pa : Nat) : Option L1Line := if o.cached t then s.l1Hit c.core (lineKey t pa) else none

/-- One thread's part of a load. -/
def Ctx.loadPart (c : Ctx) (s : State) (x : Ext) (o : LoadOp) (i : Fin 32) : LoadPart :=
  let va := c.ea x i
  let mode := c.w.threads[i].loadMode x
  let acc := fun pa => ({ lane := i, va := va, pa := pa, n := o.n, data := [], b := 0, cmp := 0, mode := mode, ticket := none, hz := 0 } : Access)
  match s.place c.w i o.space va o.n o.al .read with
  | .error cause => .known (.fault cause va) none 0
  | .ok (.glob t pa) =>
    match c.hitFor s o t pa with
    | some l => .known (convOut o.conv mode (s.overlay c.w.gid t pa ((l.data.drop (pa % 128)).take o.n))) 
        (some ({ key := l.line, lease := l.lease, no := l.no }, { space := 0, unit := 0, tgt := t, acc := acc pa })) (lineRel l.rel pa o.n)
    | none => .sent { space := 0, unit := 0, tgt := t, acc := acc pa }
  | .ok (.vault core off) => .sent { space := 1, unit := core, tgt := .hbm, acc := acc off }
  | .ok (.scratch off) => .sent { space := 2, unit := 0, tgt := .hbm, acc := acc off }

/-- The requests that parts of a load make. -/
def Ctx.loadReqs (c : Ctx) (s : State) (o : LoadOp) (pid : Nat) (es : List Sent) : List Request :=
  makeReqs
    { id := 0, core := c.core, gid := c.w.gid, widx := c.w.widx, kind := .load o.conv, grp := 0, space := 0, unit := 0, tgt := .hbm, accs := []
      act := c.act, pc := c.pc, order := o.order, scope := o.scope, hint := o.hint, fresh := o.fresh, noAlloc := o.fresh
      lease := match s.launchOf c.w with | some l => l.kern.lease | none => 0
      sluice := false, epoch := 0, frontier := false, pend := some pid, weight := 0, stage := .posted }
    (o.order == 4) es

/-- The lines that the active threads of a load would read now, where they have a place with a line. -/
def Ctx.loadKeys (c : Ctx) (s : State) (x : Ext) (o : LoadOp) : List (Option Nat) :=
  (Mask.lanes c.act).map fun (i : Fin 32) => match s.place c.w i o.space (c.ea x i) o.n o.al .read with
    | .ok (.glob t pa) => some (lineKey t pa)
    | .ok (.vault core off) => some (vaultLine core off)
    | _ => none

/-- R72, R76: the reuse key of a load. -/
def Ctx.loadKey (c : Ctx) (s : State) (x : Ext) (o : LoadOp) (d : BitVec 6) : Option (List Word × List (BitVec 26)) :=
  let mine := (Mask.lanes c.act).all fun (i : Fin 32) => match s.place c.w i o.space (c.ea x i) o.n o.al .read with | .ok pl => pl.reusable c.core | .error _ => true
  if o.lookedUp && mine then
    c.reuseKey x { opc := o.opc, a := x.srcA, dst := some d }
  else none

/-- R75: the recorded flags of an entry meet the enabled traps of an active thread. -/
def ReuseEntry.traps (e : ReuseEntry) (w : Warp) (act : Mask) : Bool :=
  (Mask.lanes act).any fun i => match Sparse.find e.lanes i.val with
    | some l => w.threads[i].fpTraps l.fflags || w.threads[i].intTraps l.iflags
    | none => false

/-- R246, R259: a load of the warp is on its way to a line of an entry, so that a hit could return what is older. -/
def Ctx.readUnderway (c : Ctx) (s : State) (e : ReuseEntry) : Bool :=
  s.mem.reqs.any fun r => r.gid == c.w.gid && r.widx == c.w.widx && r.space ≤ 1 && r.lines.any fun l => e.lines.any fun k => k.1 == l

/-- R75, R76: an entry that serves a load now, with its result. An entry of constant space is another launch's where its lines are not those
that this load would read (DEDUCED, log entry 15). -/
def Ctx.loadHit (c : Ctx) (s : State) (x : Ext) (o : LoadOp) (key : Option (List Word × List (BitVec 26))) : Option (ReuseEntry × VecReg) :=
  match key with
  | none => none
  | some k =>
    match (s.coreOf c.core).reuseFind k.1 with
    | some e =>
      if (match e.expiry with | some t => decide (s.ns < t) | none => true) && (c.w.lastSync == 0 || decide (c.w.lastSync < e.stamp)) && !e.traps c.w c.act
          && !c.readUnderway s e && (o.space != 3 || (c.loadKeys s x o).all fun k => match k with | some l => e.lines.any fun q => q.1 == l | none => false)
      then e.result.map fun r => (e, r) else none
    | none => none

/-- R75: a hit: the destination maps to the entry's result, each active thread ORs the recorded flags, and a relaxed read has returned the
release time that it was read with (R252). -/
def Ctx.loadServed (c : Ctx) (s : State) (d : BitVec 6) (e : ReuseEntry) (r : VecReg) : State :=
  let s1 := ((((s.count c.core 0x02 1).count c.core 0x03 1).leaf c.core 0x01 1).mapReg c.wk d r).modCore c.core fun q => q.reuseTouch e.key
  s1.modWarp c.wk fun w => w.modThreads c.act fun i t =>
    match Sparse.find e.lanes i.val with
    | some l => { t.raise l.fflags l.iflags with acqH := max t.acqH l.rel }
    | none => t

/-- R255: threads that acquire wait from their issue on. -/
def Ctx.awaitAcquire (c : Ctx) (s : State) (order id : Nat) : State :=
  if order = 0 ∨ order = 2 then c.advance s else c.hold s c.set fun _ => .acquire id 0

/-- R42, R66: the result that a load of a warp's threads leaves outstanding. -/
def Ctx.loadPending (c : Ctx) (id : Nat) (d : BitVec 6) : Pending :=
  { id := id, pc := c.pc, dst := .vec d, act := c.act, zero := c.zero, left := c.act, outs := [], key := none, old := c.oldRuns (.vec d), isLoad := true
    watch := false, lines := [], hits := [], stamp := 0, rels := [], bound := c.borrows d 32, ldc := none, form := none }

/-- A load executes: what is known at once waits to be written (R42), the rest is requested. -/
def Ctx.loadGo (c : Ctx) (x : Ext) (o : LoadOp) (d : BitVec 6) (key : Option (List Word × List (BitVec 26))) (s : State) : Option State :=
  let parts := (Mask.lanes c.act).map fun i => (i, c.loadPart s x o i)
  let reqs := c.loadReqs s o s.fresh (parts.filterMap fun p => match p.2 with | .sent e => some e | .known _ _ _ => none)
  let got := parts.filterMap fun p => match p.2 with | .known _ h _ => h | .sent _ => none
  let lines := (got.map (·.1)).eraseDups
  let hits := (c.loadReqs s o s.fresh (got.map (·.2))).mapIdx fun k r => { r with id := s.fresh + 1 + k, grp := s.fresh + 1 }
  if !s.roomFor c.core (weightOf reqs + lines.length) then none
  else
    let outs := parts.filterMap fun p => match p.2 with | .known v _ _ => some (p.1.val, v) | .sent _ => none
    let rels := parts.filterMap fun p => match p.2 with | .known _ _ r => some (p.1.val, r) | .sent _ => none
    let s1 := c.executed (if o.space = 0 then s.useTlbs ((Mask.lanes c.act).map (c.ea x)) else s) (refinement [c.srcRuns x.srcA] c.act)
    let s2 := c.outstanding s1
      { c.loadPending s.fresh d with
        outs := outs, key := key, lines := lines, hits := hits, rels := rels, stamp := if lines = [] then 0 else s.ns }
    let s3 := s2.modWarp c.wk fun w => w.modThreads c.act fun i t => { t with acqH := rels.foldl (fun h e => if e.1 == i.val then max h e.2 else h) t.acqH }
    let s4 := ({ s3 with fresh := s3.fresh + hits.length }).modCore c.core fun k => lines.foldl (fun k (l : LineRead) => k.useLine l.key o.hint) k
    let s5 := ((s4.count c.core 0x07 (weightOf (reqs.filter fun r => r.space == 0 && !r.fresh && r.tgt.homed))).countSent c.core reqs).postReqs reqs
    some (c.awaitAcquire s5 o.order s.fresh)

/-- The shared operation of loads. -/
def loadOp (x : Ext) (o : LoadOp) (d : BitVec 6) (s : State) : State :=
  issuing x s fun c s1 =>
    if c.act = 0 then c.advance (c.executed (deliverTo s1 c.wk (.vec d) none 0 c.zero (fun _ => plain 0) c.pc fun _ => c.pc))
    else
      c.charged s1 d 32 fun s2 =>
        let key := c.loadKey s2 x o d
        let s3 := if key.isSome then s2.count c.core 0x01 1 else s2
        match c.loadHit s2 x o key with
        | some e => c.advance (c.loadServed s3 d e.1 e.2)
        | none => (c.loadGo x o d key s3).getD s

/-- R225: the sizes of `ld` and `st`. -/
def sizeBytes (code : Nat) : Nat := 8 / 2 ^ code

def execLd (x : Ext) (s : State) : Out :=
  .next (loadOp x { opc := 0x100, space := x.m 23 3, n := sizeBytes (x.m 26 2), al := sizeBytes (x.m 26 2), conv := if x.mb 28 then .sx else .zx
                    fresh := x.mb 29, hint := x.m 30 2, order := 0, scope := 0, reuse := true } x.d s)

/-- R228. -/
def execLdmx (x : Ext) (s : State) : Out :=
  let n := 64 / tyWidth x.ty.toNat * (codeBits (x.m 26 4) / 8)
  .next (loadOp x { opc := 0x102, space := x.m 23 3, n := n, al := n, conv := .mx (x.m 26 4) x.ty.toNat
                    fresh := false, hint := x.m 30 2, order := 0, scope := 0, reuse := true } x.d s)

/-- R226, R30: the compact loads. -/
def compactLoad (k : Compact) (space : BitVec 9) (s : State) : State :=
  loadOp (k.toExt 0 false space) { opc := 0x100, space := space.toNat, n := 8, al := 8, conv := .zx, fresh := false, hint := 0, order := 0, scope := 0, reuse := true } k.d s

def execLdGlobalCompact (c : Compact) (s : State) : Out := .next (compactLoad c 0 s)
def execLdScratchCompact (c : Compact) (s : State) : Out := .next (compactLoad c 2 s)

/-! ### Stores -/

/-- What a store instruction writes: the bytes of a thread, with the flags it raises. -/
structure StoreOp where
  space : Nat
  n     : Nat
  al    : Nat
  hint  : Nat
  order : Nat
  scope : Nat
  kind  : ReqKind                         -- `.store`, or an atomic without result
  data  : Ctx → Fin 32 → List Byte × BitVec 5
  b     : Ctx → Fin 32 → Word

/-- One access of a store, at its place. -/
structure StorePart where
  lane : Fin 32
  va   : Word
  ea   : Word                             -- R227: the effective address of the instruction
  pl   : Place
  bs   : List Byte
  b    : Word

/-- R382, R383: global writes of a warp are staged. -/
def State.stages (s : State) (w : Warp) (space : Nat) : Bool := decide (s.classOf w ≠ 0) && space == 0

/-- R222, R263, R430: the fault that a write which is to be staged would meet at its place now: cause and address. -/
def State.stagedFault (s : State) (kind : ReqKind) (ea : Word) (t : Target) (pa : Nat) : Option (Nat × Word) :=
  let line := BitVec.ofNat 64 (pa / 128 * 128)
  match kind, s.peerFault t pa with
  | .load _, _ | .cas, _ | .atom _ _ _ false, _ => none
  | _, some 0x13 => some (0x13, line)
  | _, some cause => some (cause, ea)
  | .atom _ _ _ true, none => if s.lineBad t pa = some 4 then some (0x13, line) else none
  | .store, none | .prefetch _, none => none

/-- The threads of an issue whose stores fault, with cause and address. -/
def Ctx.storeFaults (c : Ctx) (s : State) (x : Ext) (o : StoreOp) (m : Mask) : List (Fin 32 × Nat × Word) :=
  (Mask.lanes m).filterMap fun (i : Fin 32) =>
    match s.place c.w i o.space (c.ea x i) o.n o.al .write with
    | .error cause => some (i, cause, c.ea x i)
    | .ok (.glob t pa) => if s.stages c.w o.space then (s.stagedFault o.kind (c.ea x i) t pa).map fun f => (i, f.1, f.2) else none
    | .ok _ => none

/-- R222, R431: what such faults leave behind: the link's error bit, and an entry for the line that an atomic has read. -/
def State.noteStaged (s : State) (kind : ReqKind) (t : Target) (pa n : Nat) : State :=
  match s.stagedFault kind 0 t pa with
  | some (0x13, _) => if (s.peerFault t pa).isSome then s.linkErr t else s.noteBad (pa / 128) 4 (sectorMask pa n)
  | _ => s

def Ctx.noteAllStaged (c : Ctx) (s : State) (x : Ext) (o : StoreOp) (m : Mask) : State :=
  if !s.stages c.w o.space then s
  else (Mask.lanes m).foldl (fun s1 (i : Fin 32) => match s.place c.w i o.space (c.ea x i) o.n o.al .write with
    | .ok (.glob t pa) => s1.noteStaged o.kind t pa o.n
    | _ => s1) s

/-- R227: threads that fault at issue are parked, by cause. -/
def Ctx.parkAll (c : Ctx) (s : State) (fs : List (Fin 32 × Nat × Word)) : State :=
  resultCauses.foldl (fun s cause =>
    c.fault s cause (maskOf fun i => fs.any fun f => f.1 == i && f.2.1 == cause) fun i => match fs.find? fun f => f.1 == i with | some f => f.2.2 | none => 0) s

/-- A store on its way to a home slice, a vault port or the scratchpad. -/
def StorePart.sent (p : StorePart) (hz : Nat) : Sent :=
  let acc := fun pa => ({ lane := p.lane, va := p.ea, pa := pa, n := p.bs.length, data := p.bs, b := p.b, cmp := 0, mode := 0, ticket := none, hz := hz } : Access)
  match p.pl with
  | .glob t pa => { space := 0, unit := 0, tgt := t, acc := acc pa }
  | .vault core off => { space := 1, unit := core, tgt := .hbm, acc := acc off }
  | .scratch off => { space := 2, unit := 0, tgt := .hbm, acc := acc off }

/-- R215, R76: the lines that an issue writes. -/
def storeKeys (es : List Sent) : List Nat := (es.filter fun e => e.space != 2).map fun e => lineOf e.space e.unit e.tgt e.acc

/-- R390: a store's or atomic's record. -/
def Ctx.stagedOf (c : Ctx) (s : State) (o : StoreOp) (all : Mask) (p : StorePart) (t : Target) (pa : Nat) : Staged :=
  { warp := c.w.widx, lane := p.lane, seq := c.w.threads[p.lane].seqNo
    kind := match o.kind with | .atom op flt sgn _ => .atom op flt sgn | _ => .store
    mask := 0, va := p.va, tgt := t, pa := pa, data := p.b, core := c.core, order := o.order, near := !farScope o.scope
    epoch := c.w.threads[p.lane].epoch, engine := false
    step := s.stepNo c.w
    prov := false, hint := o.hint, act := all, pc := c.pc, ticket := none, at_ := s.fresh }

/-- R257: a warp's `.sc` requests that have no tickets yet take them, in program order. -/
def State.ticketAll (s : State) (gid widx : Nat) : State :=
  let give := s.mem.reqs.foldl (fun (e : Nat × List Request) r =>
    if r.order = 4 ∧ r.gid = gid ∧ r.widx = widx ∧ !r.sluice then
      let q := r.accs.foldl (fun (a : Nat × List Access) b => match b.ticket with | none => (a.1 + 1, a.2 ++ [{ b with ticket := some a.1 }]) | some _ => (a.1, a.2 ++ [b])) (e.1, [])
      (q.1, e.2 ++ [{ r with accs := q.2 }])
    else (e.1, e.2 ++ [r])) (s.mem.ticket, [])
  { s with mem := { s.mem with ticket := give.1, reqs := give.2
                               ticketsOut := s.mem.ticketsOut ++ (List.range (give.1 - s.mem.ticket)).map (s.mem.ticket + ·) } }

/-- R257, R465: a staged `.sc` write takes the next ticket. -/
def State.stageTicket (s : State) (gid : Nat) : State :=
  { s with mem := { s.mem with ticket := s.mem.ticket + 1, ticketsOut := s.mem.ticketsOut ++ [s.mem.ticket], ticketsStaged := s.mem.ticketsStaged ++ [(s.mem.ticket, gid)] } }

/-- R383: one global store of an ordered or strict launch is staged. -/
def Ctx.stagePart (c : Ctx) (o : StoreOp) (all : Mask) (s : State) (p : StorePart) : State :=
  match p.pl with
  | .glob t pa =>
    let r := { c.stagedOf s o all p t pa with ticket := if o.order = 4 then some s.mem.ticket else none }
    (if o.order = 4 then s.stageTicket c.w.gid else s).stage c.w.gid r p.bs
  | _ => s

/-- R257, R383: global stores of an ordered or strict launch are staged; those of `.sc` order take tickets in lane order, after the warp's
earlier `.sc` accesses. -/
def Ctx.stageAll (c : Ctx) (s : State) (o : StoreOp) (all : Mask) (ps : List StorePart) : State :=
  (ps.foldl (c.stagePart o all) (if o.order = 4 then s.ticketAll c.w.gid c.w.widx else s)).bump

/-- R265, R390: a thread's sequence number and, for a release, its epoch. -/
def Thread.counted (t : Thread) (glob rel : Bool) : Thread :=
  { t with seqNo := if glob then t.seqNo + 1 else t.seqNo, epoch := if rel then t.epoch + 1 else t.epoch }

/-- R266: the largest horizon of some threads. -/
def Ctx.topHorizon (c : Ctx) (m : Mask) (scope : Nat) : Nat := (Mask.lanes m).foldl (fun h i => max h (c.w.threads[i].horizon scope)) 0

/-- R254, R266: the horizon that a release of a thread carries: for `strel` the largest of the active threads'. -/
def Ctx.hzOf (c : Ctx) (o : StoreOp) (all : Mask) (i : Fin 32) : Nat := if o.kind = .store then c.topHorizon all o.scope else c.w.threads[i].horizon o.scope

/-- R385: the threads among some whose writes find room in a buffer that holds the lines `seen` of their group and has `left` free places,
in lane order. -/
def fitting (atom : Bool) (ps : List StorePart) : List (Fin 32) → List Nat → Nat → Mask
  | [], _, _ => 0
  | i :: is, seen, left =>
    let mine := (ps.filter fun p => p.lane == i).filterMap fun p => match p.pl with | .glob t pa => some (lineKey t pa) | _ => none
    let new := if atom then mine else mine.eraseDups.filter fun k => !seen.contains k
    if new.length ≤ left then (maskOf fun j => j == i) ||| fitting atom ps is (seen ++ new) (left - new.length) else fitting atom ps is seen left

/-- R385: the threads of a staged store that find their buffer full (DEDUCED, log entry 106). -/
def Ctx.unroomed (c : Ctx) (s : State) (atom : Bool) (ps : List StorePart) : Mask :=
  if s.stageRoom c.w.gid c.core atom ps.length then 0
  else
    let seen := match s.group? c.w.gid with | some g => s.linesOf (dieOf c.core) g | none => []
    let left := if atom then 4096 - s.bufferedAtoms c.core (s.copyOf c.w.gid) else 524288 - s.stagedLines (dieOf c.core) (s.copyOf c.w.gid)
    c.act &&& ~~~ fitting atom ps (Mask.lanes c.act) seen left

/-- The accesses of a store are sent or staged; or the set does not issue (R219). `all` are the active threads, those that fault among
them. Threads that find their buffer full wait at the instruction (R385). -/
def Ctx.storeGo (c : Ctx) (o : StoreOp) (all : Mask) (parts : List StorePart) (s : State) : Option State :=
  let cls := s.classOf c.w
  let staged := s.stages c.w o.space && !parts.isEmpty
  let atom := o.kind != .store && cls == 2
  let full := if staged then c.unroomed s atom parts else 0
  let ps := parts.filter fun p => !full.getLsbD p.lane
  let es := ps.map fun p => p.sent (c.hzOf o all p.lane)
  let keys := storeKeys es
  let reqs := if staged then [] else makeReqs
    { id := 0, core := c.core, gid := c.w.gid, widx := c.w.widx, kind := o.kind, grp := 0, space := 0, unit := 0, tgt := .hbm, accs := []
      act := all, pc := c.pc, order := o.order, scope := o.scope, hint := o.hint, fresh := false, noAlloc := true, lease := 0, sluice := false
      epoch := 0, frontier := false, pend := if o.kind == .store then none else some s.fresh, weight := 0, stage := .posted } (o.order == 4) es
  if !s.roomFor c.core (weightOf reqs) then none
  else
    let s1 := (s.dropLines c.core keys).barFills c.core keys
    let s2 := if staged then c.stageAll s1 o all ps else s1
    let s4 := s2.modWarp c.wk fun w => w.modThreads (maskOf fun i => ps.any fun p => p.lane == i) fun _ t =>
      let t1 := t.counted (o.space == 0) (o.order == 2 || o.order == 3 || o.order == 4)
      if staged then t1.wrote s.ns s.ns else t1
    let s5 := (s4.countSent c.core reqs).postReqs reqs
    let go := { c with act := c.act &&& ~~~ full, set := c.set &&& ~~~ full }
    let s6 := if o.kind == .store then c.advance s5 full else go.awaitAcquire s5 (if go.act = 0 then 0 else o.order) s.fresh
    some (if full = 0 then s6 else ({ c with next := c.pc } : Ctx).hold s6 full fun _ => .buffer atom)

/-- The shared operation of stores: flags and traps first (R229; DESIGN CHOICE, log entry 92), then faults, then the rest is stored (R227). A
held thread stays at the instruction until the buffer has room (R385). -/
def storeOp (x : Ext) (o : StoreOp) (s : State) : State :=
  issuing x s fun c s1 =>
    if c.act = 0 then c.advance (c.executed s1)
    else
      let trapped := maskOf fun i => c.act.getLsbD i && c.w.threads[i].fpTraps (o.data c i).2
      let fs := c.storeFaults s1 x o (c.act &&& ~~~ trapped)
      let good := (c.act &&& ~~~ trapped) &&& ~~~ (maskOf fun i => fs.any fun f => f.1 == i)
      let ps := (Mask.lanes good).filterMap fun (i : Fin 32) =>
        match s1.place c.w i o.space (c.ea x i) o.n o.al .write with
        | .ok pl => some ({ lane := i, va := c.ea x i, ea := c.ea x i, pl := pl, bs := (o.data c i).1, b := o.b c i } : StorePart)
        | .error _ => none
      let c1 := { c with act := good }
      let s2 := c.noteAllStaged (if o.space = 0 then s1.useTlbs ((Mask.lanes c.act).map (c.ea x)) else s1) x o (c.act &&& ~~~ trapped)
      match c1.storeGo o c.act ps (c.executed s2 (refinement [c.srcRuns x.srcA] c.act)) with
      | none => s
      | some s2 =>
        let s3 := s2.modWarp c.wk fun w => w.modThreads c.act fun i t => t.raise (o.data c i).2 0
        c.parkAll (c.fault (s3.goTo c.wk (c.act &&& ~~~ good) c.pc) 0x06 trapped fun i => (o.data c i).2.setWidth 64) fs

/-- A store of the low bytes of a source. -/
def plainStore (space n hint order scope : Nat) (b : Src) : StoreOp :=
  { space := space, n := n, al := n, hint := hint, order := order, scope := scope, kind := .store
    data := fun c i => (bytesOfNat n ((c.src b i).toNat % 2 ^ (8 * n)), 0), b := fun _ _ => 0 }

def execSt (x : Ext) (s : State) : Out :=
  .next (storeOp x (plainStore (x.m 23 3) (sizeBytes (x.m 26 2)) (x.m 30 2) 0 0 (if x.lsel = 1 then x.srcB else .reg x.b)) s)

/-- R229: a thread's elements, narrowed, with the flags that they raise. -/
def stmxData (fmt ty : Nat) (ftz sat : Bool) (v : Word) : List Byte × BitVec 5 :=
  let g := tyFmt ty
  let rs := (elems (tyWidth ty) v).map fun u =>
    let e := g.toVal (g.read ftz u)
    let r := narrow fmt sat e
    (r.1, r.2 ||| (match e with | .nan true => flagNV | _ => 0))
  (rs.flatMap fun r => bytesOfNat (codeBits fmt / 8) r.1, rs.foldl (fun f r => f ||| r.2) 0)

def execStmx (x : Ext) (s : State) : Out :=
  let fmt := x.m 26 4
  let n := 64 / tyWidth x.ty.toNat * (codeBits fmt / 8)
  .next (storeOp x { space := x.m 23 3, n := n, al := n, hint := x.m 30 2, order := 0, scope := 0, kind := .store
                     data := fun c i => stmxData fmt x.ty.toNat (c.w.threads[i].flushes x.ty.toNat) x.sat (c.reg x.b i), b := fun _ _ => 0 } s)

/-- R226, R30: the compact stores store vB. -/
def compactStore (k : Compact) (space : Nat) (s : State) : State := storeOp (k.toExt 0) (plainStore space 8 0 0 0 (.reg k.b)) s

def execStGlobalCompact (c : Compact) (s : State) : Out := .next (compactStore c 0 s)
def execStScratchCompact (c : Compact) (s : State) : Out := .next (compactStore c 2 s)

/-! ### Compact register transfers (R230, R231) -/

/-- R79: a register record. -/
def regRecord (n : Nat) (rs : List Run) : List Byte :=
  bytesOfNat 1 n ++ bytesOfNat 1 rs.length ++ List.replicate 6 0
    ++ (rs.map fun r => BitVec.ofNat 8 r.count) ++ List.replicate ((rs.length + 7) / 8 * 8 - rs.length) 0
    ++ rs.flatMap fun r => bytesOfNat 8 r.value.toNat

/-- R231: the runs that a record holds, if it is well formed. -/
def readRecord (bs : List Byte) : Option (List Run) :=
  let n := (bs.getD 1 0).toNat
  let counts := ((bs.drop 8).take n).map BitVec.toNat
  let base := 8 + (n + 7) / 8 * 8
  let rs := counts.mapIdx fun k c => ({ value := BitVec.ofNat 64 (natOfBytes ((bs.drop (base + 8 * k)).take 8)), count := c } : Run)
  if 1 ≤ n ∧ n ≤ 32 ∧ counts.length = n ∧ counts.all (fun c => decide (1 ≤ c)) ∧ counts.sum = 32 then some rs else none

/-- The bytes of a record, from its run count. -/
def recordBytes (n : Nat) : Nat := 8 + (n + 7) / 8 * 8 + 8 * n

/-- R230: `stc`: the words of the record, as accesses of the lowest active thread. Where one of them faults, none is written (DESIGN CHOICE,
log entry 92). -/
def stcOp (x : Ext) (s : State) : State :=
  issuing x s fun c s1 =>
    match Mask.lowest c.act with
    | none => c.advance (c.executed s1)
    | some i0 =>
      let space := x.m 23 3
      let va := c.ea x i0
      let img := regRecord x.b.toNat c.w.regs[x.b.toFin].runs
      let words := (List.range (img.length / 8)).map fun k => (va + BitVec.ofNat 64 (8 * k), (img.drop (8 * k)).take 8)
      let one := maskOf fun i => i == i0
      let bad := words.findSome? fun e => match s1.place c.w i0 space e.1 8 8 .write with
        | .error cause => some (s1, cause, va)
        | .ok (.glob t pa) => if s1.stages c.w space then (s1.stagedFault .store va t pa).map fun f => (s1.noteStaged .store t pa 8, f) else none
        | .ok _ => none
      let used := fun (s : State) => c.executed (if space = 0 then s.useTlbs (words.map (·.1)) else s) 1
      match bad with
      | some (s2, cause, a) => c.fault (c.advance (used s2) one) cause one fun _ => a
      | none =>
        let ps := words.filterMap fun e => match s1.place c.w i0 space e.1 8 8 .write with
          | .ok pl => some ({ lane := i0, va := e.1, ea := va, pl := pl, bs := e.2, b := 0 } : StorePart)
          | .error _ => none
        (({ c with act := one } : Ctx).storeGo (plainStore space 8 0 0 0 (.reg x.b)) one ps (used s1)).getD s

def execStc (x : Ext) (s : State) : Out := .next (stcOp x s)

/-- R231: the words of a record that are still to be read, once its first word has come; none for one whose count is out of range. -/
def RecordRead.missing (r : RecordRead) : List Nat :=
  match Sparse.find r.words 0 with
  | none => []
  | some hd =>
    let n := (hd.getD 1 0).toNat
    if n = 0 ∨ 32 < n then [] else (List.range (recordBytes n / 8)).filter fun k => (Sparse.find r.words k).isNone

/-- R231: the record, once its words have come, or its fault: that of reading it, or a record that is not one. -/
def RecordRead.result (r : RecordRead) : Except (Nat × Word) (List Run) :=
  match r.fault with
  | some e => .error e
  | none => match readRecord (r.words.flatMap (·.2)) with | some rs => .ok rs | none => .error (0x08, r.va)

/-- R231: what the active threads receive from a record. -/
def recordOuts (r : Except (Nat × Word) (List Run)) (lane : Nat) (i : Fin 32) : LaneOut :=
  match r with
  | .ok rs => plain (runsGet rs i)
  | .error (0x08, a) => .fault 0x08 a
  | .error (cause, a) => if i.val = lane then .fault cause a else plain 0

/-- R231: a faulting lowest thread leaves the others without a record: they keep their destinations. -/
def recordActs (r : Except (Nat × Word) (List Run)) (act : Mask) (lane : Nat) : Mask :=
  match r with
  | .ok _ => act
  | .error (0x08, _) => act
  | .error _ => maskOf fun i => i.val == lane

/-- R231: a record that is not one leaves the destination unchanged: nothing is zeroed either. -/
def recordZero (r : Except (Nat × Word) (List Run)) (zero : Mask) : Mask := match r with | .error (0x08, _) => 0 | _ => zero

/-- The record that a pending result waits for has come, or has failed. -/
def Pending.recorded (p : Pending) (r : RecordRead) : Pending :=
  let act := recordActs r.result p.act r.lane
  { p.learn ((Mask.lanes act).map fun i => (i.val, recordOuts r.result r.lane i)) with
    act := act, left := act, zero := recordZero r.result p.zero, ldc := some r, form := match r.result with | .ok rs => some rs | .error _ => none }

/-- A word of a record, where it lies now: served by a line of the L1, to be sent, or the cause of its fault. -/
def State.recordPart (s : State) (core : Nat) (w : Warp) (r : RecordRead) (k : Nat) : Except Nat (L1Line × List Byte × Nat ⊕ Sent) :=
  let va := r.va + BitVec.ofNat 64 (8 * k)
  let acc := fun pa => ({ lane := r.lane, va := va, pa := pa, n := 8, data := [], b := 0, cmp := 0, mode := k, ticket := none, hz := 0 } : Access)
  match s.place w r.lane r.space va 8 8 .read with
  | .error cause => .error cause
  | .ok (.glob t pa) =>
    (match (if t.homed then s.l1Hit core (lineKey t pa) else none) with
     | some l => .ok (.inl (l, s.overlay w.gid t pa ((l.data.drop (pa % 128)).take 8), lineRel l.rel pa 8))
     | none => .ok (.inr { space := 0, unit := 0, tgt := t, acc := acc pa }))
  | .ok (.vault c off) => .ok (.inr { space := 1, unit := c, tgt := .hbm, acc := acc off })
  | .ok (.scratch off) => .ok (.inr { space := 2, unit := 0, tgt := .hbm, acc := acc off })

/-- What the reading of some words of a record comes to: the record, the L1 lines that served words with the release times they returned,
and what is to be sent. -/
structure RecordGot where
  rec_ : RecordRead
  hits : List (Nat × Nat)
  sent : List Sent

/-- Words of a record become known or requested; the first fault ends the read. -/
def State.recordParts (s : State) (core : Nat) (w : Warp) : List Nat → RecordRead → RecordGot
  | [], r => { rec_ := r, hits := [], sent := [] }
  | k :: ks, r =>
    match s.recordPart core w r k with
    | .error cause => { rec_ := { r with fault := some (cause, r.va) }, hits := [], sent := [] }
    | .ok (.inl (l, bs, rel)) =>
      let q := s.recordParts core w ks { r with words := Sparse.insert r.words k bs, served := r.served ++ [(k, l.line)] }
      { q with hits := (l.line, rel) :: q.hits }
    | .ok (.inr e) => let q := s.recordParts core w ks r; { q with sent := e :: q.sent }

/-- R218, R252: the L1 has served words of a record of a lane: their lines are used, and their release times return. -/
def State.recordHits (s : State) (wk lane : Nat) (hits : List (Nat × Nat)) : State :=
  if hits = [] then s
  else (s.modCore (wkCore wk) fun k => ((hits.map (·.1)).eraseDups).foldl (fun k l => k.useLine l 0) k).modWarp wk fun w =>
    w.modThreads (maskOf fun i => i.val == lane) fun _ t => { t with acqH := hits.foldl (fun h e => max h e.2) t.acqH }

/-- R219: the lines of what an instruction asks the L1 for. -/
def hitLines (hits : List (Nat × Nat)) : Nat := ((hits.map (·.1)).eraseDups).length

/-- What the requests of an `ldc` have in common. -/
def State.recordBase (s : State) (core : Nat) (w : Warp) (pid : Nat) (pc : Word) (act : Mask) : Request :=
  { id := 0, core := core, gid := w.gid, widx := w.widx, kind := .load .reg, grp := 0, space := 0, unit := 0, tgt := .hbm, accs := []
    act := act, pc := pc, order := 0, scope := 0, hint := 0, fresh := false, noAlloc := false
    lease := match s.launchOf w with | some l => l.kern.lease | none => 0
    sluice := false, epoch := 0, frontier := false, pend := some pid, weight := 0, stage := .posted }

/-- R231: an `ldc` goes on: the words that its count asks for are read, as the core has room for requests (R219), and the record is whole once
they have come (DEDUCED, log entry 94). -/
def State.recordStep (s : State) (wk id : Nat) : State :=
  match s.warp? wk with
  | none => s
  | some w =>
    match w.pend.find? fun p => p.id == id with
    | none => s
    | some p =>
      match p.ldc with
      | none => s
      | some r =>
        let set := fun (f : Pending → Pending) (s : State) => s.modWarp wk fun w => { w with pend := w.pend.map fun q => if q.id == id then f q else q }
        if p.outs ≠ [] then s
        else if r.fault.isSome then set (fun q => q.recorded r) s
        else if (Sparse.find r.words 0).isNone ∨ s.mem.reqs.any (fun q => q.pend == some id) then s
        else
          let q := s.recordParts (wkCore wk) w r.missing r
          let s1 := if r.space = 0 then s.useTlbs (r.missing.map fun k => r.va + BitVec.ofNat 64 (8 * k)) else s
          if q.rec_.fault.isSome ∨ q.sent.isEmpty then (set (fun p => p.recorded q.rec_) s1).recordHits wk r.lane q.hits
          else
            let reqs := makeReqs (s.recordBase (wkCore wk) w id p.pc p.act) false q.sent
            if !s.roomFor (wkCore wk) (weightOf reqs) then s
            else (((set (fun p => { p with ldc := some q.rec_ }) s1).recordHits wk r.lane q.hits).countSent (wkCore wk) reqs).postReqs reqs

/-- The words of a record that lie in the line of its first. -/
def firstWords (va : Word) : List Nat := (List.range 37).filter fun k => va.toNat % 128 + 8 * k < 128

/-- R231: `ldc`. The line of its first word is read first. -/
def ldcOp (x : Ext) (s : State) : State :=
  issuing x s fun c s1 =>
    match Mask.lowest c.act with
    | none => c.advance (c.executed (deliverTo s1 c.wk (.vec x.d) none 0 c.zero (fun _ => plain 0) c.pc fun _ => c.pc))
    | some i0 =>
      c.charged s1 x.d 32 fun s2 =>
        let va := c.ea x i0
        let r : RecordRead := { lane := i0, space := x.m 23 3, va := va, words := [], served := [], fault := none }
        let q := s2.recordParts c.core c.w (match s2.place c.w i0 (x.m 23 3) va 8 8 .read with | .ok _ => firstWords va | .error _ => [0]) r
        let ok := q.rec_.fault.isNone || (Sparse.find q.rec_.words 0).isSome || q.sent.any fun e => e.acc.mode == 0
        let r1 := if ok then { q.rec_ with fault := none } else q.rec_
        let reqs := makeReqs (s2.recordBase c.core c.w s2.fresh c.pc c.act) false (if ok then q.sent else [])
        if !s2.roomFor c.core (weightOf reqs + hitLines q.hits) then s
        else
          let s3 := c.outstanding (c.executed (if r.space = 0 then s2.useTlb va else s2) 1) { c.loadPending s2.fresh x.d with ldc := some r1 }
          c.advance ((((s3.recordHits c.wk i0 q.hits).countSent c.core reqs).postReqs reqs).recordStep c.wk s2.fresh)

def execLdc (x : Ext) (s : State) : Out := .next (ldcOp x s)

/-! ### Hints and cache control (R232, R233) -/

/-- R232: each line is requested once; threads that would fault do nothing. -/
def prefOp (x : Ext) (s : State) : State :=
  issuing x s fun c s1 =>
    let es := (Mask.lanes c.act).filterMap fun (i : Fin 32) =>
      match s1.place c.w i (x.m 23 3) (c.ea x i) 1 1 .read with
      | .ok (.glob t pa) =>
        if t.homed then
          some ({ space := 0, unit := 0, tgt := t
                  acc := { lane := i, va := c.ea x i, pa := pa / 128 * 128, n := 128, data := [], b := 0, cmp := 0, mode := 0, ticket := none, hz := 0 } } : Sent)
        else none
      | _ => none
    let reqs := makeReqs
      { id := 0, core := c.core, gid := c.w.gid, widx := c.w.widx, kind := .prefetch (x.mb 26), grp := 0, space := 0, unit := 0, tgt := .hbm, accs := []
        act := c.act, pc := c.pc, order := 0, scope := 0, hint := x.m 30 2, fresh := false, noAlloc := false
        lease := match s1.launchOf c.w with | some l => l.kern.lease | none => 0
        sluice := false, epoch := 0, frontier := false, pend := none, weight := 0, stage := .posted } false es
    if !s1.roomFor c.core (weightOf reqs) then s else c.advance (((c.executed (if x.m 23 3 = 0 then s1.useTlbs ((Mask.lanes c.act).map (c.ea x)) else s1) (refinement [c.srcRuns x.srcA] c.act)).countSent c.core reqs).postReqs reqs)

def execPref (x : Ext) (s : State) : Out := .next (prefOp x s)

/-- R233: the lines of the active threads, or the fault that each raises like a load. -/
def cctlOp (x : Ext) (s : State) (f : Nat → List Nat → State → State) : State :=
  issuing x s fun c s1 =>
    let rs := (Mask.lanes c.act).map fun i => (i, s1.resolve (c.ea x i) .read)
    let fs := rs.filterMap fun e => match e.2 with | .error cause => some (e.1, cause, c.ea x e.1) | .ok _ => none
    let keys := rs.filterMap fun e => match e.2 with | .ok (t, pa) => some (lineKey t pa) | .error _ => none
    let bad := maskOf fun i => fs.any fun f => f.1 == i
    c.parkAll (c.advance (f c.core keys (c.executed (s1.useTlbs ((Mask.lanes c.act).map (c.ea x))) (refinement [c.srcRuns x.srcA] c.act))) bad) fs

def execCctlInv (x : Ext) (s : State) : Out := .next (cctlOp x s fun core keys s => s.dropLines core keys)

/-- R233: `.demote` sets evict-first in the L1 and at the home slice. -/
def demoteLines (core : Nat) (keys : List Nat) (s : State) : State :=
  let s1 := s.modCore core fun k => { k with l1 := k.l1.map fun l => if keys.contains l.line then { l with prio := .evictFirst } else l }
  { s1 with mem := { s1.mem with lines := keys.foldl (fun p k => Sparse.modify p k fun l => { l with prio := .evictFirst }) s1.mem.lines } }

def execCctlDemote (x : Ext) (s : State) : Out := .next (cctlOp x s demoteLines)

/-- R233: `.clean`: the home slice writes the line back to memory (R223) and keeps it. -/
def cleanLines (_ : Nat) (keys : List Nat) (s : State) : State :=
  keys.foldl (fun s k => { s with mem := s.mem.writeBack k }) s

def execCctlClean (x : Ext) (s : State) : Out := .next (cctlOp x s cleanLines)

/-- R233: `.invall` drops every line of the core's L1 (DEDUCED, log entry 49). -/
def invallOp (x : Ext) (s : State) : State :=
  issuing x s fun c s1 => c.advance (if c.act = 0 then c.executed s1 else (c.executed s1).dropLines c.core ((s1.coreOf c.core).l1.map (·.line)))

def execCctlInvall (x : Ext) (s : State) : Out := .next (invallOp x s)

end Sys2Proof.Machine
end

