-- ==== Sys2Proof/Machine/Atomic.lean ====
section
/-! DEFINITION. Class 0x9, ordering, atomic and synchronisation instructions (spec 11, R255 to R271). -/

namespace Sys2Proof.Machine

/-! ### Atomics (R262 to R264) -/

/-- R261: the fields of MOD. -/
def ordOf (x : Ext) : Nat := x.m 29 3
def scopeOf (x : Ext) : Nat := x.m 26 3
def spaceOf (x : Ext) : Nat := x.m 23 3

/-- R261: the bytes that a TY accesses. -/
def atomBytes (ty : Nat) : Nat := if ty = 3 ∨ ty = 4 ∨ ty = 10 then 4 else 8

/-- R382: in strict class a value-returning global atomic is a bad handle. -/
def Ctx.strictGlobal (c : Ctx) (s : State) (x : Ext) : Bool := spaceOf x == 0 && s.classOf c.w == 2

/-- A value-returning atomic or `cas` of the active threads. -/
def rmwOp (x : Ext) (kind : ReqKind) (cmp : Src) (s : State) : State :=
  issuing x s fun c s1 =>
    if c.act = 0 then c.advance (c.executed (deliverTo s1 c.wk (.vec x.d) none 0 c.zero (fun _ => plain 0) c.pc fun _ => c.pc))
    else if c.strictGlobal s1 x then c.fault (c.advance (c.executed s1) c.act) 0x08 c.act fun _ => 0
    else
      c.charged s1 x.d 32 fun s2 =>
        let n := atomBytes x.ty.toNat
        let o : StoreOp := { space := spaceOf x, n := n, al := n, hint := 0, order := ordOf x, scope := scopeOf x, kind := kind, data := fun _ _ => ([], 0), b := fun _ _ => 0 }
        let fs := c.storeFaults s2 x o c.act
        let bad := maskOf fun i => fs.any fun f => f.1 == i
        let good := c.act &&& ~~~ bad
        let es := (Mask.lanes good).filterMap fun (i : Fin 32) =>
          match s2.place c.w i (spaceOf x) (c.ea x i) n n .write with
          | .ok pl => some (({ lane := i, va := c.ea x i, ea := c.ea x i, pl := pl, bs := List.replicate n 0, b := c.src x.srcB i } : StorePart).sent (c.hzOf o good i))
          | .error _ => none
        let es1 := es.map fun e => { e with acc := { e.acc with cmp := c.src cmp (Fin.ofNat 32 e.acc.lane), mode := c.w.threads[Fin.ofNat 32 e.acc.lane].seqNo } }
        let reqs := makeReqs
          { id := 0, core := c.core, gid := c.w.gid, widx := c.w.widx, kind := kind, grp := 0, space := 0, unit := 0, tgt := .hbm, accs := []
            act := good, pc := c.pc, order := ordOf x, scope := scopeOf x, hint := 0, fresh := true, noAlloc := true, lease := 0, sluice := false
            epoch := 0, frontier := spaceOf x == 0 && s2.classOf c.w == 1, pend := some s2.fresh, weight := 0, stage := .posted } (ordOf x == 4) es1
        if !s2.roomFor c.core (weightOf reqs) then s
        else
          let keys := storeKeys es1
          let s3 := ((c.executed (if spaceOf x = 0 then s2.useTlbs ((Mask.lanes c.act).map (c.ea x)) else s2) (refinement [c.srcRuns x.srcA] c.act)).dropLines c.core keys).barFills c.core keys
          let s4 := if good = 0 then deliverTo s3 c.wk (.vec x.d) none 0 c.zero (fun _ => plain 0) c.pc fun _ => c.pc else
            c.outstanding s3 { c.loadPending s2.fresh x.d with act := good, left := good }
          let s5 := s4.modWarp c.wk fun w => w.modThreads good fun _ t => t.counted (spaceOf x == 0) (decide (2 ≤ ordOf x))
          let s6 := ({ c with set := c.set &&& ~~~ bad } : Ctx).awaitAcquire ((s5.countSent c.core reqs).postReqs reqs) (if good = 0 then 0 else ordOf x) s2.fresh
          c.parkAll s6 fs

/-- R262: `.nr` stores its operand's effect and has no result. -/
def atomNrOp (x : Ext) (op : Nat) (flt sgn : Bool) (order scope space : Nat) (s : State) : State :=
  let n := atomBytes x.ty.toNat
  storeOp x { space := space, n := n, al := n, hint := 0, order := order, scope := scope, kind := .atom op flt sgn true
              data := fun _ _ => (List.replicate n 0, 0), b := fun c i => c.src x.srcB i } s

/-- R262: C holds the operation and `.nr`. -/
def atomOp (x : Ext) (s : State) : State :=
  let flt := decide (9 ≤ x.ty.toNat)
  let sgn := x.ty == 2 || x.ty == 4
  if x.c.getLsbD 5 then atomNrOp x (x.c.toNat % 16) flt sgn (ordOf x) (scopeOf x) (spaceOf x) s
  else rmwOp x (.atom (x.c.toNat % 16) flt sgn false) .none_ s

def execAtom (x : Ext) (s : State) : Out := .next (atomOp x s)

/-- R264. -/
def execCas (x : Ext) (s : State) : Out := .next (rmwOp x .cas x.srcC s)

/-- R265. -/
def execLdacq (x : Ext) (s : State) : Out :=
  .next (loadOp x { opc := 0x122, space := spaceOf x, n := atomBytes x.ty.toNat, al := atomBytes x.ty.toNat, conv := .zx, fresh := true
                    hint := 0, order := ordOf x, scope := scopeOf x, reuse := false } x.d s)

/-- R266. -/
def execStrel (x : Ext) (s : State) : Out :=
  .next (storeOp x (plainStore (spaceOf x) (atomBytes x.ty.toNat) 0 (ordOf x) (scopeOf x) (if x.lsel = 1 then x.srcB else .reg x.b)) s)

/-! ### Fences (R256, R257, R267) -/

/-- Every read of a thread has returned. -/
def State.readsBack (s : State) (gid widx lane : Nat) : Bool :=
  s.mem.reqs.all fun r => !(r.isOf gid widx lane && r.reads && (match r.kind with | .load _ => true | _ => r.stage == .posted || r.pend.isSome))

/-- R256: what a fence of an order waits for, in one thread. -/
def State.fenceClear (s : State) (w : Warp) (i : Fin 32) (order scope : Nat) : Bool :=
  (!(order == 2 || order == 3 || order == 4) || s.mayRelease w scope i)
    && (!(order == 1 || order == 3 || order == 4) || (s.readsBack w.gid w.widx i && s.timePasses w.threads[i].acqH))

/-- The threads that wait at a fence at an address. -/
def Warp.fenceAt (w : Warp) (pc : Word) : Mask := w.which fun t => t.pc == pc && (match t.waits with | some (.fence _ _ _) => true | _ => false)

/-- R257: the `.sc` threads of a fence take tickets in lane order. -/
def State.fenceTickets (s : State) (wk : Nat) (m : Mask) : State :=
  (Mask.lanes m).foldl (fun s i =>
    let n := s.mem.ticket
    { (s.modWarp wk fun w => w.modThreads (maskOf fun j => j == i) fun _ t =>
        match t.st with
        | .waiting (.fence o sc none) next => if o = 4 then { t with st := .waiting (.fence o sc (some n)) next } else t
        | _ => t) with
      mem := { s.mem with ticket := n + 1, ticketsOut := s.mem.ticketsOut ++ [n] } }) s

/-- A thread's fence ticket. -/
def Thread.fenceTicket (t : Thread) : Option Nat := match t.waits with | some (.fence _ _ n) => n | _ => none

/-- The `.sc` threads without a ticket. -/
def Warp.unticketed (w : Warp) (m : Mask) : Mask :=
  maskOf fun i => m.getLsbD i && (match w.threads[i].waits with | some (.fence 4 _ none) => true | _ => false)

/-- R256: a thread leaves a fence: an acquire order clears the acquire horizon (DEDUCED, log entry 39). -/
def Thread.fenced (t : Thread) : Thread :=
  match t.waits with
  | some (.fence 1 _ _) | some (.fence 3 _ _) | some (.fence 4 _ _) => { t with acqH := 0 }
  | _ => t

/-- The threads that wait at a fence at an address go on together once the conditions of all of them hold. -/
def State.tryFence (s : State) (wk : Nat) (pc : Word) : State :=
  match s.warp? wk with
  | none => s
  | some w =>
    let m := w.fenceAt pc
    let clear := (Mask.lanes m).all fun i => match w.threads[i].waits with | some (.fence o sc _) => s.fenceClear w i o sc | _ => true
    if m = 0 ∨ !clear then s
    else
      let s1 := s.fenceTickets wk (w.unticketed m)
      match s1.warp? wk with
      | none => s1
      | some w1 =>
        let mine := (Mask.lanes m).filterMap fun i => w1.threads[i].fenceTicket
        if s1.mem.ticketsOut.any fun t => !(mine.contains t) && s1.ticketHolds w.gid false t && mine.any fun n => decide (t < n) then s1
        else
          let s2 := { s1 with mem := { s1.mem with ticketsOut := s1.mem.ticketsOut.filter fun t => !(mine.contains t) } }
          ((s2.modWarp wk fun w => w.modThreads m fun _ t => t.fenced).release wk m).noteSync wk

/-- R267: `fence`: its thread set is held until the conditions hold; `.th` orders nothing. -/
def fenceOp (x : Ext) (s : State) : State :=
  issuing x s fun c s1 =>
    if c.act = 0 ∨ scopeOf x = 0 then c.advance (c.executed s1)
    else
      let s2 := c.hold (c.executed s1) c.set fun i => if c.act.getLsbD i then .fence (ordOf x) (scopeOf x) none else .fence 0 0 none
      (s2.modWarp c.wk fun w => w.modThreads c.act fun _ t => t.counted false (decide (2 ≤ ordOf x))).tryFence c.wk c.pc

def execFence (x : Ext) (s : State) : Out := .next (fenceOp x s)

/-- The addresses at which threads wait at fences. -/
def Warp.fencePcs (w : Warp) : List Word :=
  (((Mask.lanes (w.which fun t => match t.waits with | some (.fence _ _ _) => true | _ => false)).map fun i => w.threads[i].pc)).eraseDups

/-- R416: invalidations go on once the accesses that used what they removed have all been performed. -/
def State.wakeInvalidated (s : State) (wk : Nat) : State :=
  match s.warp? wk with
  | none => s
  | some w =>
    let m := w.which fun t => match t.waits with | some (.tlbinv ids) => !(s.mem.reqs.any fun r => ids.contains r.id && r.stage == .posted) | _ => false
    if m = 0 then s else s.release wk m

/-- R256: the fences of a warp whose conditions hold are complete. -/
def execFenceComplete (wk : Nat) (s : State) : Out :=
  .next (match s.warp? wk with
    | none => s
    | some w => (w.fencePcs.foldl (fun s pc => s.tryFence wk pc) s).wakeInvalidated wk)

/-! ### Barriers (R268, R269) -/

/-- The arrivals of the active threads, in lane order: the phase that each joined, or none for a count that differs. -/
def arriveAll (gid : Nat) (crew : Bool) (n count : Nat) : List (Fin 32) → State → State × List (Fin 32 × Option Nat)
  | [], s => (s, [])
  | i :: is, s =>
    match s.arrive gid crew n count with
    | none => let r := arriveAll gid crew n count is s; (r.1, (i, none) :: r.2)
    | some (s1, p) => let r := arriveAll gid crew n count is s1; (r.1, (i, some p) :: r.2)

/-- The lanes of a list of arrivals for which a condition holds. -/
def arrivedWhere (rs : List (Fin 32 × Option Nat)) (p : Option Nat → Bool) : Mask := maskOf fun i => rs.any fun r => r.1 == i && p r.2

/-- The phase that a lane joined. -/
def joined (rs : List (Fin 32 × Option Nat)) (i : Fin 32) : Nat := ((rs.find? fun r => r.1 == i).bind (·.2)).getD 0

/-- R269: `bar` and `barr`. An arrival is a release: the set issues once the active threads' earlier accesses allow it (DEDUCED, log entry 42). -/
def barOp (x : Ext) (wait : Bool) (s : State) : State :=
  issuing x s fun c s1 =>
    let crew := scopeOf x == 3
    let n := x.b.toNat
    let go := fun (s2 : State) =>
      if c.act = 0 then c.advance (c.executed (if wait then s2 else deliverTo s2 c.wk (.vec x.d) none 0 c.zero (fun _ => plain 0) c.pc fun _ => c.pc))
      else if !((Mask.lanes c.act).all fun i => s2.mayRelease c.w (scopeOf x) i) then s
      else
        let r := arriveAll c.w.gid crew n x.l32.toNat (Mask.lanes c.act) (c.advance (c.executed s2) (if wait then c.act else 0))
        let ok := arrivedWhere r.2 Option.isSome
        let bad := arrivedWhere r.2 Option.isNone
        let s3 := r.1.modWarp c.wk fun w => w.modThreads ok fun _ t => t.counted false true
        let phase := (s3.barrier c.w.gid crew n).phase
        let stay := if wait then maskOf fun i => ok.getLsbD i && decide (phase ≤ joined r.2 i) else 0
        let s4 := if wait then c.hold (s3.goTo c.wk (ok &&& ~~~ stay) c.next) stay fun i => .bar crew n (joined r.2 i)
                  else deliverTo s3 c.wk (.vec x.d) none ok c.zero (fun i => plain (BitVec.ofNat 64 (joined r.2 i))) c.pc fun _ => c.pc
        let s5 := if wait && stay != ok then (s4.clearAcq c.wk (ok &&& ~~~ stay)).noteSync c.wk else s4
        ((c.fault (s5.goTo c.wk bad c.pc) 0x0A bad fun _ => 0)).settle c.wk
    if wait then go s1 else c.charged s1 x.d 32 go

def execBar (x : Ext) (s : State) : Out := .next (barOp x true s)
def execBarr (x : Ext) (s : State) : Out := .next (barOp x false s)

/-- R269: `barw`. -/
def barwOp (x : Ext) (s : State) : State :=
  issuing x s fun c s1 =>
    let crew := scopeOf x == 3
    let n := x.b.toNat
    let phase := (s1.barrier c.w.gid crew n).phase
    let bad := maskOf fun i => c.act.getLsbD i && decide (phase + 1 < (c.reg x.a i).toNat)
    let stay := (c.act &&& ~~~ bad) &&& maskOf fun i => decide (phase ≤ (c.reg x.a i).toNat)
    let s2 := c.hold (c.advance (c.executed s1 (refinement [c.srcRuns x.srcA] c.act)) (bad ||| stay)) stay fun i => .bar crew n (c.reg x.a i).toNat
    let s3 := if c.act &&& ~~~ bad &&& ~~~ stay = 0 then s2 else (s2.clearAcq c.wk (c.act &&& ~~~ bad &&& ~~~ stay)).noteSync c.wk
    let s4 := c.fault s3 0x08 bad fun _ => 0
    if c.act = 0 then s4 else s4.settle c.wk

def execBarw (x : Ext) (s : State) : Out := .next (barwOp x s)

/-! ### Waiting on a value (R271) -/

/-- R271: a condition of `waitv`, on values of `n` bytes. -/
def waitCond (cond n m b : Nat) : Bool :=
  let w := 8 * n
  match cond with
  | 0 => m == b
  | 1 => m != b
  | 2 => decide (b ≤ m)
  | 3 => decide (m < b)
  | 4 => decide (toSigned w b ≤ toSigned w m)
  | _ => decide (toSigned w m < toSigned w b)

/-- Watches are numbered and join the list. -/
def State.addWatches (s : State) (ws : List Watch) : State :=
  { s with fresh := s.fresh + ws.length, mem := { s.mem with watches := s.mem.watches ++ ws.mapIdx fun k w => { w with id := s.fresh + k } } }

/-- A watch of a thread at a place, or on a fault that its read will meet (R271). -/
def Ctx.watchAt (c : Ctx) (i : Fin 32) (va : Word) (pl : Except Nat Place) (n cond : Nat) (b : Word) (acq : Bool) (d : BitVec 6) (slot : Option Nat) : Watch :=
  let w : Watch := { id := 0, gid := c.w.gid, widx := c.w.widx, lane := i, slot := slot, d := d, cond := cond, n := n, b := b, acq := acq, va := va
                     tgt := .hbm, space := 0, unit := 0, pa := 0, notified := true, pc := c.pc, flt := none }
  match pl with
  | .ok (.glob t pa) => { w with tgt := t, pa := pa }
  | .ok (.vault core off) => { w with space := 1, unit := core, pa := off }
  | .ok (.scratch off) => { w with space := 2, pa := off }
  | .error cause => { w with flt := some cause }

/-- The watches of an issue's active threads. -/
def Ctx.watches (c : Ctx) (s : State) (x : Ext) (space n cond : Nat) (b : Src) (acq : Bool) (d : BitVec 6) (slot : Option Nat) : List Watch :=
  (Mask.lanes c.act).map fun (i : Fin 32) => c.watchAt i (c.ea x i) (s.place c.w i space (c.ea x i) n n .read) n cond (c.src b i) acq d slot

/-- R42, R271: each active thread waits until its location meets its condition; the results are outstanding until then (DEDUCED, log entry 80). -/
def waitvOp (x : Ext) (s : State) : State :=
  issuing x s fun c s1 =>
    if c.act = 0 then c.advance (c.executed (deliverTo s1 c.wk (.vec x.d) none 0 c.zero (fun _ => plain 0) c.pc fun _ => c.pc))
    else
      c.charged s1 x.d 32 fun s2 =>
        let n := atomBytes x.ty.toNat
        let ws := c.watches s2 x (spaceOf x) n x.c.toNat x.srcB (ordOf x == 1) x.d none
        if !s2.roomFor c.core (watchLines ws) then s
        else
          let s3 := deliverTo (c.advance (c.executed (if spaceOf x = 0 then s2.useTlbs ((Mask.lanes c.act).map (c.ea x)) else s2) (refinement [c.srcRuns x.srcA] c.act)) c.act) c.wk (.vec x.d) none 0 c.zero (fun _ => plain 0) c.pc fun _ => c.pc
          let s4 := (s3.addWatches ws).count c.core 0x08 (watchLines (ws.filter fun w => w.space == 0 && w.tgt.homed))
          let ids := ws.mapIdx fun k w => (w.lane, s3.fresh + k)
          c.hold (c.outstanding s4 { c.loadPending s4.fresh x.d with zero := 0, watch := true }) c.act fun i => .value (((ids.find? fun e => e.1 == i.val).map (·.2)).getD 0)

def execWaitv (x : Ext) (s : State) : Out := .next (waitvOp x s)

/-- The bytes at a watch's location, at the point of performance; none for a line that fails. -/
def State.watchBytes (s : State) (w : Watch) : Option (List Byte) :=
  match w.space with
  | 0 =>
    match s.lineBad w.tgt w.pa with
    | some 4 => none
    | some _ => some (List.replicate w.n 0)
    | none => some (s.overlay w.gid w.tgt w.pa (s.rawBytes w.tgt w.pa w.n))
  | 1 => some ((s.coreOf w.unit).vault.bytes w.pa w.n)
  | _ => match s.group? w.gid with | some g => some (g.scratch.bytes w.pa w.n) | none => none

/-- R254: the release time at a watch's location. -/
def State.watchRel (s : State) (w : Watch) : Nat :=
  match w.space with
  | 0 => s.relAt w.tgt w.pa w.n
  | 1 => (Sparse.find (s.coreOf w.unit).vaultRel (w.pa / 8)).getD 0
  | _ => match s.group? w.gid with | some g => (Sparse.find g.scratchRel (w.pa / 8)).getD 0 | none => 0

/-- R246, R259: nothing of the watching warp's core is still on its way to the location's line. An atomic that waits until its group is the
frontier group has not entered the path (R383). -/
def State.watchClear (s : State) (w : Watch) (core : Nat) : Bool :=
  s.mem.reqs.all fun r => !(r.stage == .posted && r.space == w.space && (!r.frontier || r.gid == w.gid) &&
    (match w.space with
     | 0 => r.core == core && r.tgt == w.tgt && r.accs.any fun a => a.pa / 128 == w.pa / 128
     | 1 => r.core == core && r.unit == w.unit
     | _ => r.gid == w.gid && r.widx == w.widx))

def State.dropWatch (s : State) (id : Nat) : State := { s with mem := { s.mem with watches := s.mem.watches.filter fun w => w.id != id } }

/-- R222, R227, R271, R431: the fault that a watch's read meets now: cause and address. -/
def State.watchFault (s : State) (w : Watch) : Option (Nat × Word) :=
  let line := BitVec.ofNat 64 (w.pa / 128 * 128)
  match w.flt with
  | some cause => some (cause, w.va)
  | none =>
    match (if w.space = 0 then s.peerFault w.tgt w.pa else none) with
    | some 0x13 => some (0x13, line)
    | some cause => some (cause, w.va)
    | none => if (s.watchBytes w).isNone then some (0x13, line) else none

/-- The result for which threads of a warp wait at a `waitv`. -/
def State.watched (s : State) (wk : Nat) (m : Mask) (f : State → Nat → State) : State :=
  match s.warp? wk with
  | none => s
  | some w => match w.pend.find? fun p => p.watch && p.left &&& m != 0 with | some p => f s p.id | none => s

/-- Lanes of an outstanding result learn what they receive. -/
def State.learnLanes (s : State) (wk id : Nat) (outs : List (Nat × LaneOut)) : State :=
  s.modWarp wk fun w => { w with pend := w.pend.map fun p => if p.id == id then p.learn outs else p }

/-- R271: a notified thread reads again: it is released with the value, or waits for the next notice. A fault is met when the result would
be written (R227). -/
def State.notifyWatch (s : State) (wk : Nat) (w : Watch) : State :=
  let m := maskOf fun i => i.val == w.lane
  if !w.notified || !s.watchClear w (wkCore wk) then s
  else
    match s.watchFault w with
    | some (cause, addr) =>
      let s1 := if w.flt.isSome ∨ cause ≠ 0x13 then s else if (s.peerFault w.tgt w.pa).isSome then s.linkErr w.tgt else s.noteBad (w.pa / 128) 4 (sectorMask w.pa w.n)
      ((s1.dropWatch w.id).parkStill wk { cause := cause, pc := w.pc, mask := m } (fun _ => addr) fun _ => w.pc).watched wk m fun s id => s.forgetLane wk id m
    | none =>
      let bs := (s.watchBytes w).getD []
      let s := if w.space = 0 then match s.lineBad w.tgt w.pa with | some k => s.noteBad (w.pa / 128) k (sectorMask w.pa w.n) | none => s.touchHome w.tgt w.pa 0 else s
      let v := natOfBytes bs
      if !waitCond w.cond w.n v (w.b.toNat % 2 ^ (8 * w.n)) then
        { s with mem := { s.mem with watches := s.mem.watches.map fun q => if q.id == w.id then { q with notified := false } else q } }
      else
        let rel := s.watchRel w
        let s1 := (((s.dropWatch w.id).dropLines (wkCore wk) (if w.space = 0 then [lineKey w.tgt w.pa] else [])).barOlder (wkCore wk) (lineKey w.tgt w.pa) s.mem.uses).watched wk m fun s id => (s.learnLanes wk id [(w.lane, plain (BitVec.ofNat 64 v))]).writePending wk id m
        if w.acq then
          s1.modWarp wk fun q => q.modThreads m fun _ t => match t.st with | .waiting _ next => { t with st := .waiting (.acquire w.id rel) next } | _ => t
        else (s1.modWarp wk fun q => q.modThreads m fun _ t => { t with acqH := max t.acqH rel }).release wk m

def execWaitvNotify (wk lane : Nat) (s : State) : Out :=
  .next (match s.warp? wk with
    | none => s
    | some q =>
      match s.mem.watches.find? fun w => w.gid == q.gid && w.widx == q.widx && w.lane == lane && w.slot.isNone with
      | some w => s.notifyWatch wk w
      | none => s)

/-- R255: the threads of a warp whose acquires are complete: their reads have returned and device time has passed the release
times that they returned. -/
def State.acquired (s : State) (w : Warp) : Mask :=
  w.which fun t => match t.waits with
    | some (.acquire id u) => s.timePasses u && s.mem.reqs.all fun r => r.pend != some id
    | _ => false

def execAcquireComplete (wk : Nat) (s : State) : Out :=
  .next (match s.warp? wk with
    | none => s
    | some w => if s.acquired w = 0 then s else ((s.release wk (s.acquired w)).clearAcq wk (s.acquired w)).noteSync wk)

end Sys2Proof.Machine
end

