-- ==== Sys2Proof/Machine/MemEvents.lean ====
section
/-! DEFINITION. The steps of the memory paths: reads and writes performed at home slices, vault ports and scratchpad banks, fills, lease
ends, times that return, tickets, and the results written (spec 10, R215 to R222; 11, R252 to R257; 02, R42 to R44). A step whose
conditions do not hold changes nothing. -/

namespace Sys2Proof.Machine

/-- R42: an outstanding result is written in some of its lanes; a record that waited for room in the request limit is read on (R219, R231). A
`waitv` writes its own results (R271). -/
def execLongLatencyResultWrite (wk id : Nat) (lanes : Mask) (s : State) : Out := .next ((s.recordStep wk id).writePending wk id lanes)

/-! ### Reads -/

/-- R254: the release times of a line's locations. -/
def State.lineRels (s : State) (t : Target) (pa : Nat) : List Nat := (lineLocs t pa).map fun l => (Sparse.find s.mem.rel l).getD 0

/-- The sectors that a request touches (R224). -/
def Request.sectors (r : Request) : Nat := r.accs.foldl (fun m a => m ||| sectorMask a.pa (min a.n (128 - a.pa % 128))) 0

/-- R216, R222, R254: a read of a line is performed: the home slice holds the line from now on and grants a lease, which counts from this
moment, the fill's (DESIGN CHOICE, log entry 92). -/
def State.readLine (s : State) (r : Request) (a : Access) : State :=
  let line := a.pa / 128
  let s1 := s.touchHome r.tgt a.pa r.hint
  let bad := s1.lineBad r.tgt a.pa
  let s2 := match bad with | some k => s1.noteBad line k r.sectors | none => s1
  let data := match bad with | some 4 => [] | some _ => List.replicate 128 0 | none => s1.rawBytes r.tgt (line * 128) 128
  let ends := s.ns + r.lease
  let key := lineKey r.tgt a.pa
  let s3 := if r.tgt.homed && !r.fresh && bad != some 4 then
      { s2 with mem := { s2.mem with leases := Sparse.insert s2.mem.leases key (max (ends + 4) ((Sparse.find s2.mem.leases key).getD 0)) } }
    else s2
  ({ s3 with mem := { s3.mem with uses := s3.mem.uses + 1 } }).setReq r.id fun q => { q with stage := .performed s.ns ends data (s1.lineRels r.tgt a.pa) s3.mem.uses }

/-- R227, R231: the read of a record has failed: its address is the effective address, or that of the line for 0x13. -/
def Pending.failRecord (p : Pending) (cause : Nat) (addr : Word) : Pending :=
  match p.ldc with
  | some q => if p.outs ≠ [] then p else p.recorded { q with fault := some (cause, if cause = 0x13 then addr else q.va) }
  | none => p

/-- R227, R431: a request that a link does not carry, or that the other device refuses: its threads take the fault, where they wait for
a result when the result would be written, and otherwise at the instruction, as far as they still run. -/
def State.refuse (s : State) (r : Request) (cause : Nat) : State :=
  let addr := fun (a : Access) => if cause = 0x13 then BitVec.ofNat 64 (a.pa / 128 * 128) else a.va
  let s1 := if cause = 0x13 then s.linkErr r.tgt else s
  let s2 := match r.pend, r.kind, s.warpOfReq r with
    | _, .atom _ _ _ true, some wk =>
      s1.parkStill wk { cause := cause, pc := r.pc, mask := maskOf fun i => r.accs.any fun (a : Access) => a.lane == i.val }
        (fun i => match r.accs.find? fun (a : Access) => a.lane == i.val with | some a => addr a | none => 0) fun _ => r.pc
    | some id, .load .reg, some wk =>
      (s1.modWarp wk fun w => { w with pend := w.pend.map fun (p : Pending) => if p.id == id then p.failRecord cause (match r.accs with | a :: _ => addr a | [] => 0) else p })
    | some _, _, _ => s1.arriveOuts r (r.accs.map fun (a : Access) => (a.lane, LaneOut.fault cause (addr a))) [] s.ns
    | none, .prefetch _, _ => s1
    | none, _, some wk =>
      s1.parkStill wk { cause := cause, pc := r.pc, mask := maskOf fun i => r.accs.any fun (a : Access) => a.lane == i.val }
        (fun i => match r.accs.find? fun (a : Access) => a.lane == i.val with | some a => addr a | none => 0) fun _ => r.pc
    | none, _, none => s1
  (s2.dropReq r.id).reportTickets r

/-- R430: what a link makes of a request. -/
def State.refusal (s : State) (r : Request) : Option Nat :=
  if r.space ≠ 0 then none else match r.accs with | a :: _ => s.peerFault r.tgt a.pa | [] => none

/-- R216: a read is performed at its home slice, or at the home agent of host or peer memory. -/
def State.performRead (s : State) (r : Request) : State :=
  if !(s.canPerform r) || r.space != 0 then s
  else
    match s.refusal r, r.kind, r.accs with
    | some cause, _, _ => s.refuse r cause
    | none, .load _, a :: _ => (s.readLine r a).reportTickets r
    | none, .prefetch true, a :: _ => (s.touchHome r.tgt a.pa r.hint).dropReq r.id
    | none, .prefetch false, a :: _ => s.readLine r a
    | _, _, _ => s

def execHomeSliceRead (id : Nat) (s : State) : Out := .next (match s.req? id with | some r => s.performRead r | none => s)

/-- R215, R259: a line enters the L1, unless its lease has ended, the request may not allocate, or the L1 holds what a later read brought
(R246). It takes a free way of its set, or the victim's (R15, R218). -/
def State.allocate (s : State) (r : Request) (a : Access) (ends : Nat) (data : List Byte) (rels : List Nat) (no : Nat) : State :=
  let key := lineKey r.tgt a.pa
  let s := s.killStale r.core key no
  let held := (s.coreOf r.core).l1.find? fun l => l.line == key
  if r.fresh then (s.dropLines r.core [key]).barOlder r.core key no
  else if r.noAlloc || !r.tgt.homed || data.isEmpty || decide (ends ≤ s.ns) || (match held with | some l => decide (no < l.no) | none => false) then s
  else
    let s1 := (match r.kind with | .prefetch _ => s.dropLines r.core [key] | _ => s).barOlder r.core key no
    let way := (s1.coreOf r.core).makeWay key (s1.l1Ways r.core) (Config.freeNat s1.fresh)
    s1.modCore r.core fun k =>
      { k with l1 := { line := key, data := data, lease := ends, prio := LinePrio.after (held.map (·.prio)) r.hint, rel := rels, way := way.1, no := no } :: way.2 }

/-- R226, R222: what a thread receives from a line. -/
def State.lineOut (s : State) (r : Request) (conv : LoadConv) (data : List Byte) (a : Access) : LaneOut :=
  if data = [] then .fault 0x13 (BitVec.ofNat 64 (a.pa / 128 * 128))
  else convOut conv a.mode (s.overlay r.gid r.tgt a.pa ((data.drop (a.pa % 128)).take a.n))

/-- R231: the words of a record that a line brings. -/
def State.recordWords (s : State) (r : Request) (data : List Byte) (p : Pending) : Pending :=
  match p.ldc with
  | none => p
  | some q =>
    if data = [] then p.failRecord 0x13 (match r.accs with | a :: _ => BitVec.ofNat 64 (a.pa / 128 * 128) | [] => 0)
    else
      { p with ldc := some { q with words := r.accs.foldl (fun m a =>
          Sparse.insert m a.mode (s.overlay r.gid r.tgt a.pa ((data.drop (a.pa % 128)).take a.n))) q.words } }

/-- R231: a record's words arrive; it is whole, or its other words are read. -/
def State.arriveRecord (s : State) (r : Request) (f : Pending → Pending) : State :=
  match r.pend, s.warpOfReq r with
  | some id, some wk => ((s.modWarp wk fun w => { w with pend := w.pend.map fun p => if p.id == id then f p else p }).dropReq r.id).recordStep wk id
  | _, _ => s.dropReq r.id

/-- R426: a read that came over the host port or a link is answered once device time has passed the release time that it found. -/
def State.answerRead (s : State) (r : Request) : State :=
  match r.stage with
  | .performed _ _ _ rels _ => if rels.all s.timePasses then s.dropReq r.id else s
  | _ => s

/-- R215: the line of a performed read arrives at the core. -/
def State.fillLine (s : State) (r : Request) : State :=
  match r.stage, r.kind, r.accs with
  | .performed _ ends data rels no, .load .reg, a :: _ =>
    ((s.allocate r a ends data rels no).arriveRel r (r.accs.map fun b => (b.lane, lineRel rels b.pa b.n))).arriveRecord r (s.recordWords r data)
  | .performed p ends data rels no, .load conv, a :: _ =>
    let outs := r.accs.map fun b => (b.lane, s.lineOut r conv data b)
    let s1 := s.allocate r a ends data rels no
    let s2 := s1.arriveOuts r outs (if r.fresh ∨ !r.tgt.homed then [] else [{ key := lineKey r.tgt a.pa, lease := ends, no := no }]) p
    (s2.arriveRel r (r.accs.map fun b => (b.lane, lineRel rels b.pa b.n))).dropReq r.id
  | .performed _ ends data rels no, .prefetch _, a :: _ => (s.allocate r a ends data rels no).dropReq r.id
  | _, _, _ => s

def execL1Fill (id : Nat) (s : State) : Out :=
  .next (match s.req? id with | some r => if r.gid = outsideGid then s.answerRead r else s.fillLine r | none => s)

/-- R215: the L1 drops a line whose lease has ended. -/
def execL1LeaseExpiry (core line : Nat) (s : State) : Out :=
  .next (if (s.coreOf core).l1.any fun l => l.line == line && decide (l.lease ≤ s.ns) then s.dropLines core [line] else s)

/-! ### Writes -/

/-- R254: how a write stamps its locations. -/
def Request.stamp (r : Request) (a : Access) : Stamp :=
  match r.kind with
  | .store => if 2 ≤ r.order then .strel a.hz else .plain
  | _ => if 2 ≤ r.order then .rmwRel a.hz else .rmw

/-- R262, R264: what an access writes over old bytes: nothing where a `cas` fails; with flags of a float atomic. -/
def Request.newBytes (r : Request) (a : Access) (old : List Byte) : Option (List Byte) × BitVec 5 :=
  let o := natOfBytes old
  match r.kind with
  | .atom op flt sgn _ => let v := atomNew op a.n flt sgn o a.b.toNat; (some (bytesOfNat a.n v.1), v.2)
  | .cas => (if o = a.cmp.toNat % 2 ^ (8 * a.n) then some (bytesOfNat a.n (a.b.toNat % 2 ^ (8 * a.n))) else none, 0)
  | _ => (some a.data, 0)

/-- An access as it stands once it is performed: an atomic keeps the bytes it read; an empty list marks a line that failed (R263). -/
def Access.read (a : Access) (old : List Byte) : Access := { a with data := old }

/-- R239, R262: one write is performed at its home slice. Part of a line with an ECC error is not written for a thread that can still be
told (R222; DEDUCED, log entry 92). -/
def State.writeOne (s : State) (r : Request) (a : Access) : State × Access :=
  match r.kind with
  | .store =>
    if s.lineBad r.tgt a.pa = some 4 ∧ a.n < 128 ∧ !r.sluice then (s, a.read [])
    else (s.performWrite r.tgt a.pa a.data (r.stamp a) r.hint, a)
  | _ =>
    match s.lineBad r.tgt a.pa with
    | some 4 => (s, a.read [])
    | bad =>
      let old := match bad with | some _ => List.replicate a.n 0 | none => s.rawBytes r.tgt a.pa a.n
      match (r.newBytes a old).1 with
      | some bs => (s.performWrite r.tgt a.pa bs (r.stamp a) r.hint, a.read old)
      | none => (s, a.read old)

/-- R222: a request to a line that is malformed or has failed appends one entry, where it reads the line or writes part of one that has failed. -/
def State.noteRequest (s : State) (r : Request) : State :=
  match r.accs with
  | [] => s
  | a :: _ =>
    match s.lineBad r.tgt a.pa, r.kind with
    | some 4, _ => s.noteBad (a.pa / 128) 4 r.sectors
    | some _, .store => s
    | some k, _ => s.noteBad (a.pa / 128) k r.sectors
    | none, _ => s

/-- R217: one write is performed at a vault port or a scratchpad bank. -/
def State.writeLocal (s : State) (r : Request) (a : Access) : State × Access :=
  let old := if r.space = 1 then (s.coreOf r.unit).vault.bytes a.pa a.n else match s.group? r.gid with | some g => g.scratch.bytes a.pa a.n | none => []
  let put := fun (bs : List Byte) =>
    if r.space = 1 then (s.performVault r.unit a.pa bs (r.stamp a)).killReuse r.unit [vaultLine r.unit a.pa]
    else s.performScratch r.gid a.pa bs (r.stamp a)
  match r.kind, (r.newBytes a old).1 with
  | .store, some bs => (put bs, a)
  | _, some bs => (put bs, a.read old)
  | _, none => (s, a.read old)

/-- The accesses of a request, in lane order. -/
def performAll (one : State → Access → State × Access) : List Access → State → State × List Access
  | [], s => (s, [])
  | a :: as, s =>
    let r := one s a
    let q := performAll one as r.1
    (q.1, r.2 :: q.2)

/-- The latest release time of an access's locations (R240, R254). -/
def State.accRel (s : State) (r : Request) (a : Access) : Nat :=
  match r.space with
  | 0 => s.relAt r.tgt a.pa a.n
  | 1 => relOver (s.coreOf r.unit).vaultRel 0 a.pa a.n
  | _ => match s.group? r.gid with | some g => relOver g.scratchRel 0 a.pa a.n | none => 0

/-- R258: a write of a group's launch completes at a time. -/
def State.noteDone (s : State) (gid c : Nat) : State :=
  match s.group? gid with
  | some g => s.modLaunch g.launch fun l => { l with lastDone := max l.lastDone c }
  | none => s

/-- R252: a write that may be performed is performed; its times are on their way back. -/
def State.performNow (s : State) (r : Request) : State :=
  let rels := r.accs.map fun a => s.accRel r a
  let q := performAll (fun s a => if r.space = 0 then s.writeOne r a else s.writeLocal r a) r.accs (if r.space = 0 then s.noteRequest r else s)
  let c := if r.space = 0 then r.accs.foldl (fun c a => max c (s.completion r.tgt a.pa)) s.ns else s.ns
  let s1 := match (if r.sluice then s.group? r.gid else none) with | some g => (q.1.dropLines g.core r.lines).barFills g.core r.lines | none => q.1
  ((s1.noteDone r.gid c).setReq r.id fun o => { o with accs := q.2, stage := .performed s.ns c [] rels 0 }).reportTickets r

/-- R227: the requests of one `stc`, which one thread makes of several lines: it writes all of its record, or faults and writes nothing. -/
def State.recordUnit (s : State) (r : Request) : List Request :=
  match r.kind, r.accs with
  | .store, a :: _ => if r.sluice || r.order != 0 then [r] else s.mem.reqs.filter fun q => q.grp == r.grp && q.core == r.core && q.kind == .store && !q.sluice && q.accs.any fun b => b.lane == a.lane
  | _, _ => [r]

/-- R222, R227, R430: what a store's request meets at its point of performance. -/
def State.storeFailure (s : State) (r : Request) : Option Nat :=
  match s.refusal r, r.accs with
  | some cause, _ => some cause
  | none, a :: _ => if r.space = 0 ∧ s.lineBad r.tgt a.pa = some 4 then some 0x13 else none
  | none, [] => none

/-- Each of the requests of an `stc` can be performed, those of the same instruction apart. -/
def State.unitClear (s : State) (rs : List Request) : Bool :=
  let s1 := { s with mem := { s.mem with reqs := s.mem.reqs.filter fun q => !(rs.any fun r => r.id == q.id) } }
  rs.all fun r => s1.canPerform r

/-- R252: a write is performed, with the others of its `stc`. -/
def State.performWriteReq (s : State) (r : Request) : State :=
  let us := s.recordUnit r
  if 1 < us.length then
    if !(s.unitClear us) then s
    else
      match us.find? fun q => (s.storeFailure q).isSome with
      | some q => us.foldl (fun s p => s.dropReq p.id) ((if (s.refusal q).isSome then s else s.noteRequest q).refuse q ((s.storeFailure q).getD 0))
      | none => us.foldl State.performNow s
  else if !(s.canPerform r) || !r.writes then s
  else if (s.refusal r).isSome then s.refuse r ((s.refusal r).getD 0)
  else s.performNow r

/-- The bytes of a vault or of the scratchpad that an access reads. -/
def State.localBytes (s : State) (r : Request) (a : Access) : List Byte :=
  if r.space = 1 then (s.coreOf r.unit).vault.bytes a.pa a.n else match s.group? r.gid with | some g => g.scratch.bytes a.pa a.n | none => []

/-- R217: a load of a vault or of the scratchpad. -/
def State.readLocal (s : State) (r : Request) : State :=
  if !(s.canPerform r) then s
  else
    match r.kind, r.accs with
    | .load .reg, _ =>
      ((s.arriveRel r (r.accs.map fun a => (a.lane, s.accRel r a))).arriveRecord r fun p =>
        { p with ldc := p.ldc.map fun q => { q with words := r.accs.foldl (fun m a => Sparse.insert m a.mode (s.localBytes r a)) q.words } }).reportTickets r
    | .load conv, _ =>
      let bytes := fun (a : Access) => s.localBytes r a
      let s1 := s.arriveOuts r (r.accs.map fun a => (a.lane, convOut conv a.mode (bytes a)))
        (if r.space = 1 ∧ r.unit = r.core then [({ key := vaultLine r.unit ((r.accs.map (·.pa)).headD 0), lease := 2 ^ 64, no := 0 } : LineRead)] else []) s.ns
      ((s1.arriveRel r (r.accs.map fun a => (a.lane, s.accRel r a))).dropReq r.id).reportTickets r
    | _, _ => s

def execVaultAccess (id : Nat) (s : State) : Out :=
  .next (match s.req? id with
    | some r => if r.space = 0 then s else match r.kind with | .load _ => s.readLocal r | _ => s.performWriteReq r
    | none => s)

/-- The access wrote: a `cas` that found its value, any other write whose line did not fail. -/
def Request.wrote (r : Request) (a : Access) : Bool :=
  match r.kind with
  | .store => a.data != []
  | .cas => a.data != [] && natOfBytes a.data == a.cmp.toNat % 2 ^ (8 * a.n)
  | _ => a.data != []

/-- R262, R263: what a thread receives from its atomic. -/
def Request.rmwOut (r : Request) (a : Access) : LaneOut :=
  if a.data = [] then .fault 0x13 (BitVec.ofNat 64 (a.pa / 128 * 128))
  else .value (BitVec.ofNat 64 (natOfBytes a.data)) false (r.newBytes a a.data).2 0

/-- The lanes of a request that wrote. -/
def Request.wroteLanes (r : Request) : Mask := maskOf fun i => r.accs.any fun a => a.lane == i.val && r.wrote a

/-- R254, R266: an access of a later release takes the times of a write into its horizon: those of its own thread, and for a `strel` those of
every active thread. -/
def Request.raised (q r : Request) (p c : Nat) : Request :=
  let t := if farScope q.scope then c else p
  { q with accs := q.accs.map fun a =>
      let mine : Mask := if q.kind = .store then q.act else maskOf fun i => i.val == a.lane
      if mine &&& r.wroteLanes = 0 then a else { a with hz := max a.hz t } }

/-- R254: later releases of the same threads take the returned times into their horizon. -/
def State.raiseHz (s : State) (r : Request) (p c : Nat) : State :=
  let no := if r.sluice then r.grp else r.id
  let later := fun (q : Request) =>
    decide (no < q.grp) && decide (2 ≤ q.order) && q.writes && q.stage == .posted && q.gid == r.gid && q.widx == r.widx && q.sluice == r.sluice
  { s with mem := { s.mem with reqs := s.mem.reqs.map fun q => if later q then q.raised r p c else q } }

/-- A write of some thread of a quarter, as far as the quarter's later engine operations wait for it. -/
def Request.inQuarter (r : Request) (gid widx j : Nat) : Bool :=
  !r.sluice && r.gid == gid && r.widx == widx && r.accs.any fun (a : Access) => a.lane / 8 == j

/-- A fork's horizon after a write has returned its times. -/
def raisedFork (earlier : Bool) (h c : Nat) : Nat := if earlier then laterOf h c else h

def EngOp.raised (o : EngOp) (r : Request) (c : Nat) : EngOp :=
  { o with fork := raisedFork (decide (r.id < o.id) && r.inQuarter o.gid o.widx o.quarter) o.fork c }

def MmaReq.raised (m : MmaReq) (r : Request) (c : Nat) : MmaReq :=
  { m with fork := raisedFork (decide (r.id < m.id) && r.inQuarter m.gid m.widx m.quarter) m.fork c }

def Posted.raised (p : Posted) (r : Request) (c : Nat) : Posted :=
  match p.lanes with
  | some (g, w, l) => { p with after := raisedFork (decide (r.id < p.cut) && r.isOf g w l) p.after c }
  | none => p

/-- R258: operations and launches forked later by the same threads wait for the returned times too. -/
def State.raiseForks (s : State) (r : Request) (c : Nat) : State :=
  { s with ops := s.ops.map fun o => o.raised r c
           gantries := s.gantries.map fun e => (e.1, { e.2 with table := e.2.table.map fun m => m.raised r c })
           sched := { s.sched with posted := s.sched.posted.map fun p => p.raised r c } }

/-- An instruction that leaves no result outstanding. -/
def ReqKind.resultless : ReqKind → Bool
  | .store => true
  | .atom _ _ _ nr => nr
  | _ => false

/-- R222, R262: a store or an `.nr` atomic on a line that failed has nobody to tell but the thread, which is parked at the instruction. -/
def State.parkNr (s : State) (r : Request) : State :=
  match r.kind.resultless, s.warpOfReq r with
  | true, some wk =>
    let m := maskOf fun i => r.accs.any fun a => a.lane == i.val && a.data == []
    s.parkStill wk { cause := 0x13, pc := r.pc, mask := m } (fun i => match r.accs.find? fun a => a.lane == i.val with | some a => BitVec.ofNat 64 (a.pa / 128 * 128) | none => 0) fun _ => r.pc
  | _, _ => s

/-- R252: the times of a write return to its threads, and the result of an RMW. A write to host or peer memory still awaits its
acknowledgement; a released write of the Sluice is done with once its completion time has passed (R465). -/
def State.returnTimes (s : State) (r : Request) : State :=
  match r.stage with
  | .performed p c _ rels _ =>
    if !r.writes || (r.sluice && !s.timePasses c) then s
    else
      let s1 := match (if r.sluice then none else s.warpOfReq r) with
        | some wk => s.modWarp wk fun w => w.modThreads (maskOf fun i => r.accs.any fun a => a.lane == i.val && r.wrote a) fun _ t => t.wrote p c
        | none => s
      let s2 := (if r.wroteLanes = 0 then s1 else (s1.raiseHz r p c).raiseForks r c).parkNr r
      let s3 := match r.kind with
        | .store => s2
        | _ => (s2.arriveOuts r (r.accs.map fun (a : Access) => (a.lane, r.rmwOut a)) [] p).arriveRel r ((r.accs.zip rels).map fun (e : Access × Nat) => (e.1.lane, e.2))
      let s4 := match r.kind with
      | .store => s3
      | _ => if r.space = 0 then r.lines.foldl (fun s k => s.barOlder r.core k s.mem.uses) (s3.dropLines r.core r.lines) else s3
      if r.space = 0 ∧ !r.tgt.homed then s4.setReq r.id fun q => { q with stage := .unacked, pend := none } else s4.dropReq r.id
  | _ => s

def execStoreCompletionReturn (id : Nat) (s : State) : Out := .next (match s.req? id with | some r => s.returnTimes r | none => s)

/-- R252, R431: the home agent of host or peer memory acknowledges a write. -/
def execPeerWriteAck (id : Nat) (s : State) : Out :=
  .next (match s.req? id with | some r => if r.stage = .unacked then s.dropReq id else s | none => s)

/-! ### Tickets and the frontier -/

/-- R257: a `.sc` request takes its threads' tickets, in program order and lane order. -/
def State.giveTickets (s : State) (r : Request) : State :=
  let lacks := fun (q : Request) => q.order == 4 && q.accs.any fun a => a.ticket.isNone
  if !lacks r ∨ s.mem.reqs.any (fun q => decide (q.id < r.id) && q.gid == r.gid && q.widx == r.widx && lacks q) then s
  else
    let n := s.mem.ticket
    let k := r.accs.length
    let s1 := s.setReq r.id fun q => { q with accs := q.accs.mapIdx fun j a => { a with ticket := some (n + j) } }
    { s1 with mem := { s1.mem with ticket := n + k, ticketsOut := s1.mem.ticketsOut ++ (List.range k).map (n + ·) } }

def execBeaconTicket (id : Nat) (s : State) : Out := .next (match s.req? id with | some r => s.giveTickets r | none => s)

/-- R383: a staged record was staged before an atomic of its group was issued. -/
def Request.after (r : Request) (g : Staged) : Bool := decide (g.at_ < r.grp)

/-- R383, R465: released writes that an atomic of the frontier group follows: those of its launch copy that were staged before it and are yet to
be performed, and those of its own threads that are yet to complete. -/
def State.atomicBehind (s : State) (r : Request) : Bool :=
  s.mem.reqs.any fun q => q.sluice && decide (q.grp < r.grp)
    && ((q.stage == .posted && s.sameCopy q r && !(s.behindAtomic q)) || (q.gid == r.gid && q.widx == r.widx && r.accs.any fun a => a.lane == q.laneOf))

/-- R383: an atomic of the frontier group: its group's earlier staged writes are released; once they have been performed, it may be
performed. -/
def State.frontierAtomic (s : State) (r : Request) : State :=
  match s.group? r.gid with
  | none => s
  | some g =>
    match s.launch? g.launch with
    | none => s
    | some l =>
      if !r.frontier || g.index ≠ l.frontier then s
      else if g.staged.any r.after then (s.releaseStaged r.gid r.after).wakeBuffer
      else if s.atomicBehind r then s
      else (s.modGroup r.gid fun g => { g with released := true }).setReq r.id fun q => { q with frontier := false }

def execFrontierAtomicPerform (id : Nat) (s : State) : Out := .next (match s.req? id with | some r => s.frontierAtomic r | none => s)

end Sys2Proof.Machine
end

