-- ==== Sys2Proof/Machine/Slots.lean ====
section
/-! DEFINITION. Completion slots (spec 16, R363, R364), late faults (12, R284), quarter collectives (12, R283; 13, R296) and the posting of
engine operations (11, R258). -/

namespace Sys2Proof.Machine

/-! ### Slots -/

/-- A warp of a group, resident or saved, is changed. -/
def State.modWarpOf (s : State) (gid widx : Nat) (f : Warp → Warp) : State :=
  match s.findWarp gid widx with
  | some wk => s.modWarp wk f
  | none => s.modGroup gid fun g => { g with savedWarps := g.savedWarps.map fun w => if w.widx = widx then f w else w }

def Warp.setSlot (w : Warp) (k : Nat) (f : Slot → Slot) : Warp := { w with slots := w.slots.set (slotIdx k) (f w.slots[slotIdx k]) }

/-- R363: the slot has room for `n` more operations. -/
def Slot.room (k : Slot) (n : Nat) : Bool := decide (k.count + n ≤ 63)

/-- R363: operations are posted to a slot (DEDUCED, log entry 41). -/
def Slot.post (k : Slot) (n : Nat) : Slot := if n = 0 then k else { k with st := .armed, count := k.count + n }

/-- R363: an operation finishes; the first error is recorded. A slot that a save has left out (R59) counts nothing any more. -/
def Slot.finish (k : Slot) (now : Nat) (err : Option (Nat × Nat × Word)) : Slot :=
  if k.count = 0 then k
  else
  let k1 := match err with
    | some (code, q, addr) => if k.errCode = 0 then { k with errCode := code, errQ := q, errAddr := addr } else k
    | none => k
  let n := k1.count - 1
  { k1 with count := n, latest := now, st := if n ≠ 0 then .armed else if k1.errCode ≠ 0 then .error else .complete }

/-- R364: what observation leaves. -/
def Slot.observed (k : Slot) : Slot := { k with st := if k.st = .armed then .armed else .idle, errCode := 0, errQ := 0, errAddr := 0 }

/-- Threads take a late fault, each at a place of its own. -/
def State.parkLate (s : State) (wk cause : Nat) (m : Mask) (addr : Word) (pc resume : Thread → Word) : State :=
  if m = 0 then s
  else
    (s.modWarp wk fun w => w.modThreads m fun i t =>
      t.take { cause := cause, late := true, pc := pc t, mask := m } w.widx i s.ns addr (resume t)).noteRecords wk m

/-- R364: a late fault that a set observed is raised in the threads of its quarter: in those of the set at the observing
instruction, in others that are ready where they stand, and in waiting ones when their wait ends. -/
def State.raiseLate (s : State) (wk : Nat) (k : Slot) (set : Mask) (obsPc : Word) : State :=
  match s.warp? wk with
  | none => s
  | some w =>
    let q := quarterMask k.errQ
    let ready := q &&& ~~~ set &&& w.which Thread.isReady
    let waiting := q &&& ~~~ set &&& w.which fun t => t.waits.isSome
    let s1 := s.parkLate wk k.errCode (q &&& set &&& w.which Thread.isReady) k.errAddr (fun _ => obsPc) fun t => t.pc
    let s2 := s1.parkLate wk k.errCode ready k.errAddr (fun t => t.pc) fun t => t.pc
    s2.modWarp wk fun w => w.modThreads waiting fun _ t => { t with lateRec := match t.lateRec with | some r => some r | none => some (k.errCode, k.errAddr) }

/-- R255, R364: the threads of a set that are ready wait until device time has passed a release time. -/
def State.joinUntil (s : State) (wk t : Nat) (set : Mask) : State :=
  if s.timePasses t then s
  else s.bump.modWarp wk fun w => w.modThreads (set &&& w.which Thread.isReady) fun _ q => { q with st := .waiting (.acquire s.fresh t) q.pc, since := s.ns }

/-- R364: a thread set, which has gone on, has observed a slot that is not armed: an acquire, which waits for the release times that the
slot's watches have read. -/
def State.observe (s : State) (wk k : Nat) (set : Mask) (obsPc : Word) : State :=
  match s.warp? wk with
  | none => s
  | some w =>
    let sl := w.slots[slotIdx k]
    let s1 := ((s.modWarp wk fun w => w.setSlot k Slot.observed).clearAcq wk set).noteSync wk
    (if sl.st = .error ∧ sl.errCode < 0x3E then s1.raiseLate wk sl set obsPc else s1).joinUntil wk sl.acqTo set

/-- The threads that wait for a slot. -/
def Warp.slotWaiters (w : Warp) (k : Nat) : Mask := w.which fun t => t.waits == some (.waitc k)

/-- R377: the sets that wait for a slot that is no longer armed are released, in the order of their program counters. -/
def State.wakeSlot (s : State) (wk k : Nat) : Nat → State
  | 0 => s
  | fuel + 1 =>
    match s.warp? wk with
    | none => s
    | some w =>
      let m := w.slotWaiters k
      if w.slots[slotIdx k].st = .armed then s
      else
        match leastPc ((Mask.lanes m).map fun i => w.threads[i].pc) with
        | none => s
        | some pc =>
          let set := maskOf fun i => m.getLsbD i && w.threads[i].pc == pc
          ((s.release wk set).observe wk k set pc).wakeSlot wk k fuel

/-- R363: an operation counted on a slot finishes: for a saved warp once its slots are restored. A warp that has retired has no slots. -/
def State.finishSlot (s : State) (gid widx k : Nat) (err : Option (Nat × Nat × Word)) : State :=
  match s.findWarp gid widx with
  | some wk => (s.modWarp wk fun w => w.setSlot k fun q => q.finish s.ns err).wakeSlot wk k 32
  | none => s.modGroup gid fun g =>
      if g.savedWarps.any fun w => w.widx == widx then { g with savedEnds := g.savedEnds ++ [{ widx := widx, slot := k, err := err, time := s.ns }] } else g

/-! ### Quarter collectives -/

/-- What a quarter's instruction comes to: it acts; it acts, and its quarter waits for the Hatch (R325); its set does not issue (R363); or the
quarter does not issue, since a table or queue is full (R276, R295). -/
inductive QResult where
  | done (s : State)
  | held (s : State) (op : Nat)
  | later
  | wait (res unit : Nat)

/-- A quarter as an issue: its eight threads, active or not. -/
def quarterCtx (wk : Nat) (w : Warp) (j : Nat) (pc next : Word) : Ctx :=
  { wk := wk, w := w, set := quarterMask j, act := quarterMask j, zero := 0, pc := pc, next := next }

/-- The lowest thread of the issuing quarter. -/
def Ctx.first (c : Ctx) : Fin 32 := (Mask.lowest c.act).getD 0

/-- The issuing quarter. -/
def Ctx.quarter (c : Ctx) : Nat := quarterOf c.first

/-- All eight threads of the quarter take bad handle (R286, R301). -/
def Ctx.badHandle (c : Ctx) (s : State) : State := c.fault s 0x08 c.act fun _ => 0

/-- The place of a quarter among those that wait for entries (R276, R295). -/
def Ctx.place (c : Ctx) (res unit : Nat) : QWait := { res := res, unit := unit, gid := c.w.gid, widx := c.w.widx, quarter := c.quarter, pc := c.pc }

/-- A quarter still waits for an entry: its threads stand at the instruction, and can issue it or have arrived there. -/
def State.stillWaits (s : State) (q : QWait) : Bool :=
  match (s.findWarp q.gid q.widx).bind s.warp? with
  | none => false
  | some w => (Mask.lanes (quarterMask q.quarter)).all fun i =>
      w.threads[i].pc == q.pc && ((w.threads[i].isReady && !w.stopped.getLsbD i && (w.handler == 0 || w.handler.getLsbD i)) || w.threads[i].waits == some (.collective true))

/-- R276, R295: a quarter that began to wait earlier for an entry of the same table or queue still waits. -/
def State.behind (s : State) (q : QWait) : Bool := (s.qwait.takeWhile fun r => r != q).any fun r => r.res == q.res && r.unit == q.unit && s.stillWaits r

/-- A quarter's place is given up. -/
def State.leaveQueue (s : State) (gid widx j : Nat) : State := { s with qwait := s.qwait.filter fun q => !(q.gid == gid && q.widx == widx && q.quarter == j) }

/-- R13, R276, R295: threads of a quarter that does not issue stay at the instruction, as they stood before the issue. -/
def Warp.unissue (w : Warp) (w0 : Warp) (m : Mask) (pc : Word) : Warp :=
  w.modThreads m fun i t => { t with st := .ready, pc := pc, wait := min (w0.threads[i].wait + 1) 511 }

/-- R283: one quarter of an issue, if all eight threads have arrived; none where a resource holds the set (R13, R363). The mask gathers the
threads of quarters that do not issue (R276, R295). `w0` is the warp before the issue. -/
def quarterGo (x : Ext) (dst : Option (BitVec 6)) (act : Ctx → State → QResult) (wk : Nat) (w0 : Warp) (set : Mask) (pc next : Word)
    (r : State × Mask) (j : Nat) : Option (State × Mask) :=
  let s := r.1
  match s.warp? wk with
  | none => some r
  | some w =>
    let q := quarterMask j
    let here := w.which fun t => t.pc == pc && (match t.waits with | some (.collective _) => true | _ => false)
    let on := q &&& w.which fun t => t.waits == some (.collective true)
    if set &&& q = 0 ∨ q &&& ~~~ here ≠ 0 then some r
    else if on = 0 then
      some ((match dst with | some d => if x.z then s.writeVec wk d 0 q fun _ => 0 else s | none => s).release wk q, r.2)
    else if on ≠ q then some (s.parkWaiting wk 0x09 q 0 fun t => t.pc, r.2)
    else
      let c := quarterCtx wk w j pc next
      match act c s with
      | .done s1 => some ((s1.leaveQueue w.gid w.widx j).release wk q, r.2)
      | .held s1 op => some ((s1.leaveQueue w.gid w.widx j).modWarp wk fun v => v.modThreads q fun _ t => { t with st := .waiting (.hatch op) next, since := s.ns }, r.2)
      | .later => none
      | .wait res unit =>
        some ({ s.modWarp wk fun v => v.unissue w0 (q &&& set) pc with
                qwait := if s.qwait.contains (c.place res unit) then s.qwait else s.qwait ++ [c.place res unit] }, r.2 ||| (q &&& set))

/-- R13: the vector registers that an instruction reads, by its row. -/
def rowSrcs (x : Ext) (instr : Instr) : List Src :=
  match instr.form with
  | .ext opc _ =>
    match opRow opc with
    | some r => (if r.a x = .v then [Src.reg x.a] else []) ++ (if r.b x = .v then [Src.reg x.b] else []) ++ if r.c x = .v then [Src.reg x.c] else []
    | none => []
  | _ => []

/-- R13: the run bound of a quarter collective. -/
def Ctx.rowBound (c : Ctx) (x : Ext) (instr : Instr) : Nat := refinement ((rowSrcs x instr).map c.srcRuns) c.act

/-- R283: an issue of a quarter collective: its threads arrive and wait; the quarters that are complete act in rising order. A set whose post a
resource holds does not issue (R13, R363); where no quarter of a set issues, neither does the set (R13, R276, R295). -/
def quarterOp (x : Ext) (instr : Instr) (dst : Option (BitVec 6)) (act : Ctx → State → QResult) (s : State) : State :=
  issuing x s fun c s1 =>
    let s2 := (c.hold (c.executed s1 (c.rowBound x instr)) c.set fun i => .collective (c.act.getLsbD i)).settle c.wk
    let w0 := (s.warp? c.wk).getD c.w
    match (List.range 4).foldl (fun r j => r.bind fun e => quarterGo x dst act c.wk w0 c.set c.pc c.next e j) (some (s2, 0)) with
    | none => s
    | some (s3, stuck) => if stuck = c.set then { s with qwait := s3.qwait } else s3

/-! ### Engine operations -/

/-- R258: the fork of an operation: the largest far horizon of the quarter's threads (DEDUCED, log entry 43). -/
def Ctx.fork (c : Ctx) : Nat := c.topHorizon c.act 5

/-- R258: the issuing threads' earlier accesses let a forked operation begin. -/
def State.forkClear (s : State) (id gid widx j fork : Nat) : Bool :=
  s.timePasses fork && s.mem.reqs.all fun r =>
    !(decide (r.id < id) && r.inQuarter gid widx j && ((r.reads && r.stage == .posted) || (r.writes && r.stage != .unacked)))

def EngOp.forked (o : EngOp) (s : State) : Bool := s.forkClear o.id o.gid o.widx o.quarter o.fork

/-- An operation is posted by a quarter, on a slot or none. For the order that the Sluice keeps, the post is a release of the quarter's lowest
thread (R258, R465; DEDUCED, log entry 107); one that writes global memory counts among that thread's stores (R390). -/
def Ctx.postOp (c : Ctx) (s : State) (instr : Instr) (slot : Option Nat) (vals : List Word) (glob : Bool := true) : State :=
  let t := c.w.threads[c.first]
  let s1 := match slot with | some k => s.modWarp c.wk fun w => w.setSlot k fun q => q.post 1 | none => s
  let s2 := s1.modWarp c.wk fun w => w.modThreads (maskOf fun i => i == c.first) fun _ t => t.counted glob true
  { s2.bump with ops := s2.ops ++
      [{ id := s2.fresh, core := c.core, gid := c.w.gid, widx := c.w.widx, quarter := c.quarter, slot := slot, instr := instr, vals := vals
         fork := c.fork, started := false, rows := 0, claim := none, pages := [], data := [], done := false, doneAt := 0, err := none
         seq := t.seqNo, epoch := t.epoch + 1, lines := [], busy := 0, readyAt := none }] }

def State.op? (s : State) (id : Nat) : Option EngOp := s.ops.find? fun o => o.id == id

def State.setOp (s : State) (id : Nat) (f : EngOp → EngOp) : State := { s with ops := s.ops.map fun o => if o.id == id then f o else o }

def State.dropOp (s : State) (id : Nat) : State := { s with ops := s.ops.filter fun o => o.id != id }

/-- R363: a write that the Sluice has staged for an operation is still to be performed, or in strict class to be released provisionally. The
epoch of its post tells an operation's writes from others of the same thread, and the empty mask from the thread's own. -/
def State.opStaged (s : State) (o : EngOp) : Bool :=
  (match s.group? o.gid with
    | some g => g.staged.any fun r => r.engine && r.warp == o.widx && r.lane == 8 * o.quarter && r.epoch == o.epoch && !r.prov
    | none => false)
  || s.mem.reqs.any fun r => r.sluice && r.act == 0 && r.epoch == o.epoch && r.gid == o.gid && r.widx == o.widx && r.laneOf == 8 * o.quarter

/-- R363: an operation whose work has ended finishes once every write it made has completed. -/
def State.finishOp (s : State) (o : EngOp) : State :=
  if !o.done || !s.timePasses o.doneAt || s.opStaged o then s
  else
    let s1 := s.dropOp o.id
    match o.slot with
    | some k => s1.finishSlot o.gid o.widx k (o.err.map fun e => (e.1, o.quarter, e.2))
    | none => s1

/-- The launch of an operation's group. -/
def State.launchOfOp (s : State) (o : EngOp) : Option Launch := (s.group? o.gid).bind fun g => s.launch? g.launch

/-- The warp of an operation, resident or saved; of one that has retired, what an engine needs of it. -/
def State.warpOfOp (s : State) (o : EngOp) : Warp :=
  match (s.findWarp o.gid o.widx).bind s.warp? with
  | some w => w
  | none => (((s.group? o.gid).bind fun g => g.savedWarps.find? fun w => w.widx == o.widx)).getD (Warp.start o.gid o.widx 0 0)

/-! ### An engine's accesses (R307, R465) -/

/-- Bytes as an engine reads them at the point of performance: zero on a malformed line, a fault on one that fails its check; in
strict class with what its launch copy has provisionally released. -/
def State.engBytes (s : State) (gid : Nat) (pl : Place) (n : Nat) : Except (Nat × Word) (List Byte) :=
  match pl with
  | .glob t pa =>
    match s.lineBad t pa with
    | some 4 => .error (0x13, BitVec.ofNat 64 (pa / 128 * 128))
    | some _ => .ok (List.replicate n 0)
    | none =>
      let recs := s.provStaged gid ++ (match s.group? gid with | some g => g.staged.filter (·.prov) | none => [])
      .ok (overlayOf s recs t pa (s.rawBytes t pa n))
  | .vault core off => .ok ((s.coreOf core).vault.bytes off n)
  | .scratch off => .ok (match s.group? gid with | some g => g.scratch.bytes off n | none => [])

/-- The place of an engine's access; it acts for a warp's group. -/
def State.engPlace (s : State) (w : Warp) (space : Nat) (va : Word) (n : Nat) (p : Perm) : Except (Nat × Word) Place :=
  match s.place w 0 space va n 1 p with
  | .ok (.glob t pa) =>
    match s.peerFault t pa with
    | some 0x13 => .error (0x13, BitVec.ofNat 64 (pa / 128 * 128))
    | some c => .error (c, va)
    | none => .ok (.glob t pa)
  | .ok pl => .ok pl
  | .error c => .error (c, va)

/-- R431: an engine's access that a link does not carry sets its ERR. -/
def State.engLink (s : State) (w : Warp) (space : Nat) (va : Word) (p : Perm) : State :=
  match s.place w 0 space va 1 1 p with
  | .ok (.glob t pa) => if s.peerFault t pa = some 0x13 then s.linkErr t else s
  | _ => s

/-- Bytes read in pieces that lie in one line each: `k` pieces from an address, `n` bytes in all. -/
def State.engRead (s : State) (w : Warp) (space : Nat) : Nat → Word → Nat → Except (Nat × Word) (List Byte)
  | 0, _, _ => .ok []
  | k + 1, va, n =>
    if n = 0 then .ok []
    else
      let m := min n (128 - va.toNat % 128)
      match s.engPlace w space va m .read with
      | .error e => .error e
      | .ok pl =>
        match s.engBytes w.gid pl m, s.engRead w space k (va + BitVec.ofNat 64 m) (n - m) with
        | .ok bs, .ok cs => .ok (bs ++ cs)
        | .error e, _ => .error e
        | _, .error e => .error e

/-- How many lines `n` bytes from an address can touch. -/
def pieces (n : Nat) : Nat := n / 128 + 2

/-- The place of a line in the lists of requests (R219, R310). -/
def Place.line : Place → Nat
  | .glob t pa => lineKey t pa
  | .vault core off => vaultLine core off
  | .scratch off => 64 * 2 ^ 64 + off / 128

/-- R310: the lines among some bytes that an operation has not touched yet. -/
def State.engLines (s : State) (o : EngOp) (w : Warp) (space : Nat) (va : Word) (n : Nat) (p : Perm) : List Nat :=
  ((List.range (pieces n)).filterMap fun k =>
    let a := if k = 0 then va else BitVec.ofNat 64 (va.toNat / 128 * 128 + 128 * k)
    if va.toNat + n ≤ a.toNat then none
    else
      match s.engPlace w space a 1 p with
      | .ok pl => if o.lines.contains pl.line then none else some pl.line
      | .error _ => none).eraseDups

/-- R219, R310: an operation touches lines as the core has room for them: they count as its requests until the operation's next move. -/
def State.engReach (s : State) (o : EngOp) (keys : List Nat) : State :=
  let s1 := s.setOp o.id fun q => { q with busy := 0 }
  let now := keys.take (Config.requestLimit - s1.outstandingOn o.core)
  (s1.countLines o.core now).setOp o.id fun q => { q with lines := q.lines ++ now, busy := now.length }

/-- An operation moves on once it has touched some lines; until then they are touched as there is room. -/
def State.engMove (s : State) (o : EngOp) (keys : List Nat) (move : State → State) : State :=
  let s1 := s.engReach o keys
  if keys.length ≤ Config.requestLimit - (s.setOp o.id fun q => { q with busy := 0 }).outstandingOn o.core then move s1 else s1

/-- A line is read at its home slice; one that failed, or is malformed, is noted as a load notes it (R222, R224). -/
def State.engNote (s : State) (w : Warp) (space : Nat) (va : Word) (n : Nat) : State :=
  if space ≠ 0 then s
  else
    (List.range (pieces n)).foldl (fun s k =>
      let a := BitVec.ofNat 64 (va.toNat / 128 * 128 + 128 * k)
      if va.toNat + n ≤ a.toNat then s
      else
        match (s.useTlb a).place w 0 0 a 1 1 .read with
        | .ok (.glob t pa) =>
          let s := s.useTlb a
          let first := if k = 0 then va.toNat % 128 else 0
          let s1 := if s.peerFault t pa = some 0x13 then s.linkErr t else s.touchHome t pa 0
          match s1.lineBad t pa with | some kind => s1.noteBad (pa / 128) kind (sectorMask (pa + first) (min (128 - first) (va.toNat + n - a.toNat - first))) | none => s1
        | _ => s) s

/-- What an engine's write of one piece leaves: the state, and the time at which the write completes. -/
def State.engPut (s : State) (o : EngOp) (va : Word) (pl : Place) (bs : List Byte) (hint : Nat) : State × Nat :=
  match pl with
  | .glob t pa =>
    let l := s.launchOfOp o
    let cls := match l with | some l => l.kern.cls | none => 0
    if cls = 0 then ((s.performWrite t pa bs .plain hint).noteDone o.gid (s.completion t pa), s.completion t pa)
    else
      (s.stage o.gid { warp := o.widx, lane := 8 * o.quarter, seq := o.seq, kind := .store, mask := 0, va := va, tgt := t, pa := pa, data := 0
                       core := o.core, order := 0, near := false, epoch := o.epoch, engine := true
                       step := match l with | some l => l.stepNo | none => 0
                       prov := false, hint := hint, act := 0, pc := 0, ticket := none, at_ := s.fresh } bs |>.releasePast o.gid, s.ns)
  | .vault core off => ((s.performVault core off bs .plain).killReuse core [vaultLine core off], s.ns)
  | .scratch off => (s.performScratch o.gid off bs .plain, s.ns)

/-- R222: a write of part of a line with an ECC error fails (DEDUCED, log entry 92). -/
def State.engTorn (s : State) (o : EngOp) (pl : Place) (n : Nat) : Option Word :=
  match pl with
  | .glob t pa => if s.lineBad t pa = some 4 ∧ n < 128 ∧ (match s.launchOfOp o with | some l => l.kern.cls | none => 0) = 0 then some (BitVec.ofNat 64 (pa / 128 * 128)) else none
  | _ => none

/-- Bytes written in pieces of one line each: the state, the latest completion time and the first fault. Lines already written stay
written (DEDUCED, log entry 54). -/
def State.engWrite (s : State) (o : EngOp) (w : Warp) (space hint : Nat) : Nat → Word → List Byte → State × Nat × Option (Nat × Word)
  | 0, _, _ => (s, 0, none)
  | k + 1, va, bs =>
    if bs = [] then (s, 0, none)
    else
      let m := min bs.length (128 - va.toNat % 128)
      let s := if space = 0 then s.useTlb va else s
      match s.engPlace w space va m .write with
      | .error e => (s.engLink w space va .write, 0, some e)
      | .ok pl =>
        match s.engTorn o pl m with
        | some line => (s.noteBad (line.toNat / 128) 4 (sectorMask va.toNat m), 0, some (0x13, line))
        | none =>
          let r := s.engPut o va pl (bs.take m) hint
          let q := r.1.engWrite o w space hint k (va + BitVec.ofNat 64 m) (bs.drop m)
          (q.1, max r.2 q.2.1, q.2.2)

/-- The lines of some bytes that an operation's group has not staged yet. -/
def State.newStaged (s : State) (o : EngOp) (w : Warp) (space : Nat) (va : Word) (n : Nat) : List Nat :=
  let seen := match s.group? o.gid with | some g => s.linesOf (dieOf o.core) g | none => []
  (List.range (pieces n)).filterMap fun k =>
    let a := if k = 0 then va else BitVec.ofNat 64 (va.toNat / 128 * 128 + 128 * k)
    if va.toNat + n ≤ a.toNat then none
    else match s.engPlace w space a 1 .write with | .ok (.glob t pa) => if seen.contains (lineKey t pa) then none else some (lineKey t pa) | _ => none

/-- R385: an engine's writes of some runs of bytes find room in the staging buffer, where they are staged. -/
def State.engRoom (s : State) (o : EngOp) (w : Warp) (space : Nat) (rs : List (Word × Nat)) : Bool :=
  match s.launchOfOp o with
  | some l => l.kern.cls == 0 || s.stageRoom o.gid o.core false ((rs.flatMap fun r => s.newStaged o w space r.1 r.2).eraseDups.length)
  | none => true

end Sys2Proof.Machine
end

