-- ==== Sys2Proof/Machine/Ring.lean ====
section
/-! DEFINITION. Scratchpad rings (spec 10, R234 to R237). -/

namespace Sys2Proof.Machine

/-- R234: a ring as it is initialised. -/
def Ring.start (off slots size : Nat) : Ring :=
  { off := off, slots := slots, size := size, free := slots, full := 0, wr := 0, wc := 0, rd := 0, rc := 0, np := 0, nr := 0, done := [] }

/-- R235: a claim: for a push of a free slot, for a pop of a full one; with the slot's address. -/
def Ring.claim (r : Ring) (push : Bool) : Option (Ring × Nat) :=
  if push then
    if r.free = 0 then none else some ({ r with wr := (r.wr + 1) % r.slots, free := r.free - 1, np := r.np + 1 }, r.off + r.wr * r.size)
  else
    if r.full = 0 then none else some ({ r with rd := (r.rd + 1) % r.slots, full := r.full - 1, nr := r.nr + 1 }, r.off + r.rd * r.size)

/-- R235: the commit index passes the done slots. -/
def Ring.commit (r : Ring) (push : Bool) : Nat → Ring
  | 0 => r
  | fuel + 1 =>
    if push then
      if r.np ≠ 0 ∧ r.done.contains r.wc then
        ({ r with done := r.done.filter (· != r.wc), wc := (r.wc + 1) % r.slots, np := r.np - 1, full := r.full + 1 } : Ring).commit push fuel
      else r
    else if r.nr ≠ 0 ∧ r.done.contains r.rc then
      ({ r with done := r.done.filter (· != r.rc), rc := (r.rc + 1) % r.slots, nr := r.nr - 1, free := r.free + 1 } : Ring).commit push fuel
    else r

/-- R235: the slot that an address names. -/
def Ring.slotOf (r : Ring) (a : Nat) : Option Nat :=
  if r.off ≤ a ∧ (a - r.off) % r.size = 0 ∧ (a - r.off) / r.size < r.slots then some ((a - r.off) / r.size) else none

/-- R235: a put of an address; none where its requirement fails. -/
def Ring.put (r : Ring) (push : Bool) (a : Nat) : Option Ring :=
  match r.slotOf a with
  | none => none
  | some k =>
    if (k + r.slots - (if push then r.wc else r.rc)) % r.slots < (if push then r.np else r.nr) ∧ !(r.done.contains k) then
      some (({ r with done := r.done ++ [k] } : Ring).commit push r.slots)
    else none

/-! ### The rings of a group -/

def State.ring? (s : State) (gid q : Nat) : Option Ring := (s.group? gid).bind fun g => Sparse.find g.rings q

def State.setRing (s : State) (gid q : Nat) (r : Ring) : State := s.modGroup gid fun g => { g with rings := Sparse.insert g.rings q r }

/-- The claims that wait on a ring. -/
def State.ringQueue (s : State) (gid q : Nat) : List RingWaiter := match s.group? gid with | some g => (Sparse.find g.ringQ q).getD [] | none => []

def State.setRingQueue (s : State) (gid q : Nat) (ws : List RingWaiter) : State :=
  s.modGroup gid fun g => { g with ringQ := if ws = [] then Sparse.erase g.ringQ q else Sparse.insert g.ringQ q ws }

/-- Whether a waiting claim is a push. -/
def RingWaiter.push : RingWaiter → Bool
  | .warp _ _ p _ => p
  | .tender _ => true

/-- A waiter that can be served: its warp is resident, or it is an operation. -/
def RingWaiter.present (w : RingWaiter) (s : State) (gid : Nat) : Bool :=
  match w with
  | .warp widx _ _ _ => (s.findWarp gid widx).isSome
  | .tender _ => true

/-- A waiter receives the address of its slot. -/
def State.serveWaiter (s : State) (gid : Nat) (w : RingWaiter) (a : Nat) : State :=
  match w with
  | .warp widx m _ d =>
    match s.findWarp gid widx with
    | some wk => (s.writeVec wk d m 0 fun _ => BitVec.ofNat 64 a).release wk m
    | none => s
  | .tender id => s.setOp id fun o => { o with claim := some a }

/-- R235: waiting claims are released in the order in which they began to wait, as the counts allow. -/
def State.serveRing (s : State) (gid q : Nat) : Nat → State
  | 0 => s
  | fuel + 1 =>
    match s.ring? gid q with
    | none => s
    | some r =>
      match (s.ringQueue gid q).find? fun w => w.present s gid && (r.claim w.push).isSome with
      | none => s
      | some w =>
        match r.claim w.push with
        | none => s
        | some (r1, a) =>
          (((s.setRing gid q r1).setRingQueue gid q ((s.ringQueue gid q).filter fun v => v != w)).serveWaiter gid w a).serveRing gid q fuel

/-- A put of an address: the ring afterwards, with the claims that it releases. -/
def State.putRing (s : State) (gid q : Nat) (push : Bool) (a : Nat) : Option State :=
  match (s.ring? gid q).bind fun r => r.put push a with
  | none => none
  | some r => some ((s.setRing gid q r).serveRing gid q ((s.ringQueue gid q).length + 1))

/-! ### Instructions -/

/-- The lowest active thread. -/
def Ctx.lowest (c : Ctx) : Fin 32 := (Mask.lowest c.act).getD 0

/-- R235: `.get`: one claim for the issue; its active threads wait while the counts do not allow it (DEDUCED, log entry 50). With no active
thread it does nothing (DESIGN CHOICE, log entry 104). -/
def ringGet (x : Ext) (push : Bool) (s : State) : State :=
  issuing x s fun c s1 =>
    let gid := c.w.gid
    let q := x.c.toNat
    if c.act = 0 then c.advance (c.executed (deliverTo s1 c.wk (.vec x.d) none 0 c.zero (fun _ => plain 0) c.pc fun _ => c.pc))
    else
      match s1.ring? gid q with
      | none => c.fault (c.advance (c.executed s1) c.act) 0x08 c.act fun _ => 0
      | some r =>
        c.charged s1 x.d (c.elemBound x [] x.d) fun s2 =>
          match r.claim push with
          | some (r1, a) => c.advance (c.executed ((s2.setRing gid q r1).writeVec c.wk x.d c.act c.zero fun _ => BitVec.ofNat 64 a))
          | none =>
            let s3 := c.advance (c.executed (s2.writeVec c.wk x.d 0 c.zero fun _ => 0)) c.act
            (c.lend (c.hold s3 c.act fun _ => .ring q push x.d) x.d (c.elemBound x [] x.d)).setRingQueue gid q (s2.ringQueue gid q ++ [.warp c.w.widx c.act push x.d])

/-- R235: a scratch store of the warp has not been performed. -/
def State.scratchStores (s : State) (w : Warp) : Bool := s.mem.reqs.any fun r => r.gid == w.gid && r.widx == w.widx && r.space == 2 && r.writes && r.stage == .posted

/-- R235: `.put` of the lowest active thread's address, after the warp's earlier scratch stores. -/
def ringPut (x : Ext) (push : Bool) (s : State) : State :=
  issuing x s fun c s1 =>
    if c.act = 0 then c.advance (c.executed s1)
    else if push && s1.scratchStores c.w then s
    else
      match s1.putRing c.w.gid x.c.toNat push (c.reg x.a c.lowest).toNat with
      | none => c.fault (c.advance (c.executed s1 (refinement [c.srcRuns x.srcA] c.act)) c.act) 0x08 c.act fun _ => 0
      | some s2 => c.advance (c.executed s2 (refinement [c.srcRuns x.srcA] c.act))

def execRpushGet (x : Ext) (s : State) : Out := .next (ringGet x true s)
def execRpushPut (x : Ext) (s : State) : Out := .next (ringPut x true s)
def execRpopGet (x : Ext) (s : State) : Out := .next (ringGet x false s)
def execRpopPut (x : Ext) (s : State) : Out := .next (ringPut x false s)

/-- R236, R234: the geometry of a ring meets the limits and lies in the scratchpad. -/
def ringFits (scratch off slots size : Nat) : Bool :=
  decide (1 ≤ slots ∧ slots ≤ 1024 ∧ 32 ≤ size ∧ size ≤ 65536 ∧ off % 32 = 0 ∧ off + slots * size ≤ scratch)

/-- R236: a Tender operation on a ring is outstanding. -/
def State.ringBusy (s : State) (gid q : Nat) : Bool :=
  s.ops.any fun o => o.gid == gid && (match o.instr with | .tring x => x.b.toNat == q | _ => false)

/-- R236: `rinit`. With no active thread it does nothing (DESIGN CHOICE, log entry 104). -/
def rinitOp (x : Ext) (s : State) : State :=
  issuing x s fun c s1 =>
    if c.act = 0 then c.advance (c.executed s1)
    else
      let q := x.c.toNat
      let gid := c.w.gid
      let off := (c.reg x.a c.lowest).toNat
      let g := (c.reg x.b c.lowest).toNat
      let slots := g % 2 ^ 16
      let size := g / 2 ^ 16 % 2 ^ 16 * 32
      let scratch := match s1.launchOf c.w with | some l => l.kern.scratch | none => 0
      let claimed := match s1.ring? gid q with | some r => decide (r.done.length < r.np + r.nr) | none => false
      if ringFits scratch off slots size && (s1.ringQueue gid q).isEmpty && !claimed && !(s1.ringBusy gid q) then
        c.advance (c.executed (s1.setRing gid q (Ring.start off slots size)) (refinement [c.srcRuns x.srcA, c.srcRuns x.srcB] c.act))
      else c.fault (c.advance (c.executed s1 (refinement [c.srcRuns x.srcA, c.srcRuns x.srcB] c.act)) c.act) 0x08 c.act fun _ => 0

def execRinit (x : Ext) (s : State) : Out := .next (rinitOp x s)

/-- R236: `rstat`. -/
def Ring.stat (r : Ring) : Word := BitVec.ofNat 64 (r.free + r.full * 2 ^ 16 + r.slots * 2 ^ 32 + r.size / 32 * 2 ^ 48)

/-- An interlocked status value, the same for every active thread. -/
def statusOp (x : Ext) (bound : Ctx → Nat) (v : Ctx → State → Word) (s : State) : State :=
  issuing x s fun c s1 =>
    if c.act = 0 then c.advance (c.executed (deliverTo s1 c.wk (.vec x.d) none 0 c.zero (fun _ => plain 0) c.pc fun _ => c.pc))
    else c.charged s1 x.d (bound c) fun s2 => c.advance (c.executed (s2.writeVec c.wk x.d c.act c.zero fun _ => v c s1))

def execRstat (x : Ext) (s : State) : Out :=
  .next (statusOp x (fun c => c.elemBound x [] x.d) (fun c s => match s.ring? c.w.gid x.c.toNat with | some r => r.stat | none => 0) s)

end Sys2Proof.Machine
end

