-- ==== Sys2Proof/Machine/Launch.lean ====
section
/-! DEFINITION. Class 0x1, launch and completion instructions (spec 16, R374 to R380), `step` (17, R387, R388), and what a watch of
`karm` does (R376). -/

namespace Sys2Proof.Machine

/-! ### Posting launches (R374) -/

/-- A memory range that an instruction names faults: the first failing piece of it (R227). -/
def Ctx.faultsOf (c : Ctx) (p : Fin 32 → Option (Nat × Word)) : List (Fin 32 × Nat × Word) :=
  (Mask.lanes c.act).filterMap fun i => (p i).map fun e => (i, e.1, e.2)

/-- The threads of a fault list. -/
def faulted (fs : List (Fin 32 × Nat × Word)) : Mask := maskOf fun i => fs.any fun f => f.1 == i

/-- R374: what stops the post of a record at an address: misalignment, or a fault of its translation. -/
def State.recordFault (s : State) (w : Warp) (va : Word) : Option (Nat × Word) :=
  if va.toNat % 64 ≠ 0 then some (0x03, va) else s.rangeFault w 0 0 va .read 8

/-- R362: a source's next identifier. -/
def State.nextIdent (s : State) (src : Nat) : Word × State :=
  let n := (Sparse.find s.sched.seqs src).getD 0
  (BitVec.ofNat 64 (src * 2 ^ 48 + n % 2 ^ 48), { s with sched := { s.sched with seqs := Sparse.insert s.sched.seqs src (n + 1) } })

/-- One thread's post: with it go the posting launch's priority, code object and data area (R359, R361). -/
def Ctx.postLaunch (c : Ctx) (child : Bool) (k : Nat) (va : Word) (s : State) (i : Fin 32) : State × Word :=
  let r := s.nextIdent c.core
  let l := s.launchOf c.w
  let of := fun (v : Launch → Nat) => match l with | some l => v l | none => 0
  ({ r.2 with sched := { r.2.sched with posted := r.2.sched.posted ++
      [{ ident := r.1, recVa := va, host := false, callg := child, queue := none, arrived := false, core := c.core
         parent := (r.2.groupOf c.w).map (·.launch), poster := some (c.w.gid, c.w.widx, k), prio := of (·.prio)
         objVa := BitVec.ofNat 64 (of (·.objVa.toNat)), dataVa := BitVec.ofNat 64 (of (·.dataVa.toNat)), dataPa := of (·.dataPa), after := c.w.threads[i].farH, cut := s.fresh
         lanes := some (c.w.gid, c.w.widx, i), cancelled := false }] } }, r.1)

/-- Posts in lane order, with the identifiers. -/
def Ctx.postAll (c : Ctx) (child : Bool) (k : Nat) (va : Fin 32 → Word) : List (Fin 32) → State → State × List (Fin 32 × Word)
  | [], s => (s, [])
  | i :: is, s =>
    let r := c.postLaunch child k (va i) s i
    let q := c.postAll child k va is r.1
    (q.1, (i, r.2) :: q.2)

/-- R374. -/
def launchOp (x : Ext) (child : Bool) (s : State) : State :=
  issuing x s fun c s1 =>
    if c.act = 0 then c.advance (c.executed (deliverTo s1 c.wk (.vec x.d) none 0 c.zero (fun _ => plain 0) c.pc fun _ => c.pc))
    else
      c.charged s1 x.d 32 fun s2 =>
        let k := x.b.toNat
        let fs := c.faultsOf fun i => s2.recordFault c.w (c.ea x i)
        let good := c.act &&& ~~~ faulted fs
        if !(c.slot k).room (Mask.count c.act) then s
        else
          let r := c.postAll child k (c.ea x) (Mask.lanes good) (c.executed s2 (refinement [c.srcRuns x.srcA] c.act))
          let s3 := r.1.bump.modWarp c.wk fun w => w.setSlot k fun q => q.post (Mask.count good)
          let s4 := s3.writeVec c.wk x.d good c.zero fun i => ((r.2.find? fun e => e.1 == i).map (·.2)).getD 0
          c.parkAll (c.advance s4 (faulted fs)) fs

def execLaunch (x : Ext) (s : State) : Out := .next (launchOp x false s)
def execCallg (x : Ext) (s : State) : Out := .next (launchOp x true s)

/-- R375: `signal` is a release add at its scope. -/
def execSignal (x : Ext) (s : State) : Out := .next (atomNrOp x 0 false false 2 (scopeOf x) 0 s)

/-! ### Slots (R376 to R378) -/

/-- R377. -/
def waitcOp (x : Ext) (s : State) : State :=
  issuing x s fun c s1 =>
    if c.act = 0 then c.advance (c.executed s1)
    else (c.hold (c.executed s1) c.set fun _ => .waitc x.a.toNat).wakeSlot c.wk x.a.toNat 32

def execWaitc (x : Ext) (s : State) : Out := .next (waitcOp x s)

/-- R376: one watch for each active thread. -/
def karmOp (x : Ext) (s : State) : State :=
  issuing x s fun c s1 =>
    let k := x.d.toNat
    if c.act = 0 then c.advance (c.executed s1)
    else if !(c.slot k).room (Mask.count c.act) then s
    else
      let all := c.watches s1 x 0 8 2 x.srcB false 0 (some k)
      let fs := all.filterMap fun w => w.flt.map fun cause => (Fin.ofNat 32 w.lane, cause, w.va)
      let ws := all.filter fun w => w.flt.isNone
      let s2 := ((c.executed s1 (refinement [c.srcRuns x.srcA, c.srcRuns x.srcB] c.act)).addWatches ws).modWarp c.wk fun w => w.setSlot k fun q => q.post ws.length
      c.parkAll (c.advance s2 (faulted fs)) fs

def execKarm (x : Ext) (s : State) : Out := .next (karmOp x s)

/-- R364, R365: the slot of a watch that has read its value: who observes it joins the release time that was read. -/
def State.joinSlot (s : State) (w : Watch) (k : Nat) : State :=
  s.modWarpOf w.gid w.widx fun q => q.setSlot k fun l => { l with acqTo := max l.acqTo (s.watchRel w) }

/-- R376: a watch on a slot reads its location, and finishes there once the value is reached (DEDUCED, log entry 57). -/
def State.checkKarm (s : State) (w : Watch) (k : Nat) : State :=
  let clear := match s.findWarp w.gid w.widx with | some wk => s.watchClear w (wkCore wk) | none => true
  if !w.notified || !clear then s
  else
    match s.watchFault w with
    | some (cause, addr) =>
      let s1 := if cause ≠ 0x13 then s else if (s.peerFault w.tgt w.pa).isSome then s.linkErr w.tgt else s.noteBad (w.pa / 128) 4 (sectorMask w.pa w.n)
      (s1.dropWatch w.id).finishSlot w.gid w.widx k (some (cause, w.lane / 8, addr))
    | none =>
      let s1 := match s.lineBad w.tgt w.pa with | some kind => s.noteBad (w.pa / 128) kind (sectorMask w.pa w.n) | none => s.touchHome w.tgt w.pa 0
      if waitCond w.cond w.n (natOfBytes ((s.watchBytes w).getD [])) (w.b.toNat % 2 ^ (8 * w.n)) then ((s1.joinSlot w k).dropWatch w.id).finishSlot w.gid w.widx k none
      else { s1 with mem := { s1.mem with watches := s1.mem.watches.map fun q => if q.id == w.id then { q with notified := false } else q } }

def execKarmWatchCheck (id : Nat) (s : State) : Out :=
  .next (match s.mem.watches.find? fun w => w.id == id with
    | some w => match w.slot with | some k => s.checkKarm w k | none => s
    | none => s)

/-! ### Stage queues (R369, R379) -/

def State.stageQ? (s : State) (q : Nat) : Option StageQueue := Sparse.find s.sched.stageQs q

def State.setStageQ (s : State) (q : Nat) (v : StageQueue) : State := { s with sched := { s.sched with stageQs := Sparse.insert s.sched.stageQs q v } }

/-- R227, R379: what an entry's range of bytes meets, in pieces of 16: a fault of translation, of a link, or of a line with an ECC error. -/
def State.entryFault (s : State) (w : Warp) (glob : Bool) (va : Word) (p : Perm) : Nat → Option (Nat × Word)
  | 0 => none
  | n + 1 =>
    match s.engPlace w (if glob then 0 else 2) va 16 p with
    | .error e => some e
    | .ok (.glob t pa) => if s.lineBad t pa = some 4 then some (0x13, BitVec.ofNat 64 (pa / 128 * 128)) else s.entryFault w glob (va + 16) p n
    | .ok _ => s.entryFault w glob (va + 16) p n

/-- R222: the bad lines among those bytes are noted; good ones are held by their home slices. -/
def State.entryNote (s : State) (w : Warp) (glob : Bool) (va : Word) (n : Nat) : State := s.engNote w (if glob then 0 else 2) va (16 * n)

/-- The bytes of an entry as the warp reads them. -/
def State.entryBytes (s : State) (w : Warp) (glob : Bool) (va : Word) : Nat → List Byte
  | 0 => []
  | n + 1 =>
    (match s.place w 0 (if glob then 0 else 2) va 16 1 .read with
      | .ok (.glob t pa) => if (s.lineBad t pa).isSome then List.replicate 16 0 else s.overlay w.gid t pa (s.rawBytes t pa 16)
      | .ok (.scratch off) => match s.groupOf w with | some g => g.scratch.bytes off 16 | none => List.replicate 16 0
      | _ => List.replicate 16 0) ++ s.entryBytes w glob (va + 16) n

/-- R215, R252: 16 bytes that a core stores at once at a home slice: its own copy of the line is dropped; with the completion time. -/
def State.storeNow (s : State) (gid core : Nat) (t : Target) (pa : Nat) (bs : List Byte) : State × Nat :=
  let keys := if t.homed then [lineKey t pa] else []
  ((((s.dropLines core keys).barFills core keys).performWrite t pa bs .plain).noteDone gid (s.completion t pa), s.completion t pa)

/-- Bytes of an entry stored where a warp says, staged in ordered and strict class (R383); and the latest completion time. -/
def State.storeEntry (s : State) (wk : Nat) (lane : Nat) (glob : Bool) (va : Word) : Nat → List Byte → State × Nat
  | 0, _ => (s, s.ns)
  | n + 1, bs =>
    match s.warp? wk with
    | none => (s, s.ns)
    | some w =>
      let r := match s.place w 0 (if glob then 0 else 2) va 16 1 .write with
        | .ok (.glob t pa) =>
          if s.classOf w = 0 then s.storeNow w.gid (wkCore wk) t pa (bs.take 16)
          else
            (s.stage w.gid { warp := w.widx, lane := lane, seq := w.threads[Fin.ofNat 32 lane].seqNo, kind := .store, mask := 0, va := va, tgt := t, pa := pa
                             data := 0, core := wkCore wk, order := 0, near := false, epoch := w.threads[Fin.ofNat 32 lane].epoch, engine := false
                             step := s.stepNo w
                             prov := false, hint := 0, act := maskOf fun i => i.val == lane, pc := w.threads[Fin.ofNat 32 lane].pc, ticket := none, at_ := s.fresh } (bs.take 16), s.ns)
        | .ok (.scratch off) => (s.performScratch w.gid off (bs.take 16) .plain, s.ns)
        | _ => (s, s.ns)
      let q := r.1.storeEntry wk lane glob (va + 16) n (bs.drop 16)
      (q.1, max r.2 q.2)

/-- R369: a queue's entries stand in HBM: the address of the n-th from the head. -/
def StageQueue.at_ (q : StageQueue) (n : Nat) : Nat := q.pa + (q.head + n) % q.entries * q.bytes

/-- The bytes of the head entry. -/
def State.headEntry (s : State) (q : StageQueue) : List Byte := s.rawBytes .hbm (q.at_ 0) q.bytes

/-- Bytes are written to an area of HBM, line by line: so many lines from an address on. -/
def State.putLines (s : State) (pa : Nat) : Nat → List Byte → State
  | 0, _ => s
  | n + 1, bs => (s.performWrite .hbm pa (bs.take 128) .plain).putLines (pa + 128) n (bs.drop 128)

def State.putArea (s : State) (pa : Nat) (bs : List Byte) : State := s.putLines pa ((bs.length + 127) / 128) bs

/-- A set puts an entry into its output queue. -/
def State.putEntry (s : State) (wk q : Nat) (sq : StageQueue) (glob : Bool) (va : Word) : State :=
  match s.warp? wk with
  | none => s
  | some w =>
    (((s.entryNote w glob va (sq.bytes / 16)).putArea (sq.at_ sq.count) (s.entryBytes w glob va (sq.bytes / 16))).setStageQ q { sq with count := sq.count + 1 })

/-- R379: a set receives the head of its input queue. -/
def State.getEntry (s : State) (wk q : Nat) (sq : StageQueue) (glob : Bool) (va : Word) (m : Mask) (d : BitVec 6) (zero : Mask) : State :=
  let lane := match Mask.lowest m with | some i => i.val | none => 0
  let r := (s.setStageQ q { sq with head := (sq.head + 1) % sq.entries, count := sq.count - 1 }).storeEntry wk lane glob va (sq.bytes / 16) (s.headEntry sq)
  let s1 := r.1.modWarp wk fun w => w.modThreads (maskOf fun i => i.val == lane) fun _ t => (t.wrote s.ns r.2).counted glob false
  (s1.writeVec wk d m zero fun _ => 1).noteSync wk

/-- R227: a waiting set that can be served no more takes the fault of its range. -/
def State.failStager (s : State) (wk : Nat) (m : Mask) (glob : Bool) (va : Word) (n : Nat) (e : Nat × Word) : State :=
  match s.warp? wk with
  | none => s
  | some w => (if e.1 = 0x13 then s.entryNote w glob va n else s).parkWaiting wk e.1 m e.2 fun t => t.pc

/-- R385: the bytes that a `stage.get` stores find room in the staging buffer, where they are staged. -/
def State.entryRoom (s : State) (wk : Nat) (glob : Bool) (va : Word) (n : Nat) : Bool :=
  match s.warp? wk with
  | none => true
  | some w =>
    !glob || s.classOf w == 0 ||
      let seen := match s.group? w.gid with | some g => s.linesOf (dieOf (wkCore wk)) g | none => []
      let keys := ((List.range n).filterMap fun k => match s.place w 0 0 (va + BitVec.ofNat 64 (16 * k)) 16 1 .write with | .ok (.glob t pa) => some (lineKey t pa) | _ => none).eraseDups
      s.stageRoom w.gid (wkCore wk) false (keys.filter fun k => !seen.contains k).length

/-- R385: a set that finds the buffer full waits for room, and then issues its instruction again. -/
def State.bufferStager (s : State) (wk : Nat) (m : Mask) : State :=
  s.modWarp wk fun w => w.modThreads m fun _ t => { t with st := .waiting (.buffer false) t.pc }

/-- The threads of a warp that wait at a stage queue, by direction. -/
def Warp.atStage (w : Warp) (get : Bool) : Mask := w.which fun t => match t.waits with | some (.stage g _ _ _) => g == get | _ => false

/-- A thread began to wait before another, or with it at a lower address. -/
def Thread.earlier (t u : Thread) : Bool := decide (t.since < u.since) || (t.since == u.since && decide (t.pc.toNat < u.pc.toNat))

/-- The waiting set that began first, among the warps of launches with a queue on the given side: warp, threads, what they wait for. -/
def State.firstStager (s : State) (q : Nat) (get : Bool) : Option (Nat × Mask × Wait × Nat) :=
  let cands := s.warps.filterMap fun e =>
    let mine := match s.launchOf e.2 with | some l => (if get then l.inQueue else l.outQueue) == some q | none => false
    let m := e.2.atStage get
    if !mine then none
    else
      match (Mask.lanes m).foldl (fun (b : Option (Fin 32)) i => match b with
          | none => some i
          | some j => if e.2.threads[i].earlier e.2.threads[j] then some i else some j) none with
      | none => none
      | some j =>
        match e.2.threads[j].waits with
        | none => none
        | some wt => some (e.1, maskOf fun i => m.getLsbD i && e.2.threads[i].pc == e.2.threads[j].pc && e.2.threads[i].waits == some wt, wt, e.2.threads[j].since)
  cands.foldl (fun b c => match b with | none => some c | some a => if c.2.2.2 < a.2.2.2 then some c else some a) none

/-- R379: sets that wait on a stage queue go on, in the order in which they began to wait, as its fill allows. -/
def State.serveStage (s : State) (q : Nat) : Nat → State
  | 0 => s
  | fuel + 1 =>
    match s.stageQ? q with
    | none => s
    | some sq =>
      let fault := fun (wk : Nat) (glob : Bool) (va : Word) (p : Perm) => (s.warp? wk).bind fun w => s.entryFault w glob va p (sq.bytes / 16)
      match (if sq.count = 0 then none else s.firstStager q true), (if sq.count < sq.entries then s.firstStager q false else none) with
      | some (wk, m, .stage _ d va glob, _), _ =>
        (match fault wk glob va .write with
          | some e => s.failStager wk m glob va (sq.bytes / 16) e
          | none => if s.entryRoom wk glob va (sq.bytes / 16) then (s.getEntry wk q sq glob va m d 0).release wk m else s.bufferStager wk m).serveStage q fuel
      | _, some (wk, m, .stage _ _ va glob, _) =>
        (match fault wk glob va .read with
          | some e => s.failStager wk m glob va (sq.bytes / 16) e
          | none => (s.putEntry wk q sq glob va).release wk m).serveStage q fuel
      | _, _ => s

/-- R379: every earlier store of the warp has been performed; and, so that the put precedes its get in hb, device time has passed their
completion (DEDUCED, log entry 95). -/
def State.storesDone (s : State) (w : Warp) : Bool :=
  ((List.finRange 32).all fun i => s.timePasses w.threads[i].farH) && s.mem.reqs.all fun r => !(r.gid == w.gid && r.widx == w.widx && !r.sluice && r.writes && r.stage == .posted)

/-- The queue of an instruction's launch, with its record. -/
def State.stageOf (s : State) (w : Warp) (get : Bool) : Option (Nat × StageQueue) :=
  match s.launchOf w with
  | none => none
  | some l =>
    match (if get then l.inQueue else l.outQueue) with
    | none => none
    | some q => (s.stageQ? q).map fun sq => (q, sq)

/-- R379: `stage.put` and `stage.get`. -/
def stageOp (x : Ext) (get : Bool) (s : State) : State :=
  issuing x s fun c s1 =>
    let glob := spaceOf x == 0
    if c.act = 0 then
      c.advance (c.executed (if get then deliverTo s1 c.wk (.vec x.d) none 0 c.zero (fun _ => plain 0) c.pc fun _ => c.pc else s1))
    else
      let go := fun (s2 : State) =>
        let s3 := c.advance (c.executed s2 (refinement [c.srcRuns x.srcA] c.act)) c.act
        let va := c.ea x c.lowest
        match s2.stageOf c.w get with
        | none => c.fault s3 0x08 c.act fun _ => 0
        | some (q, sq) =>
          if va.toNat % 16 ≠ 0 then c.fault s3 0x03 c.act fun _ => va
          else
            match s2.rangeFault c.w 0 (spaceOf x) va (if get then .write else .read) (sq.bytes / 16) with
            | some (cause, a) => c.fault s3 cause c.act fun _ => a
            | none =>
              let s4 := if get then s3.writeVec c.wk x.d 0 c.zero fun _ => 0 else s3
              let s5 := c.hold s4 c.act fun _ => .stage get x.d va glob
              ((if get then c.lend s5 x.d 32 else s5).serveStage q (sq.count + 34)).endStream q
      if get then c.charged s1 x.d 32 go else if !(s1.storesDone c.w) then s else go s1

def execStagePut (x : Ext) (s : State) : Out := .next (stageOp x false s)
def execStageGet (x : Ext) (s : State) : Out := .next (stageOp x true s)

/-! ### Cancelling (R380) -/

/-- The non-exited threads of a group, resident or saved. -/
def State.groupThreads (s : State) (gid : Nat) : Nat :=
  s.liveThreads [gid] + (match s.group? gid with
    | some g => (g.savedWarps.map fun w => Mask.count (w.which fun t => !t.isExited)).sum
    | none => 0)

/-- The threads of a group that wait for a commit, having arrived. -/
def State.groupArrived (s : State) (gid : Nat) : Nat :=
  let of := fun (w : Warp) => Mask.count (w.which fun t => match t.waits with | some (.step held _ _) => !held | _ => false)
  ((s.warpsOf gid).map fun e => of e.2).sum + (match s.group? gid with | some g => (g.savedWarps.map of).sum | none => 0)

/-- R380: a saved group is discarded, with what it has staged and what it left to its engines. Its threads arrive at no commit any more:
an open default count falls by those that have not (DEDUCED, log entry 96). -/
def State.discardGroup (s : State) (gid : Nat) : State :=
  match s.group? gid with
  | none => s
  | some g =>
    let left := s.groupThreads gid - s.groupArrived gid
    let s1 := s.modGroup gid fun g => { g with mode := .discarded, staged := [], savedWarps := [], savedReqs := [], savedStreams := [], savedEnds := [], stepGot := [], saveArea := none }
    let s2 := match g.saveArea with | some a => s1.dropArea a.1 | none => s1
    ((({ s2.dropTickets g.staged with ops := s2.ops.filter (fun o => o.gid != gid), mem := { (s2.dropTickets g.staged).mem with watches := s2.mem.watches.filter fun w => w.gid != gid } }).dropArea g.privPa).modLaunch
      g.launch fun l => l.exitStep g.index left).sluiceRetire gid

/-- The launch copies that run under an identifier (R392 to R394). -/
def State.runsOf (s : State) (lid : Nat) : List Nat := (s.launches.filter fun e => e.1 % 2 ^ 64 == lid % 2 ^ 64).map (·.1)

/-- R380: the launch of an identifier is cancelled, wherever it stands. -/
def State.cancelLaunch (s : State) (id : Word) : State :=
  let s1 := { s with sched := { s.sched with posted := s.sched.posted.map fun (p : Posted) => if p.ident == id then { p with cancelled := true } else p } }
  match s1.launch? id.toNat with
  | none => s1
  | some l =>
    if l.status ≠ 0 ∨ l.cancelled then s1
    else
      let runs := s1.runsOf id.toNat
      let s2 := runs.foldl (fun s k => s.modLaunch k fun l => { l with cancelled := true, flushed := [] }) s1
      let saved := s2.groups.filter fun e => runs.contains e.2.launch && (match e.2.mode with | .saved _ => true | _ => false)
      let s3 := saved.foldl (fun s e => s.discardGroup e.1) s2
      if l.kern.cls = 0 then s3 else runs.foldl (fun s k => if s.frontierGone k then s.advanceFrontier k (l.groups + 1) else s) s3

def execCancel (x : Ext) (s : State) : Out :=
  .next (issuing x s fun c s1 => c.advance ((Mask.lanes c.act).foldl (fun s i => s.cancelLaunch (c.reg x.a i)) (c.executed s1 (refinement [c.srcRuns x.srcA] c.act))))

/-! ### Steps (R387, R388) -/

/-- R388: the counted groups of an arrival that opens a count: those resident or saved now. -/
def State.presentGroups (s : State) (launch : Nat) : List Nat :=
  (s.groups.filter fun e => e.2.launch == launch && (match e.2.mode with | .retired | .discarded => false | _ => true)).map (·.1)

/-- The index of a group. -/
def State.indexOf (s : State) (gid : Nat) : Nat := match s.group? gid with | some g => g.index | none => 0

/-- What an arrival at `step` comes to. -/
inductive StepArrival where
  | held
  | mismatch
  | joins (l : Launch)

/-- R388: one thread's arrival; `n` 0 stands for the default count. -/
def State.stepArrival (s : State) (l : Launch) (lid gid n : Nat) : StepArrival :=
  let l1 := match l.stepCount with
    | some _ => l
    | none =>
      let gs := s.presentGroups lid
      { l with stepping := true, arrived := 0, counted := gs.map s.indexOf, stepCount := some (if n = 0 then ((gs.map s.groupThreads).sum, true) else (n, false)) }
  if l1.hasArrived ∨ !(l1.counted.contains (s.indexOf gid)) then .held
  else
    match l1.stepCount with
    | some (k, dflt) =>
      if dflt ≠ decide (n = 0) ∨ (n ≠ 0 ∧ k ≠ n) then .mismatch
      else .joins { l1 with arrived := l1.arrived + 1, hasArrived := decide (k ≤ l1.arrived + 1) }
    | none => .held

/-- R388: the lanes of a set arrive in order: those that mismatch, and those that are held. -/
def State.stepArrive (s : State) (lid gid n : Nat) : List (Fin 32) → State × Mask × Mask
  | [] => (s, 0, 0)
  | i :: is =>
    match s.launch? lid with
    | none => (s, 0, 0)
    | some l =>
      let bit : Mask := 1#32 <<< i.val
      match s.stepArrival l lid gid n with
      | .held => let r := s.stepArrive lid gid n is; (r.1, r.2.1, r.2.2 ||| bit)
      | .mismatch => let r := s.stepArrive lid gid n is; (r.1, r.2.1 ||| bit, r.2.2)
      | .joins l1 => (s.modLaunch lid fun _ => l1).stepArrive lid gid n is

/-- R387, R388. An arrival is a release at `.dv` scope (R256). The copies of a launch count their own arrivals (DEDUCED, log entry 17). -/
def stepOp (x : Ext) (s : State) : State :=
  issuing x s fun c s1 =>
    let n := if 12 ≤ x.len.bytes then x.l32.toNat else 0
    let d := if x.mb 23 then some x.d else none
    let go := fun (s2 : State) =>
      if c.act = 0 then
        c.advance (c.executed (match d with | some r => deliverTo s2 c.wk (.vec r) none 0 c.zero (fun _ => plain 0) c.pc fun _ => c.pc | none => s2))
      else if !((Mask.lanes c.act).all fun i => s2.mayRelease c.w 5 i) then s
      else
        let lid := match s2.groupOf c.w with | some g => g.launch | none => 0
        let s3 := match d with | some r => s2.writeVec c.wk r 0 c.zero fun _ => 0 | none => s2
        let r := ((c.advance (c.executed s3) c.act).modGroup c.w.gid fun g => { g with stepped := true }).stepArrive lid c.w.gid n (Mask.lanes c.act)
        let s4 := (match d with | some v => c.lend (c.hold r.1 c.act fun i => .step (r.2.2.getLsbD i) n d) v 32 | none => c.hold r.1 c.act fun i => .step (r.2.2.getLsbD i) n d).modWarp c.wk fun w => w.modThreads (c.act &&& ~~~ r.2.1) fun _ t => t.counted false true
        c.fault s4 0x0A r.2.1 fun _ => 0
    match d with | some r => c.charged s1 r 32 go | none => go s1

def execStep (x : Ext) (s : State) : Out := .next (stepOp x s)

end Sys2Proof.Machine
end

