-- ==== Sys2Proof/Machine/Matrix.lean ====
section
/-! DEFINITION. Class 0xA, matrix instructions, and the Gantry (spec 12, R273 to R292). -/

namespace Sys2Proof.Machine

/-! ### The accumulator store (R279, R280) -/

/-- An element of a group's tile. What nothing has written since the group's start is a free value (DESIGN CHOICE, log entry 7). -/
def State.accGet (s : State) (core gid e : Nat) : BitVec 32 :=
  match Sparse.find (s.coreOf core).acc e with
  | some v => v
  | none => Config.freeAcc (match s.group? gid with | some g => g.accEpoch | none => 0) e

def State.accSet (s : State) (core e : Nat) (v : BitVec 32) : State := s.modCore core fun k => { k with acc := Sparse.insert k.acc e v }

/-- The number of element (i, j) of a tile in its core's store. -/
def accIdx (tile i j : Nat) : Nat := tile * 16384 + i * 128 + j

/-- Successive elements of a row. -/
def State.accSetRow (s : State) (core e : Nat) : List (BitVec 32) → State
  | [] => s
  | v :: vs => (s.accSet core e v).accSetRow core (e + 1) vs

/-- R279: the tiles that a group declares. -/
def State.tileOk (s : State) (w : Warp) (tile : Nat) : Bool :=
  match s.launchOf w with
  | some l => decide (l.kern.accFirst ≤ tile ∧ tile < l.kern.accFirst + l.kern.accCount)
  | none => false

/-- The fields of the attention block's shape and tile words (R341). -/
def attRows (b : List Word) : Nat := (b.getD 1 0).toNat / 2 ^ 40 % 2 ^ 8
def attOrg (b : List Word) : Nat := (b.getD 1 0).toNat / 2 ^ 32 % 2 ^ 8
def attDim (b : List Word) : Nat := (b.getD 1 0).toNat / 2 ^ 24 % 4
def attPages (b : List Word) : Nat := (b.getD 1 0).toNat % 2 ^ 7
def attQt (b : List Word) : Nat := (b.getD 2 0).toNat % 2 ^ 7
def attSt (b : List Word) : Nat := (b.getD 2 0).toNat / 2 ^ 8 % 2 ^ 7
def attSb (b : List Word) : Nat := (b.getD 2 0).toNat / 2 ^ 16 % 2 ^ 7
def attOt (b : List Word) : Nat := (b.getD 2 0).toNat / 2 ^ 24 % 2 ^ 7

/-- R349: the query tile and dimension code of a selection block. -/
def selQt (b : List Word) : Nat := (b.getD 1 0).toNat / 2 ^ 24 % 2 ^ 7
def selDim (b : List Word) : Nat := (b.getD 1 0).toNat / 2 ^ 48 % 4

/-- R341: a tile, and the next one for D = 256. -/
def tilePair (dim t : Nat) : List Nat := if dim = 2 then [t, t + 1] else [t]

/-- R341: the score tiles. -/
def scoreTiles (b : List Word) : List Nat := (List.range ((attPages b + 3) / 4)).map fun k => attSb b + k

/-- R280, R348: the tiles that an instruction with these operands reads or writes. -/
def instrTiles (i : Instr) (b : List Word) : List Nat :=
  match i with
  | .accz x | .accld x | .accst x => [x.l32.toNat % 128]
  | .acccp x => [x.l32.toNat % 128, x.l32.toNat / 2 ^ 8 % 128]
  | .atts _ => tilePair (attDim b) (attQt b) ++ attSt b :: scoreTiles b
  | .attv _ => attSt b :: scoreTiles b ++ tilePair (attDim b) (attOt b)
  | .attf x => attSt b :: (if x.mb 24 then scoreTiles b else []) ++ if x.mb 23 then tilePair (attDim b) (attOt b) else []
  | .psel _ => tilePair (selDim b) (selQt b)
  | _ => []

def EngOp.tiles (o : EngOp) : List Nat := instrTiles o.instr o.vals

/-- R348: the operation holds an entry of the reservation table. -/
def EngOp.isAtt (o : EngOp) : Bool := match o.instr with | .atts _ | .attv _ | .attf _ => true | _ => false

def State.gantry (s : State) (u : Nat) : Gantry := (Sparse.find s.gantries u).getD Gantry.init

def State.modGantry (s : State) (u : Nat) (f : Gantry → Gantry) : State := { s with gantries := Sparse.insert s.gantries u (f (s.gantry u)) }

/-- The requests that a Gantry holds: in its table and in its passes. -/
def Gantry.held (g : Gantry) : List MmaReq := g.table ++ g.passes.flatMap fun p => p.reqs.map (·.1)

/-- The entries of the reservation table in use (R276, R348). -/
def State.tableUse (s : State) (u : Nat) : Nat := (s.gantry u).held.length + (s.ops.filter fun o => o.isAtt && o.core / 4 == u).length

/-- R280: no operation of a core with a lower number, other than an `mma`, is pending on a tile. -/
def State.opsClear (s : State) (core : Nat) (tiles : List Nat) (id : Nat) : Bool :=
  s.ops.all fun o => !(o.core == core && decide (o.id < id) && !o.done && o.tiles.any fun t => tiles.contains t)

/-- R280: neither is a pass (DESIGN CHOICE, log entry 56). -/
def State.tilesClear (s : State) (core : Nat) (tiles : List Nat) (id : Nat) : Bool :=
  s.opsClear core tiles id && (s.gantry (core / 4)).held.all fun m => !(m.core == core && decide (m.id < id) && tiles.contains m.tile)

/-! ### Streams (R274, R275) -/

/-- The fields of a geometry word (R285). -/
def geoFmt (g : Word) : Nat := g.toNat % 16
def geoRows (g : Word) : Nat := (g.toNat / 2 ^ 8 % 256 + 1) * 8
def geoK (g : Word) : Nat := g.toNat / 2 ^ 16 % 2 ^ 14 * 32

/-- Rows of a segment: m of an A stream, 128 columns of a B stream. -/
def segRows (sn : Nat) (g : Word) : Nat := if sn < 16 then geoRows g else 128

/-- R274: bytes of a segment. -/
def segBytes (sn : Nat) (g : Word) : Nat := segRows sn g * rowBytes (geoFmt g) (geoK g)

/-- R274: the buffer of a stream. -/
def streamBuffer (sn : Nat) : Nat := if sn < 16 then 2 ^ 17 else 2 ^ 19

/-- R274, R285, R292: a geometry that a stream accepts. -/
def geoOk (sn : Nat) (g : Word) : Bool :=
  g.toNat / 2 ^ 30 == 0 && g.toNat / 2 ^ 4 % 16 == 0 && decide (geoFmt g ≤ 9) && geoK g != 0 && (geoFmt g != 9 || geoK g % 256 == 0)
    && (if sn < 16 then decide (g.toNat / 2 ^ 8 % 256 ≤ 15) else g.toNat / 2 ^ 8 % 256 == 0) && decide (segBytes sn g ≤ streamBuffer sn)

/-- The stream belongs to the crew of a warp's group. -/
def State.ownsStream (s : State) (w : Warp) (q : GStream) : Bool :=
  match s.groupOf w with
  | some g => match s.launch? g.launch with | some l => q.launch == g.launch && q.copy == g.copy && q.crew == crewNumber l g | none => false
  | none => false

/-- The retire position (R275). -/
def GStream.retire (q : GStream) : Nat := match q.segs with | g :: _ => g.pos | [] => q.next

/-- How a position stands (R275); one that a faulted feed has claimed is used up (R308). -/
inductive PosState where
  | usedUp | live | ahead
  deriving DecidableEq, Repr

def GStream.posState (q : GStream) (p : Nat) : PosState :=
  if q.segs.any fun g => g.pos == p then .live
  else if !(q.void.contains p) ∧ (p + 2 ^ 32 - q.retire) % 2 ^ 32 < 2 ^ 31 ∧ (q.next + 2 ^ 32 - q.retire) % 2 ^ 32 ≤ (p + 2 ^ 32 - q.retire) % 2 ^ 32 then .ahead
  else .usedUp

/-- The live segment at a position. -/
def GStream.seg? (q : GStream) (p : Nat) : Option Segment := q.segs.find? fun g => g.pos == p

/-- R275: positions in the buffer: live segments and claims that are not live yet. -/
def GStream.taken (q : GStream) : Nat := q.segs.length + ((q.claims + 2 ^ 32 - q.next) % 2 ^ 32 - q.void.length)

/-- R275, R303: the stream has room for one more segment. -/
def GStream.room (q : GStream) (sn : Nat) : Bool := decide (q.taken < 64) && decide ((q.taken + 1) * segBytes sn q.geo ≤ streamBuffer sn)

/-- R308: positions without a segment are passed over. -/
def GStream.settle (q : GStream) : Nat → GStream
  | 0 => q
  | fuel + 1 =>
    if q.void.contains q.next then ({ q with void := q.void.filter (· != q.next), next := (q.next + 1) % 2 ^ 32 } : GStream).settle fuel else q

/-- R303: the feed of the next position completes: its segment becomes live. -/
def GStream.goLive (q : GStream) : GStream :=
  match q.ready.find? fun g => g.pos == q.next with
  | some g => ({ q with segs := q.segs ++ [g], ready := q.ready.filter (fun r => r.pos != q.next), next := (q.next + 1) % 2 ^ 32 } : GStream).settle 64
  | none => q

/-! ### Arithmetic (R273, R281, R282) -/

/-- R273: the depth of a format. -/
def depth (code : Nat) : Nat := match code with | 0 => 8 | 1 => 8 | 2 => 2 | 7 => 32 | 9 => 32 | _ => 16

/-- R281: add32. -/
def add32 (x y : Nat) : Nat := (fpAdd f32 0 false x y).1

/-- R282: an element that flags its row or column. -/
def NVal.flagged : NVal → Bool
  | .fin _ => false
  | _ => true

def NVal.exact (v : NVal) (neg : Bool) : Exact :=
  match v with
  | .fin x => if neg then { x with neg := !x.neg } else x
  | _ => { neg := false, m := 0, e := 0 }

/-- R281: the k-groups of a row and a column, each summed exactly and rounded once. -/
def dotGroups (kg : Nat) : Nat → List Exact → List Exact → Nat → Nat
  | 0, _, _, acc => acc
  | n + 1, as, bs, acc =>
    let s := exactSum 0 (((as.take kg).zip (bs.take kg)).map fun p => p.1.mul p.2)
    dotGroups kg n (as.drop kg) (bs.drop kg) (add32 acc (deliver f32 0 false s).1)

/-- The value that a pass accumulates at one element. -/
def passElem (kg k : Nat) (na nb : Bool) (row col : List NVal) : BitVec 32 :=
  if row.any NVal.flagged ∨ col.any NVal.flagged then 0x7FC00000
  else BitVec.ofNat 32 (dotGroups kg (k / kg) (row.map fun v => v.exact na) (col.map fun v => v.exact nb) 0)

/-- The rows that a request's pass accumulates. -/
def passRows (ga gb : Word) (na nb : Bool) (a b : Segment) : List (List (BitVec 32)) :=
  let k := geoK ga
  let kg := min (depth (geoFmt ga)) (depth (geoFmt gb))
  let cols := b.rows.map (rowDecode (geoFmt gb) k)
  a.rows.map fun r => cols.map fun c => passElem kg k na nb (rowDecode (geoFmt ga) k r) c

/-! ### Posting (R276, R286) -/

/-- R286: the checks of a request. -/
def State.mmaOk (s : State) (c : Ctx) (x : Ext) (apos bpos : Nat) : Bool :=
  let g := s.gantry (c.core / 4)
  match Sparse.find g.streams x.b.toNat, Sparse.find g.streams x.c.toNat with
  | some a, some b =>
    s.ownsStream c.w a && s.ownsStream c.w b && geoK a.geo == geoK b.geo && (geoFmt a.geo == 8) == (geoFmt b.geo == 8)
      && (x.l32.toNat / 2 ^ 11 % 16 + 1) * 8 == geoRows a.geo && s.tileOk c.w (x.l32.toNat % 128)
      && a.posState apos != .usedUp && b.posState bpos != .usedUp
  | _, _ => false

/-- R276: both segments of a request are live. -/
def State.mmaFed (s : State) (u : Nat) (m : MmaReq) : Bool :=
  match Sparse.find (s.gantry u).streams m.sa, Sparse.find (s.gantry u).streams m.sb with
  | some a, some b => (a.seg? m.apos).isSome && (b.seg? m.bpos).isSome
  | _, _ => false

/-- R276: a request is ready (DEDUCED, log entry 58). -/
def State.mmaReady (s : State) (u : Nat) (m : MmaReq) : Bool := s.mmaFed u m && s.opsClear m.core [m.tile] m.id

/-- R348: an attention request of a cluster that waits to begin. -/
def EngOp.attWaits (o : EngOp) (u : Nat) : Bool := o.isAtt && o.core / 4 == u && !o.started && !o.done

/-- R348: such a request is ready: its fork has passed, and so has what was issued earlier on its tiles. -/
def State.attReady (s : State) (o : EngOp) : Bool := o.forked s && s.tilesClear o.core o.tiles o.id

/-- R277: entries that have become ready take note of the cycle. -/
def State.noteReady (s : State) (u : Nat) : State :=
  let mark := fun m : MmaReq => if m.readyAt.isNone && s.mmaReady u m then { m with readyAt := some s.clock.cycles } else m
  let mark' := fun o : EngOp =>
    if o.attWaits u && o.readyAt.isNone && s.attReady o then { o with readyAt := some s.clock.cycles } else o
  let s1 := s.modGantry u fun g => { g with table := g.table.map mark }
  { s1 with ops := s1.ops.map mark' }

/-- R276, R286: a quarter posts its request once it takes an entry of the table, in the order in which quarters began to wait for one; the
request is checked as it is posted. -/
def mmaPost (x : Ext) (c : Ctx) (s : State) : QResult :=
  let u := c.core / 4
  let v := (c.reg x.a c.first).toNat
  let apos := v % 2 ^ 32
  let bpos := v / 2 ^ 32
  if 64 ≤ s.tableUse u ∨ s.behind (c.place 0 u) then .wait 0 u
  else if !(s.mmaOk c x apos bpos) then .done (c.badHandle s)
  else if !(c.slot x.d.toNat).room 1 then .later
  else
    let s1 := s.modWarp c.wk fun w => w.setSlot x.d.toNat fun q => q.post 1
    .done ((s1.bump.modGantry u fun g => { g with table := g.table ++
      [{ id := s1.fresh, core := c.core, gid := c.w.gid, widx := c.w.widx, quarter := c.quarter, slot := x.d.toNat, sa := x.b.toNat, sb := x.c.toNat
         acc := x.mb 23, na := x.mb 24, nb := x.mb 25, tile := x.l32.toNat % 128, row0 := x.l32.toNat / 2 ^ 7 % 16 * 8
         m := (x.l32.toNat / 2 ^ 11 % 16 + 1) * 8, apos := apos, bpos := bpos, fork := c.fork, readyAt := none }] }).noteReady u)

def execMma (x : Ext) (s : State) : Out := .next (quarterOp x (.mma x) none (mmaPost x) s)

/-! ### Passes (R277) -/

/-- Two requests of one quarter write overlapping rows of one tile (R280). -/
def MmaReq.overlaps (a b : MmaReq) : Bool :=
  a.core == b.core && a.gid == b.gid && a.widx == b.widx && a.quarter == b.quarter && a.tile == b.tile
    && decide (a.row0 < b.row0 + b.m ∧ b.row0 < a.row0 + a.m)

/-- The request may enter a pass after the ones already taken: it is ready, its fork has passed, and earlier passes of its quarter on
its rows have been taken (R258, R276, R280). -/
def State.mmaEligible (s : State) (u : Nat) (taken : List MmaReq) (m : MmaReq) : Bool :=
  s.mmaReady u m && s.forkClear m.id m.gid m.widx m.quarter m.fork
    && (s.gantry u).table.all fun q => !(decide (q.id < m.id) && q.overlaps m && !(taken.contains q))

/-- R277: an entry that has been ready for long. -/
def State.readyLong (s : State) (at_ : Option Nat) : Bool := match at_ with | some c => decide (8192 ≤ s.clock.cycles - c) | none => false

/-- The priority of a group's launch. -/
def State.prioOfGroup (s : State) (gid : Nat) : Nat := match (s.group? gid).bind fun g => s.launch? g.launch with | some l => l.prio | none => 0

/-- R277, R348: what a pass may begin with: a request of an `mma`, or an attention request. -/
inductive Leader where
  | mma (m : MmaReq)
  | att (o : EngOp)

def Leader.id : Leader → Nat
  | .mma m => m.id
  | .att o => o.id

def Leader.gid : Leader → Nat
  | .mma m => m.gid
  | .att o => o.gid

def Leader.readyAt : Leader → Option Nat
  | .mma m => m.readyAt
  | .att o => o.readyAt

/-- R277: the rank of an entry: long readiness, then priority, then posting order. -/
def State.ranksBefore (s : State) (a b : Leader) : Bool :=
  if s.readyLong a.readyAt != s.readyLong b.readyAt then s.readyLong a.readyAt
  else if s.prioOfGroup a.gid ≠ s.prioOfGroup b.gid then decide (s.prioOfGroup b.gid < s.prioOfGroup a.gid)
  else decide (a.id < b.id)

/-- R277, R348: the leader among the entries that are ready. -/
def State.passLeader (s : State) (u : Nat) : Option Leader :=
  (((s.gantry u).table.filter fun m => s.mmaEligible u [] m).map Leader.mma ++ (s.ops.filter fun o => o.attWaits u && s.attReady o).map Leader.att).foldl
    (fun (b : Option Leader) m => match b with
      | none => some m
      | some a => if s.ranksBefore m a then some m else some a) none

/-- The operand format of a request's A stream. -/
def Gantry.aFmt (g : Gantry) (m : MmaReq) : Nat := match Sparse.find g.streams m.sa with | some a => geoFmt a.geo | none => 0

/-- R277: the entries that fuse with a leader, in posting order. -/
def State.fuse (s : State) (u : Nat) (lead : MmaReq) : List MmaReq :=
  let g := s.gantry u
  g.table.foldl (fun taken m =>
    if m == lead then taken
    else if m.sb == lead.sb && m.bpos == lead.bpos && g.aFmt m == g.aFmt lead && s.mmaEligible u taken m
        && decide (taken.length < 16) && decide ((taken.map (·.m)).sum + m.m ≤ 128) then taken ++ [m]
    else taken) [lead]

/-- One use of a segment is counted (R275) (DEDUCED, log entry 59). -/
def GStream.use (q : GStream) (p : Nat) : GStream :=
  { q with segs := (q.segs.map fun g => if g.pos = p then { g with uses := g.uses - 1 } else g).filter fun g => g.uses != 0 }

/-- R277: uses of the segments that a pass reads, each once. -/
def Gantry.useAll (g : Gantry) (ps : List (Nat × Nat)) : Gantry :=
  { g with streams := ps.eraseDups.foldl (fun m p => Sparse.modify m p.1 fun q => q.use p.2) g.streams }

/-- A position of a stream is used up. -/
def Gantry.usedUp (g : Gantry) (sn p : Nat) : Bool := match Sparse.find g.streams sn with | some q => q.posState p == .usedUp | none => true

/-- R277: an entry that names a position that is used up; the stream and position of its late fault (DEDUCED, log entry 51). -/
def Gantry.starved (g : Gantry) (m : MmaReq) : Option (Nat × Nat) :=
  if g.usedUp m.sa m.apos then some (m.sa, m.apos) else if g.usedUp m.sb m.bpos then some (m.sb, m.bpos) else none

/-- R277, R284: entries that can no longer execute are removed, and fail. -/
def State.failStarved (s : State) (u : Nat) : State :=
  let g := s.gantry u
  let bad := g.table.filterMap fun m => (g.starved m).map fun p => (m, p)
  bad.foldl (fun s e => s.finishSlot e.1.gid e.1.widx e.1.slot (some (0x08, e.1.quarter, BitVec.ofNat 64 (e.2.1 + e.2.2 * 2 ^ 32))))
    (s.modGantry u fun g => { g with table := g.table.filter fun m => (g.starved m).isNone })

/-- The segments that a pass reads. -/
def Pass.reads (p : Pass) : List (Nat × Nat) := p.reqs.flatMap fun e => [(e.1.sa, e.1.apos), (e.1.sb, e.1.bpos)]

/-- R277: a pass begins, once the array has read the one before it: that of a leader and what fuses with it, each counted (R419, event 0x09),
or an attention request's. -/
def State.startPass (s : State) (u : Nat) : State :=
  if (s.gantry u).passes.any fun p => !p.read then s
  else
    match s.passLeader u with
    | none => s
    | some (.att o) => s.setOp o.id fun q => { q with started := true }
    | some (.mma lead) =>
      let taken := s.fuse u lead
      let g := s.gantry u
      let rows := fun (m : MmaReq) =>
        match Sparse.find g.streams m.sa, Sparse.find g.streams m.sb with
        | some a, some b => match a.seg? m.apos, b.seg? m.bpos with | some sa, some sb => passRows a.geo b.geo m.na m.nb sa sb | _, _ => []
        | _, _ => []
      (taken.drop 1).foldl (fun s m => s.count m.core 0x09 1) (s.modGantry u fun g =>
        { g with table := g.table.filter (fun m => !(taken.contains m)), passes := g.passes ++ [{ read := false, reqs := taken.map fun m => (m, rows m) }] })

/-- R277: the array has read the last k-group of its newest pass: each segment that it read counts one use, and entries that name one that is
used up now fail. -/
def State.readPass (s : State) (u : Nat) : State :=
  let used := ((s.gantry u).passes.filter fun p => !p.read).flatMap Pass.reads
  (s.modGantry u fun g => ({ g with passes := g.passes.map fun p => { p with read := true } } : Gantry).useAll used).failStarved u

/-- R281: a request's rows reach its tile. -/
def State.drainRows (s : State) (m : MmaReq) : Nat → List (List (BitVec 32)) → State
  | _, [] => s
  | i, r :: rs =>
    let e := accIdx m.tile (m.row0 + i) 0
    let vs := r.mapIdx fun j v => if m.acc then BitVec.ofNat 32 (add32 v.toNat (s.accGet m.core m.gid (e + j)).toNat) else v
    (s.accSetRow m.core e vs).drainRows m (i + 1) rs

/-- R277, R281: the oldest pass, which has been read, drains, request after request. -/
def State.drainOldest (s : State) (u : Nat) : State :=
  match (s.gantry u).passes with
  | [] => s
  | p :: rest =>
    let s1 := s.modGantry u fun g => { g with passes := rest }
    ((p.reqs.foldl (fun s e => (s.drainRows e.1 0 e.2).finishSlot e.1.gid e.1.widx e.1.slot none) s1).noteReady u)

/-- The array goes on: it reads the end of the newest pass, or drains the oldest. -/
def State.drainPass (s : State) (u : Nat) : State :=
  if (s.gantry u).passes.any fun p => !p.read then (s.readPass u).noteReady u else s.drainOldest u

/-! ### Tile operations (R287 to R290) -/

/-- R287: a tile is zeroed. -/
def State.zeroTile (s : State) (core tile : Nat) : State :=
  s.modCore core fun k => { k with acc := (List.range 16384).foldl (fun a e => Sparse.insert a (tile * 16384 + e) 0) k.acc }

/-- R288: a tile is copied, or added, element by element. -/
def State.copyTile (s : State) (core gid dst src : Nat) (add : Bool) : State :=
  (List.range 16384).foldl (fun s1 e =>
    let v := s.accGet core gid (src * 16384 + e)
    s1.accSet core (dst * 16384 + e) (if add then BitVec.ofNat 32 (add32 (s.accGet core gid (dst * 16384 + e)).toNat v.toNat) else v)) s

/-- The effect of an operation that only moves tiles. -/
def State.tileEffect (s : State) (core gid : Nat) (i : Instr) : State :=
  match i with
  | .accz x => s.zeroTile core (x.l32.toNat % 128)
  | .acccp x => s.copyTile core gid (x.l32.toNat % 128) (x.l32.toNat / 2 ^ 8 % 128) (x.mb 23)
  | _ => s

/-- R287, R288: a quarter's tile operation: performed now, or after what is pending on its tiles (R280). -/
def tileOp (i : Instr) (tiles : List Nat) (c : Ctx) (s : State) : QResult :=
  .done (if !(tiles.all fun t => s.tileOk c.w t) then c.badHandle s
         else if s.tilesClear c.core tiles s.fresh then s.tileEffect c.core c.w.gid i
         else c.postOp s i none [] false)

def execAccz (x : Ext) (s : State) : Out := .next (quarterOp x (.accz x) none (tileOp (.accz x) [x.l32.toNat % 128]) s)
def execAcccp (x : Ext) (s : State) : Out :=
  .next (quarterOp x (.acccp x) none (tileOp (.acccp x) [x.l32.toNat % 128, x.l32.toNat / 2 ^ 8 % 128]) s)

/-- R289: element bytes of `accld` and `accst`. -/
def accBytes (x : Ext) : Nat := codeBits (x.m 23 4) / 8

/-- R289: what stops `accld` and `accst` at release; a bad stride or tile before a misaligned base (DESIGN CHOICE, log entry 112). -/
def State.accFault (s : State) (c : Ctx) (x : Ext) (p : Perm) : Option (Nat × Word) :=
  let va := c.reg x.a c.first
  let st := c.reg x.b c.first
  if !(s.tileOk c.w (x.l32.toNat % 128)) ∨ st.toNat % 16 ≠ 0 ∨ st.toNat < 128 * accBytes x then some (0x08, 0)
  else if va.toNat % 16 ≠ 0 then some (0x03, va)
  else (List.range 128).findSome? fun i => s.spanFault c.w 0 (x.m 27 3) (va + BitVec.ofNat 64 (i * st.toNat)) p (128 * accBytes x)

/-- R289: `accld` and `accst` are posted. -/
def accPost (x : Ext) (i : Instr) (p : Perm) (c : Ctx) (s : State) : QResult :=
  match s.accFault c x p with
  | some (cause, a) => .done (c.fault s cause c.act fun _ => a)
  | none =>
    if !(c.slot x.d.toNat).room 1 then .later
    else .done (c.postOp s i (some x.d.toNat) [c.reg x.a c.first, c.reg x.b c.first] (p == .write && x.m 27 3 == 0))

def execAccld (x : Ext) (s : State) : Out := .next (quarterOp x (.accld x) none (accPost x (.accld x) .read) s)
def execAccst (x : Ext) (s : State) : Out := .next (quarterOp x (.accst x) none (accPost x (.accst x) .write) s)

/-- R289: an element of memory as FP32 bits. -/
def accDecode (fmt : Nat) (b : List Byte) : BitVec 32 :=
  if fmt = 2 then BitVec.ofNat 32 (natOfBytes b) else BitVec.ofNat 32 ((decodeNarrow fmt (natOfBytes b)).deliver f32 0 false).1

/-- R289: FP32 bits as bytes of memory. -/
def accEncode (fmt : Nat) (sat : Bool) (v : BitVec 32) : List Byte :=
  if fmt = 2 then bytesOfNat 4 v.toNat else bytesOfNat (codeBits fmt / 8) (narrow fmt sat (f32.toVal v.toNat)).1

/-- R289: a row of memory in lines, each read or failed; with the first fault. -/
def State.accLines (s : State) (w : Warp) (space : Nat) : Nat → Word → Nat → List (Option Byte) × Option (Nat × Word)
  | 0, _, _ => ([], none)
  | k + 1, va, n =>
    if n = 0 then ([], none)
    else
      let m := min n (128 - va.toNat % 128)
      let r := s.accLines w space k (va + BitVec.ofNat 64 m) (n - m)
      match s.engRead w space 2 va m with
      | .ok bs => (bs.map some ++ r.1, r.2)
      | .error e => (List.replicate m none ++ r.1, some e)

/-- The elements of a row: those of a line that could not be read are NaN. -/
def accRowOf (fmt eb : Nat) : Nat → List (Option Byte) → List (BitVec 32)
  | 0, _ => []
  | n + 1, bs =>
    (if (bs.take eb).all Option.isSome then accDecode fmt ((bs.take eb).filterMap id) else 0x7FC00000) :: accRowOf fmt eb n (bs.drop eb)

/-- R289: a row of `accld`: the state, and its late fault. -/
def State.accLoadRow (s : State) (o : EngOp) (x : Ext) (w : Warp) (va : Word) : State × Nat × Option (Nat × Word) :=
  let n := 128 * accBytes x
  let r := (s.engNote w (x.m 27 3) va n).accLines w (x.m 27 3) (pieces n) va n
  ((s.engNote w (x.m 27 3) va n).accSetRow o.core (accIdx (x.l32.toNat % 128) o.rows 0) (accRowOf (x.m 23 4) (accBytes x) 128 r.1), 0, r.2)

/-- R289: a row of `accst`. -/
def State.accStoreRow (s : State) (o : EngOp) (x : Ext) (w : Warp) (va : Word) : State × Nat × Option (Nat × Word) :=
  let e := accIdx (x.l32.toNat % 128) o.rows 0
  let bs := (List.range 128).flatMap fun j => accEncode (x.m 23 4) x.sat (s.accGet o.core o.gid (e + j))
  s.engWrite o w (x.m 27 3) 0 (pieces bs.length) va bs

/-- R284, R363: a row of an operation has moved, or its fault has ended it. -/
def EngOp.rowMoved (o : EngOp) (total : Nat) (r : State × Nat × Option (Nat × Word)) : State :=
  r.1.setOp o.id fun q =>
    match r.2.2 with
    | some e => { q with done := true, err := some e, doneAt := laterOf q.doneAt r.2.1 }
    | none => { q with rows := q.rows + 1, done := decide (total ≤ q.rows + 1), doneAt := if r.2.1 = 0 then q.doneAt else laterOf q.doneAt r.2.1 }

/-- R280, R289: an operation of this class is performed whole, or goes on by one row, whose lines it has touched (R219). -/
def State.advanceTile (s : State) (o : EngOp) : State :=
  if o.done ∨ !(o.forked s) ∨ !(s.tilesClear o.core o.tiles o.id) then s
  else
    let w := s.warpOfOp o
    let va := (o.vals.getD 0 0) + BitVec.ofNat 64 (o.rows * (o.vals.getD 1 0).toNat)
    match o.instr with
    | .accz _ | .acccp _ => ((s.tileEffect o.core o.gid o.instr).setOp o.id fun q => { q with done := true }).noteReady (o.core / 4)
    | .accld x => s.engMove o (s.engLines o w (x.m 27 3) va (128 * accBytes x) .read) fun s => (o.rowMoved 128 (s.accLoadRow o x w va)).noteReady (o.core / 4)
    | .accst x =>
      if !(s.engRoom o w (x.m 27 3) [(va, 128 * accBytes x)]) then s
      else s.engMove o (s.engLines o w (x.m 27 3) va (128 * accBytes x) .write) fun s => (o.rowMoved 128 (s.accStoreRow o x w va)).noteReady (o.core / 4)
    | _ => s

/-! ### `accrd`, `accwr` (R290) -/

/-- R290: an index: tile, row, even column. -/
def accIndex (v : Word) : Option (Nat × Nat) :=
  let n := v.toNat
  if n < 2 ^ 23 ∧ n % 2 = 0 ∧ n / 2 ^ 7 % 2 = 0 ∧ n / 2 ^ 15 % 2 = 0 then some (n / 2 ^ 16, accIdx (n / 2 ^ 16) (n / 2 ^ 8 % 128) (n % 128)) else none

/-- The threads of a quarter whose index is bad, and the element of the others. -/
def State.accElem (s : State) (c : Ctx) (r : BitVec 6) (i : Fin 32) : Option (Nat × Nat) :=
  match accIndex (c.reg r i) with
  | some (t, e) => if s.tileOk c.w t then some (t, e) else none
  | none => none

/-- The tiles that a quarter's indices name. -/
def State.accTiles (s : State) (c : Ctx) (r : BitVec 6) : List Nat := (Mask.lanes c.act).filterMap fun i => (s.accElem c r i).map (·.1)

/-- R290: `accrd`. -/
def accrdGo (x : Ext) (c : Ctx) (s : State) : QResult :=
  if !(s.tilesClear c.core (s.accTiles c x.a) s.fresh) then .later
  else
    let bad := maskOf fun i => c.act.getLsbD i && (s.accElem c x.a i).isNone
    .done (c.charged s x.d 32 fun s1 =>
      c.fault (s1.writeVec c.wk x.d (c.act &&& ~~~ bad) 0 fun i =>
        match s.accElem c x.a i with
        | some (_, e) => s.accGet c.core c.w.gid (e + 1) ++ s.accGet c.core c.w.gid e
        | none => 0) 0x08 bad fun _ => 0)

def execAccrd (x : Ext) (s : State) : Out := .next (quarterOp x (.accrd x) (some x.d) (accrdGo x) s)

/-- R290: `accwr`, in lane order. -/
def accwrGo (x : Ext) (c : Ctx) (s : State) : QResult :=
  if !(s.tilesClear c.core (s.accTiles c x.a) s.fresh) then .later
  else
    let bad := maskOf fun i => c.act.getLsbD i && (s.accElem c x.a i).isNone
    .done (c.fault ((Mask.lanes c.act).foldl (fun s1 i =>
      match s.accElem c x.a i with
      | some (_, e) => (s1.accSet c.core e ((c.reg x.b i).setWidth 32)).accSet c.core (e + 1) ((c.reg x.b i).extractLsb' 32 32)
      | none => s1) s) 0x08 bad fun _ => 0)

def execAccwr (x : Ext) (s : State) : Out := .next (quarterOp x (.accwr x) none (accwrGo x) s)

/-! ### Status and binding (R291, R292) -/

/-- R291: the value of a query for a thread. -/
def State.mstatWord (s : State) (c : Ctx) (x : Ext) (i : Fin 32) : Word :=
  let g := s.gantry (c.core / 4)
  match x.m 23 2 with
  | 0 => BitVec.ofNat 64 (64 - s.tableUse (c.core / 4) + ((g.held.filter fun m => m.gid == c.w.gid && m.widx == c.w.widx).length
      + (s.ops.filter fun o => o.isAtt && o.gid == c.w.gid && o.widx == c.w.widx).length) * 2 ^ 8)
  | 1 => match Sparse.find g.streams x.b.toNat with
    | some q => if s.ownsStream c.w q then BitVec.ofNat 64 (q.next + q.retire * 2 ^ 32) else 0
    | none => 0
  | 2 => match Sparse.find g.streams x.b.toNat with
    | some q => if s.ownsStream c.w q then q.geo else 0
    | none => 0
  | _ => BitVec.ofNat 64 (g.held.filter fun m => m.core == c.core && m.tile == (c.reg x.a i).toNat % 128).length

def mstatGo (x : Ext) (c : Ctx) (s : State) : QResult :=
  let bad := if x.m 23 2 = 3 then maskOf fun i => c.act.getLsbD i && !(s.tileOk c.w ((c.reg x.a i).toNat % 128)) else 0
  .done (c.charged s x.d 32 fun s1 => c.fault (s1.writeVec c.wk x.d (c.act &&& ~~~ bad) 0 (s.mstatWord c x)) 0x08 bad fun _ => 0)

def execMstat (x : Ext) (s : State) : Out := .next (quarterOp x (.mstat x) (some x.d) (mstatGo x) s)

/-- R292: a feed into a stream, or a request that names it, is outstanding. -/
def State.streamBusy (s : State) (u sn : Nat) : Bool :=
  (s.gantry u).held.any (fun m => m.sa == sn || m.sb == sn)
    || s.ops.any fun o => o.core / 4 == u && (match o.instr with | .tfeed x => x.b.toNat == sn | _ => false)

/-- A stream as it is bound. -/
def GStream.bound (launch copy crew : Nat) (geo : Word) : GStream :=
  { launch := launch, copy := copy, crew := crew, geo := geo, next := 0, claims := 0, segs := [], ready := [], void := [] }

/-- R292. -/
def mbindGo (x : Ext) (c : Ctx) (s : State) : QResult :=
  let u := c.core / 4
  let sn := x.d.toNat
  let geo := c.reg x.a c.first
  let mine := match Sparse.find (s.gantry u).streams sn with | some q => s.ownsStream c.w q && q.segs.isEmpty | none => true
  if !(geoOk sn geo) || !mine || s.streamBusy u sn then .done (c.badHandle s)
  else
    match s.groupOf c.w with
    | none => .done s
    | some g =>
      let crew := match s.launch? g.launch with | some l => crewNumber l g | none => 0
      .done (s.modGantry u fun t => { t with streams := Sparse.insert t.streams sn (GStream.bound g.launch g.copy crew geo) })

def execMbind (x : Ext) (s : State) : Out := .next (quarterOp x (.mbind x) none (mbindGo x) s)

/-- R292: `mbind.free`; of a stream that is not bound it frees nothing. -/
def mbindFreeGo (x : Ext) (c : Ctx) (s : State) : QResult :=
  let u := c.core / 4
  let sn := x.d.toNat
  .done (match Sparse.find (s.gantry u).streams sn with
    | none => s
    | some q =>
      if !(s.ownsStream c.w q) || s.streamBusy u sn then c.badHandle s
      else s.modGantry u fun t => { t with streams := Sparse.erase t.streams sn })

def execMbindFree (x : Ext) (s : State) : Out := .next (quarterOp x (.mbindFree x) none (mbindFreeGo x) s)

end Sys2Proof.Machine
end

