-- ==== Sys2Proof/Machine/Tender.lean ====
section
/-! DEFINITION. Class 0xB, Tender instructions (spec 13, R295 to R308). -/

namespace Sys2Proof.Machine

/-! ### The transfer block (R297, R298) -/

/-- A block of a quarter: word w is vA of thread 8j + w. -/
def Ctx.block (c : Ctx) (r : BitVec 6) : List Word := (Mask.lanes c.act).map (c.reg r)

/-- The fields of a block. -/
def tRows (b : List Word) : Nat := (b.getD 2 0).toNat / 2 ^ 24 % 2 ^ 16
def tLen (b : List Word) : Nat := (b.getD 2 0).toNat % 2 ^ 24
def tFs (b : List Word) : Nat := (b.getD 5 0).toNat % 16
def tFd (b : List Word) : Nat := (b.getD 5 0).toNat / 16 % 16
def tSat (b : List Word) : Bool := (b.getD 5 0).getLsbD 8

/-- Which words of the block an instruction uses: source, destination, conversion, pattern, index list. -/
structure TenderUse where
  src  : Bool
  dst  : Bool
  conv : Bool
  fill : Bool := false
  idx  : Bool := false
  wide : Bool := false                    -- MX formats and QC4 are accepted

def tenderUse (i : Instr) : TenderUse :=
  match i with
  | .tcopy _ => { src := true, dst := true, conv := false }
  | .tgather _ | .tscatter _ => { src := true, dst := true, conv := true, idx := true }
  | .tfeed _ => { src := true, dst := false, conv := true, wide := true }
  | .tfill _ => { src := false, dst := true, conv := false, fill := true }
  | .tconv _ => { src := true, dst := true, conv := true, wide := true }
  | _ => { src := true, dst := false, conv := true }

/-- A multiple of 16, or zero where the word is not used (DEDUCED, log entry 86). -/
def wordOk (used : Bool) (v : Word) : Bool := if used then v.toNat % 16 == 0 else v == 0

/-- R298: a row of LEN elements is a whole number of blocks. -/
def lenOk (code n : Nat) : Bool := if codeIsMx code then n % 32 == 0 else if code = 9 then n % 256 == 0 else true

/-- R297, R298, R301: the block is well formed (DEDUCED, log entry 52). -/
def blockOk (u : TenderUse) (b : List Word) : Bool :=
  let w := fun k => b.getD k 0
  wordOk u.src (w 0) && wordOk u.dst (w 1) && wordOk u.src (w 3) && wordOk u.dst (w 4) && wordOk u.idx (w 6)
    && (w 2).toNat / 2 ^ 40 == 0 && tRows b != 0 && tLen b != 0
    && (if u.idx then (w 7).toNat < 2 ^ 32 else w 7 == 0)
    && (if u.conv then (w 5).toNat < 2 ^ 9 && decide (tFs b ≤ 9) && decide (tFd b ≤ 9) && lenOk (tFs b) (tLen b) && lenOk (tFd b) (tLen b)
          && (u.wide || (!(codeIsMx (tFs b)) && !(codeIsMx (tFd b)) && tFs b != 9 && tFd b != 9))
        else u.fill || w 5 == 0)

/-- Bytes of a source row, and of a destination row. -/
def tSrcBytes (u : TenderUse) (b : List Word) : Nat := if u.conv then rowBytes (tFs b) (tLen b) else tLen b
def tDstBytes (u : TenderUse) (b : List Word) : Nat := if u.conv then rowBytes (tFd b) (tLen b) else tLen b

/-- R302: the element size of `tfill`. -/
def fillBytes (x : Ext) : Nat := 8 / 2 ^ x.m 23 2

/-- R302, R303, R304: what an instruction asks of its block beside; bad handle too where a `tfill` has LEN that is no multiple of its size,
and where a row of a `tring` does not fit the slot size (DESIGN CHOICE, log entry 113). -/
def State.tenderOk (s : State) (c : Ctx) (i : Instr) (b : List Word) : Bool :=
  match i with
  | .tfill x => tLen b % fillBytes x == 0
  | .tfeed x =>
    match Sparse.find (s.gantry (c.core / 4)).streams x.b.toNat with
    | some q => s.ownsStream c.w q && tRows b == segRows x.b.toNat q.geo && tLen b == geoK q.geo && tFd b == geoFmt q.geo
                  && (tFs b != 8 || geoFmt q.geo == 8)
    | none => false
  | .tring x =>
    match s.ring? c.w.gid x.b.toNat with
    | some r => decide (rowBytes (tFd b) (tLen b) ≤ r.size)
    | none => false
  | _ => true

/-- The first fault of rows in a space. -/
def State.rowsFault (s : State) (w : Warp) (space : Nat) (base stride : Word) (n : Nat) (p : Perm) : Nat → Option (Nat × Word)
  | 0 => none
  | k + 1 =>
    match s.rowsFault w space base stride n p k with
    | some e => some e
    | none => s.spanFault w 0 space (base + BitVec.ofNat 64 (k * stride.toNat)) p n

/-- The source and destination spaces of an instruction. -/
def srcSpace (x : Ext) : Nat := x.m 23 3
def dstSpace (x : Ext) : Nat := x.m 26 3

/-- R301: every source and destination range is checked at release; the indexed side of `tgather` and `tscatter` over all indices
below the limit (DEDUCED, log entry 53). -/
def State.tenderFault (s : State) (c : Ctx) (x : Ext) (i : Instr) (b : List Word) : Option (Nat × Word) :=
  let u := tenderUse i
  let w := fun k => b.getD k 0
  let lim := (w 7).toNat % 2 ^ 32
  let srcRows := match i with | .tgather _ => lim | _ => tRows b
  let dstRows := match i with | .tscatter _ => lim | _ => tRows b
  match (if u.src then s.rowsFault c.w (srcSpace x) (w 0) (w 3) (tSrcBytes u b) .read srcRows else none) with
  | some e => some e
  | none =>
    match (if u.dst then s.rowsFault c.w (dstSpace x) (w 1) (w 4) (tDstBytes u b) .write dstRows else none) with
    | some e => some e
    | none => if u.idx then s.spanFault c.w 0 0 (w 6) .read (4 * tRows b) else none

/-! ### Posting (R295, R296, R306) -/

def EngOp.isTender (o : EngOp) : Bool :=
  match o.instr with
  | .tcopy _ | .tgather _ | .tscatter _ | .tfeed _ | .tfill _ | .tconv _ | .tring _ => true
  | _ => false

/-- R306: the status word is cleared when an operation is posted. -/
def Slot.clearStatus (k : Slot) : Slot := { k with conds := 0, rows := 0, segPos := 0, posSet := false }

/-- R295: the operations of an engine's queue. -/
def State.tenderQueue (s : State) (core : Nat) : List EngOp := s.ops.filter fun o => o.core == core && o.isTender

/-- R390: the operation stores to global memory. -/
def tenderGlob (x : Ext) (i : Instr) : Bool := (tenderUse i).dst && dstSpace x == 0

/-- R295, R301: a quarter posts its operation once it takes an entry of its engine's queue, in the order in which quarters began to wait for
one; the operation is checked as it is posted. -/
def tenderPost (x : Ext) (i : Instr) (c : Ctx) (s : State) : QResult :=
  let b := c.block x.a
  if 32 ≤ (s.tenderQueue c.core).length ∨ s.behind (c.place 1 c.core) then .wait 1 c.core
  else if !(blockOk (tenderUse i) b) || !(s.tenderOk c i b) then .done (c.badHandle s)
  else
    match s.tenderFault c x i b with
    | some (cause, a) => .done (c.fault s cause c.act fun _ => a)
    | none =>
      if !(c.slot x.d.toNat).room 1 then .later
      else .done (c.postOp (s.modWarp c.wk fun w => w.setSlot x.d.toNat Slot.clearStatus) i (some x.d.toNat) b (tenderGlob x i))

def tenderOp (x : Ext) (i : Instr) (s : State) : State := quarterOp x i none (tenderPost x i) s

def execTcopy (x : Ext) (s : State) : Out := .next (tenderOp x (.tcopy x) s)
def execTgather (x : Ext) (s : State) : Out := .next (tenderOp x (.tgather x) s)
def execTscatter (x : Ext) (s : State) : Out := .next (tenderOp x (.tscatter x) s)
def execTfeed (x : Ext) (s : State) : Out := .next (tenderOp x (.tfeed x) s)
def execTfill (x : Ext) (s : State) : Out := .next (tenderOp x (.tfill x) s)
def execTconv (x : Ext) (s : State) : Out := .next (tenderOp x (.tconv x) s)
def execTring (x : Ext) (s : State) : Out := .next (tenderOp x (.tring x) s)

/-- R309: an operation that a save has withdrawn stands on no core. -/
def EngOp.withdrawn (o : EngOp) : Bool := decide (Config.cores ≤ o.core)

/-- R295: an operation starts in queue order, with at most four in flight, once its fork has passed (R258). -/
def State.startTender (s : State) (o : EngOp) : State :=
  let q := s.tenderQueue o.core
  if o.isTender && !o.started && o.forked s && q.all (fun p => !(decide (p.id < o.id) && !p.started)) && decide ((q.filter (·.started)).length < 4)
  then s.setOp o.id fun p => { p with started := true } else s

def execTenderOpStart (id : Nat) (s : State) : Out := .next (match s.op? id with | some o => if o.withdrawn then s else s.startTender o | none => s)

/-! ### Rows (R302 to R308) -/

/-- R306: the status word of an operation's slot changes. -/
def State.opStatus (s : State) (o : EngOp) (f : Slot → Slot) : State :=
  match o.slot with
  | some k => s.modWarpOf o.gid o.widx fun w => w.setSlot k f
  | none => s

/-- A row of an operation has completed, with conditions; or it has faulted. -/
def EngOp.rowDone (o : EngOp) (total : Nat) (conds : BitVec 16) (r : State × Nat × Option (Nat × Word)) : State :=
  let c := match r.2.2 with | some _ => conds ||| 0x200 | none => conds
  (o.rowMoved total r).opStatus o fun k => { k with conds := k.conds ||| c, rows := if r.2.2.isSome then k.rows else k.rows + 1 }

/-- Address of a row. -/
def rowAt (base stride : Word) (r : Nat) : Word := base + BitVec.ofNat 64 (r * stride.toNat)

/-- A source row, read whole and converted. -/
def State.tenderSrc (s : State) (w : Warp) (x : Ext) (u : TenderUse) (b : List Word) (va : Word) : Except (Nat × Word) (List Byte × BitVec 16) :=
  match s.engRead w (srcSpace x) (pieces (tSrcBytes u b)) va (tSrcBytes u b) with
  | .error e => .error e
  | .ok bs =>
    if u.conv then
      let r := rowConvert (tFs b) (tFd b) (tLen b) (tSat b) bs
      .ok (r.1, r.2.setWidth 16)
    else .ok (bs, 0)

/-- A row is moved to its destination. -/
def State.tenderMove (s : State) (o : EngOp) (w : Warp) (x : Ext) (u : TenderUse) (src dst : Word) : State :=
  let b := o.vals
  let s1 := s.engNote w (srcSpace x) src (tSrcBytes u b)
  match s1.tenderSrc w x u b src with
  | .error e => o.rowDone (tRows b) 0 (s1, 0, some e)
  | .ok (bs, c) => o.rowDone (tRows b) c (s1.engWrite o w (dstSpace x) (x.m 30 2) (pieces bs.length) dst bs)

/-- R302: the index list is read before any row moves. -/
def State.tenderIndices (s : State) (o : EngOp) (w : Warp) : State :=
  let n := 4 * tRows o.vals
  let va := o.vals.getD 6 0
  let s1 := s.engNote w 0 va n
  match s1.engRead w 0 (pieces n) va n with
  | .error e => o.rowDone (tRows o.vals) 0 (s1, 0, some e)
  | .ok bs => s1.setOp o.id fun p => { p with data := [(chunks 4 bs (tRows o.vals)).map fun c => BitVec.ofNat 64 (natOfBytes c)] }

/-- R302: an indexed row. -/
def State.tenderIndexed (s : State) (o : EngOp) (w : Warp) (x : Ext) (u : TenderUse) (gather : Bool) : State :=
  let b := o.vals
  match o.data with
  | [] => s.tenderIndices o w
  | idx :: _ =>
    let i := (idx.getD o.rows 0).toNat
    if (b.getD 7 0).toNat ≤ i then o.rowDone (tRows b) 0x100 (s, 0, none)
    else if gather then s.tenderMove o w x u (rowAt (b.getD 0 0) (b.getD 3 0) i) (rowAt (b.getD 1 0) (b.getD 4 0) o.rows)
    else s.tenderMove o w x u (rowAt (b.getD 0 0) (b.getD 3 0) o.rows) (rowAt (b.getD 1 0) (b.getD 4 0) i)

/-- R302: the bytes of a filled row. -/
def fillRow (x : Ext) (b : List Word) : List Byte :=
  ((List.range (tLen b / fillBytes x)).flatMap fun _ => bytesOfNat (fillBytes x) ((b.getD 5 0).toNat % 2 ^ (8 * fillBytes x)))

/-- R308: a feed has faulted: its position is used up without a segment, and requests that name it fail. -/
def State.feedFails (s : State) (o : EngOp) (u sn : Nat) (pos : Option Nat) (e : Nat × Word) : State :=
  let s1 := match pos with
    | some p => (s.modGantry u fun g => { g with streams := Sparse.modify g.streams sn fun q => ({ q with void := q.void ++ [p] } : GStream).settle 64 }).failStarved u
    | none => s
  (o.rowDone (tRows o.vals) 0 (s1, 0, some e)).noteReady u

/-- R303: a feed goes on: it claims its position, then gathers its rows, then completes in position order, when its segment becomes live. -/
def State.tenderFeed (s : State) (o : EngOp) (w : Warp) (x : Ext) : State :=
  let b := o.vals
  let u := o.core / 4
  let sn := x.b.toNat
  match Sparse.find (s.gantry u).streams sn, o.claim with
  | none, p => s.feedFails o u sn p (0x08, BitVec.ofNat 64 (sn + p.getD 0 * 2 ^ 32))
  | some q, none =>
    let first := (s.ops.filter fun p => p.started && !p.done && p.claim.isNone && p.core / 4 == u && decide (p.id < o.id) &&
      (match p.instr with | .tfeed y => y.b.toNat == sn | _ => false)).isEmpty
    if !(q.room sn) || !first then s
    else
      let p := q.claims
      ((s.modGantry u fun g => { g with streams := Sparse.insert g.streams sn { q with claims := (p + 1) % 2 ^ 32 } }).setOp o.id fun r =>
        { r with claim := some p }).opStatus o fun k => { k with segPos := BitVec.ofNat 32 p, posSet := true }
  | some q, some p =>
    if o.rows < tRows b then
      let va := rowAt (b.getD 0 0) (b.getD 3 0) o.rows
      let s1 := s.engNote w (srcSpace x) va (tSrcBytes (tenderUse o.instr) b)
      match s1.tenderSrc w x (tenderUse o.instr) b va with
      | .error e => s1.feedFails o u sn (some p) e
      | .ok (bs, c) =>
        let row := bs.map fun v => v.setWidth 64
        let s2 := (s1.setOp o.id fun r => { r with rows := r.rows + 1, data := r.data ++ [row] }).opStatus o fun k => { k with conds := k.conds ||| c, rows := k.rows + 1 }
        if o.rows + 1 < tRows b then s2
        else
          let seg : Segment := { pos := p, uses := x.m 26 4 + 1, rows := (o.data ++ [row]).map fun r => r.map fun v => v.setWidth 8 }
          s2.modGantry u fun g => { g with streams := Sparse.modify g.streams sn fun q => { q with ready := q.ready ++ [seg] } }
    else if q.next = p then
      let s1 := (s.modGantry u fun g => { g with streams := Sparse.modify g.streams sn GStream.goLive }).setOp o.id fun r => { r with done := true }
      ((s1.finishOp { o with done := true }).failStarved u).noteReady u
    else s

/-- R304: a row goes to the next slot of a ring. -/
def State.tenderRing (s : State) (o : EngOp) (w : Warp) (x : Ext) : State :=
  let b := o.vals
  let q := x.b.toNat
  match o.claim with
  | none =>
    match s.ring? o.gid q with
    | none => o.rowDone (tRows b) 0 (s, 0, some (0x08, 0))
    | some r =>
      if (s.ringQueue o.gid q).contains (.tender o.id) then s
      else
        match r.claim true with
        | some (r1, a) => (s.setRing o.gid q r1).setOp o.id fun p => { p with claim := some a }
        | none => s.setRingQueue o.gid q (s.ringQueue o.gid q ++ [.tender o.id])
  | some a =>
    let u := tenderUse o.instr
    let va := rowAt (b.getD 0 0) (b.getD 3 0) o.rows
    let s1 := (s.engNote w (srcSpace x) va (tSrcBytes u b)).setOp o.id fun p => { p with claim := none }
    match s1.tenderSrc w x u b va with
    | .error e => o.rowDone (tRows b) 0 ((s1.putRing o.gid q true a).getD s1, 0, some e)
    | .ok (bs, c) =>
      let s2 := s1.performScratch o.gid a bs .plain
      o.rowDone (tRows b) c ((s2.putRing o.gid q true a).getD s2, s.ns, none)

/-- R310: the lines that an operation's next row touches for the first time. -/
def State.tenderLines (s : State) (o : EngOp) (w : Warp) : List Nat :=
  let b := o.vals
  let u := tenderUse o.instr
  let src := fun (x : Ext) (r : Nat) => s.engLines o w (srcSpace x) (rowAt (b.getD 0 0) (b.getD 3 0) r) (tSrcBytes u b) .read
  let dst := fun (x : Ext) (r : Nat) => s.engLines o w (dstSpace x) (rowAt (b.getD 1 0) (b.getD 4 0) r) (tDstBytes u b) .write
  let idx := fun (f : Nat → List Nat) => match o.data with
    | [] => s.engLines o w 0 (b.getD 6 0) (4 * tRows b) .read
    | l :: _ => if (b.getD 7 0).toNat ≤ (l.getD o.rows 0).toNat then [] else f (l.getD o.rows 0).toNat
  (match o.instr with
    | .tcopy x | .tconv x => src x o.rows ++ dst x o.rows
    | .tgather x => idx fun i => src x i ++ dst x o.rows
    | .tscatter x => idx fun i => src x o.rows ++ dst x i
    | .tfill x => dst x o.rows
    | .tfeed x => if o.claim.isSome ∧ o.rows < tRows b then src x o.rows else []
    | .tring x => match o.claim with | some a => src x o.rows ++ s.engLines o w 2 (BitVec.ofNat 64 a) (rowBytes (tFd b) (tLen b)) .write | none => []
    | _ => []).eraseDups

/-- R302: the index of an operation's next row, within the limit. -/
def EngOp.index (o : EngOp) : Option Nat :=
  (o.data.head?.map fun l => (l.getD o.rows 0).toNat).filter fun i => decide (i < (o.vals.getD 7 0).toNat)

/-- R385: the row that an operation writes next finds room in the staging buffer. -/
def State.tenderRoom (s : State) (o : EngOp) (w : Warp) : Bool :=
  let row := fun (x : Ext) (r : Nat) =>
    s.engRoom o w (dstSpace x) [(rowAt (o.vals.getD 1 0) (o.vals.getD 4 0) r, tDstBytes (tenderUse o.instr) o.vals)]
  match o.instr with
  | .tcopy x | .tconv x | .tfill x => row x o.rows
  | .tgather x => o.index.isNone || row x o.rows
  | .tscatter x => match o.index with | some i => row x i | none => true
  | _ => true

/-- An operation's next move. -/
def State.tenderStep (s : State) (o : EngOp) (w : Warp) : State :=
  let b := o.vals
  let u := tenderUse o.instr
  match o.instr with
  | .tcopy x | .tconv x => s.tenderMove o w x u (rowAt (b.getD 0 0) (b.getD 3 0) o.rows) (rowAt (b.getD 1 0) (b.getD 4 0) o.rows)
  | .tgather x => s.tenderIndexed o w x u true
  | .tscatter x => s.tenderIndexed o w x u false
  | .tfill x => o.rowDone (tRows b) 0 (s.engWrite o w (dstSpace x) (x.m 30 2) (pieces (tLen b)) (rowAt (b.getD 1 0) (b.getD 4 0) o.rows) (fillRow x b))
  | .tfeed x => s.tenderFeed o w x
  | .tring x => s.tenderRing o w x
  | _ => s

/-- An operation in flight goes on by one row, once it has touched the lines of the row (R219, R310), where it finds room for it (R385). -/
def State.advanceTender (s : State) (o : EngOp) : State :=
  let w := s.warpOfOp o
  if o.done ∨ !o.started ∨ !(s.tenderRoom o w) then s else s.engMove o (s.tenderLines o w) fun s => s.tenderStep o w

/-! ### What a save would withdraw, and `testc` (R309, R372, R378) -/

/-- R309: a Tender operation that waits on back-pressure, or has not started. -/
def State.opBlocked (s : State) (o : EngOp) : Bool :=
  o.isTender && !o.done && (!o.started || (o.claim.isNone && match o.instr with
    | .tfeed x => match Sparse.find (s.gantry (o.core / 4)).streams x.b.toNat with | some q => !(q.room x.b.toNat) | none => false
    | .tring x => (s.ringQueue o.gid x.b.toNat).contains (.tender o.id)
    | _ => false))

/-- R280, R293: what must wait for requests and operations of a cluster that cannot go on: a request behind one of its quarter on its rows, or
behind an operation on its tile, and an operation behind what is pending on its tiles. -/
def State.stuckBehind (s : State) (u : Nat) (ids : List Nat) : List Nat :=
  let table := (s.gantry u).table
  let reqs := table.filter fun m => ids.contains m.id
  let ops := s.ops.filter fun o => o.core / 4 == u && ids.contains o.id
  let req := fun (m : MmaReq) => !(ids.contains m.id) && (reqs.any (fun q => decide (q.id < m.id) && q.overlaps m)
    || ops.any fun o => o.core == m.core && decide (o.id < m.id) && o.tiles.contains m.tile)
  let op := fun (o : EngOp) => o.core / 4 == u && !o.done && !(ids.contains o.id) && (reqs.any (fun m => m.core == o.core && decide (m.id < o.id) && o.tiles.contains m.tile)
    || ops.any fun p => p.core == o.core && decide (p.id < o.id) && o.tiles.any fun t => p.tiles.contains t)
  ids ++ (table.filter req).map (·.id) ++ (s.ops.filter op).map (·.id)

/-- R293, R309: the requests and operations of a cluster that no quiescence completes: requests whose segments are not live, Tender operations
that wait on back-pressure or have not started, and what waits behind them (DEDUCED, log entry 117). -/
def State.stuckIds (s : State) (u : Nat) : List Nat :=
  let table := (s.gantry u).table
  let first := (table.filter fun m => !(s.mmaFed u m)).map (·.id) ++ (s.ops.filter fun o => o.core / 4 == u && s.opBlocked o).map (·.id)
  (List.range (table.length + s.ops.length)).foldl (fun ids _ => s.stuckBehind u ids) first

/-- R372: the operations of a slot that a Gantry or a Tender record would repost: those that R293 and R309 do not let run to completion. -/
def State.reposted (s : State) (w : Warp) (core k : Nat) : Nat :=
  let stuck := s.stuckIds (core / 4)
  (s.ops.filter fun o => o.gid == w.gid && o.widx == w.widx && o.slot == some k && o.isTender && (o.withdrawn || s.opBlocked o)).length
    + ((s.gantry (core / 4)).table.filter fun m => m.gid == w.gid && m.widx == w.widx && m.slot == k && stuck.contains m.id).length

def SlotState.code : SlotState → Nat
  | .idle => 0 | .armed => 1 | .complete => 2 | .error => 3

/-- R372: a slot's byte in a warp block. -/
def Slot.byte (k : Slot) (reposted : Nat) : Nat :=
  k.st.code * 2 ^ 6 + (match k.st with | .armed => k.count - reposted | .error => k.errCode | _ => 0) % 64

/-- R378: the word of `testc`. -/
def Slot.testWord (k : Slot) (reposted : Nat) : Word :=
  let c := match k.st with | .armed => k.count - reposted | .error => k.errCode | _ => 0
  BitVec.ofNat 64 (k.st.code + c % 64 * 4 + k.count * 2 ^ 8)

/-- R378. -/
def testcOp (x : Ext) (s : State) : State :=
  issuing x s fun c s1 =>
    if c.act = 0 then c.advance (c.executed (deliverTo s1 c.wk (.vec x.d) none 0 c.zero (fun _ => plain 0) c.pc fun _ => c.pc))
    else
      c.charged s1 x.d 32 fun s2 =>
        let k := x.a.toNat
        let sl := c.slot k
        let s3 := c.advance (c.executed (s2.writeVec c.wk x.d c.act c.zero fun _ => sl.testWord (s2.reposted c.w c.core k)))
        if sl.st = .complete ∨ sl.st = .error then s3.observe c.wk k c.set c.pc else s3

def execTestc (x : Ext) (s : State) : Out := .next (testcOp x s)

/-! ### Status (R305) -/

/-- R305: a status query. -/
def Slot.tstat (k : Slot) (q : Nat) : Word :=
  match q with
  | 0 => k.conds.setWidth 64
  | 1 => k.rows.setWidth 64
  | _ => k.segPos.setWidth 64 + (if k.posSet then 1 <<< 32 else 0)

def execTstat (x : Ext) (s : State) : Out := .next (statusOp x (fun _ => 32) (fun c _ => (c.slot x.a.toNat).tstat (x.m 23 2)) s)

end Sys2Proof.Machine
end

