-- ==== Sys2Proof/Machine/Page.lean ====
section
/-! DEFINITION. Pages (spec 14): images and their formats (R311, R176 to R179), summaries (R316), the space of the tiers (R467), versions and
readers (R322, R323), the Ebbs (R319 to R321), the Hatch (R324, R325) and the step-commit update (R317). -/

namespace Sys2Proof.Machine

/-! ### Descriptors -/

def State.desc (s : State) (lpn : Nat) : Desc := (Sparse.find s.pages.descs lpn).getD Desc.init

def State.modPages (s : State) (f : PageSys → PageSys) : State := { s with pages := f s.pages }

def State.setDesc (s : State) (lpn : Nat) (d : Desc) : State := s.modPages fun p => { p with descs := Sparse.insert p.descs lpn d }

/-- R313: a descriptor with TIER = 3 is free. -/
def Desc.free (d : Desc) : Bool := d.tier == 3

/-- The Ebb that owns a page (R319). -/
def ebbOf (lpn : Nat) : Nat := lpn % Config.dies

/-- R313: the dimension of a code. -/
def dimOf (code : Nat) : Nat := 64 * 2 ^ code

/-- R311: bytes of an image. -/
def imageBytes (fmt d : Nat) : Nat := match fmt with | 0 => 64 * d | 1 => 32 * d | 2 => 25 * d | _ => 17 * d

def Desc.bytes (d : Desc) : Nat := imageBytes d.fmt (dimOf d.dim)

/-- R311: the 256-byte units of a number of bytes. -/
def unitsOf (n : Nat) : Nat := (n + 255) / 256

/-- R313: a word of a descriptor; COMP is the codec's. -/
def Desc.word (d : Desc) (comp : Bool) (n : Nat) : Word :=
  match n with
  | 0 => BitVec.ofNat 64 (d.tier + d.fmt * 2 ^ 2 + d.kv.toNat * 2 ^ 4 + d.dim * 2 ^ 5 + d.valid * 2 ^ 8 + d.addr * 2 ^ 16 + d.scale.toNat * 2 ^ 52
          + comp.toNat * 2 ^ 60 + d.shared.toNat * 2 ^ 61 + d.hold.toNat * 2 ^ 62 + d.transit.toNat * 2 ^ 63)
  | 1 => BitVec.ofNat 64 (d.ver + d.pin * 2 ^ 8 + d.rdr * 2 ^ 16 + d.mass * 2 ^ 24 + d.dep * 2 ^ 40 + d.ref.toNat * 2 ^ 56 + d.ord.toNat * 2 ^ 57)
  | 2 => BitVec.ofNat 64 (d.sumIdx + d.age * 2 ^ 32 + d.pos * 2 ^ 48)
  | _ => d.list

/-! ### Values of an image (R311, R176) -/

/-- Bytes of a tier's memory. -/
def State.tierBytes (s : State) (tier pa n : Nat) : List Byte :=
  match tier with | 0 => s.mem.hbm.bytes pa n | 1 => s.mem.lp.bytes pa n | _ => s.pages.flash.bytes pa n

/-- The lines of an image in HBM that are malformed or fail, with their kinds. -/
def State.imageBad (s : State) (tier addr n : Nat) : List (Nat × Nat) :=
  if tier ≠ 0 then []
  else (List.range ((n + 127) / 128)).filterMap fun k => (s.lineBad .hbm (addr * 256 + 128 * k)).map fun kind => (addr * 2 + k, kind)

/-- The bytes of an image as its readers see them (R222): zero on malformed lines; the address of a line that fails. -/
def State.imageRead (s : State) (tier addr n : Nat) : Except Nat (List Byte) :=
  let bad := s.imageBad tier addr n
  match bad.find? fun b => b.2 == 4 with
  | some b => .error (b.1 * 128)
  | none =>
    let bs := s.tierBytes tier (addr * 256) n
    .ok (if bad = [] then bs else bs.mapIdx fun i v => if bad.any fun b => b.1 == addr * 2 + i / 128 then 0 else v)

/-- Bad lines of an image are noted. -/
def State.imageNote (s : State) (tier addr n : Nat) : State := (s.imageBad tier addr n).foldl (fun s b => s.noteBad b.1 b.2 15) s

/-- R311, R176: one value, as BF16. -/
def imageVal (fmt d : Nat) (scale : BitVec 8) (img : List Byte) (e k : Nat) : Nat :=
  match fmt with
  | 0 => pgDecode 0 0 (natOfBytes ((img.drop (2 * (d * e + k))).take 2))
  | 1 => pgDecode 1 scale.toInt (img.getD (d * e + k) 0).toNat
  | f =>
    let w := if f = 2 then 6 else 4
    let b := e * d / 32 + k / 32
    let el := natOfBytes ((img.drop (4 * w * b)).take (4 * w)) / 2 ^ (w * (k % 32)) % 2 ^ w
    pgDecode f (img.getD (4 * w * d + b) 0).toNat el

/-- The values of the first entries of an image. -/
def imageVals (fmt d : Nat) (scale : BitVec 8) (img : List Byte) (n : Nat) : List (List Nat) :=
  (List.range n).map fun e => (List.range d).map (imageVal fmt d scale img e)

/-- R177 to R179: the image of values in a format, with the page exponent. -/
def encodeImage (fmt d : Nat) (vals : List (List Nat)) : List Byte × BitVec 8 :=
  let vs : List (List NVal) := vals.map fun (r : List Nat) => r.map bf16.toVal
  match fmt with
  | 0 => (((vals.flatMap fun (r : List Nat) => r.flatMap (bytesOfNat 2)) ++ List.replicate (64 * d) 0).take (64 * d), 0)
  | 1 =>
    let e := e4m3PageExp vs.flatten
    (((vs.flatMap fun (r : List NVal) => r.map fun v => BitVec.ofNat 8 (e4m3PageElem e v)) ++ List.replicate (32 * d) 0).take (32 * d), BitVec.ofInt 8 e)
  | f =>
    let w := if f = 2 then 6 else 4
    let blocks : List (Nat × List Nat × BitVec 5) := (vs.flatMap fun (r : List NVal) => valChunks 32 r (d / 32)).map fun b => mxEncode (if f = 2 then 5 else 7) b
    let n := d
    (((blocks.flatMap fun (b : Nat × List Nat × BitVec 5) => bytesOfNat (4 * w) (b.2.1.reverse.foldl (fun a x => a * 2 ^ w + x) 0)) ++ List.replicate (4 * w * n) 0).take (4 * w * n)
        ++ ((blocks.map fun (b : Nat × List Nat × BitVec 5) => BitVec.ofNat 8 b.1) ++ List.replicate n 0x7F).take n, 0)

/-! ### Summaries (R316) -/

/-- A rational mean of BF16 values, rounded to BF16. -/
def meanBf16 (xs : List Exact) : Nat :=
  let t := exactSum 0 xs
  if t.m = 0 then 0 else (deliver bf16 0 false (exactDiv 40 t { neg := false, m := xs.length, e := 0 })).1

/-- The square of the distance between values and a centroid. -/
def distSq (xs : List Nat) (c : List Nat) : Exact :=
  exactSum 0 ((xs.zip c).map fun p =>
    let d := exactSum 0 [bf16.val p.1, { bf16.val p.2 with neg := !(bf16.val p.2).neg }]
    d.mul d)

/-- R316: the centroid and radius of entries. -/
def summaryOf (d : Nat) (vals : List (List Nat)) : BitVec 32 × List (BitVec 16) :=
  let fe := vals.filter fun r => r.all fun x => !(bf16.isNan x) && !(bf16.isInf x)
  let c := if fe = [] then List.replicate d 0 else (List.range d).map fun k => meanBf16 (fe.map fun r => bf16.val (r.getD k 0))
  let zero : Exact := { neg := false, m := 0, e := 0 }
  let r2 := (fe.map fun r => distSq r c).foldl (fun a x => if a.ltMag x then x else a) zero
  let rho := if r2.m = 0 then 0 else (deliver f32 2 false (exactSqrt 40 r2)).1
  (BitVec.ofNat 32 (if fe.length < vals.length then f32.inf false else rho), c.map (BitVec.ofNat 16))

/-- R315: the bytes of a record. -/
def Summary.bytes (m : Summary) : List Byte :=
  bytesOfNat 4 m.n ++ bytesOfNat 4 m.rho.toNat ++ bytesOfNat 4 m.lpn ++ bytesOfNat 1 m.ver ++ List.replicate 3 0 ++ m.cent.flatMap fun c => bytesOfNat 2 c.toNat

/-! ### Space (R467) -/

/-- The runs of 256-byte units that images hold in a tier. -/
def State.imageRuns (s : State) (tier : Nat) : List (Nat × Nat) :=
  (s.pages.descs.filterMap fun e => if e.2.tier = tier then some (e.2.addr, unitsOf e.2.bytes) else none)
    ++ (s.pages.retire.filterMap fun r => if r.tier = tier then some (r.addr, r.units) else none)
    ++ (s.pages.rewrites.filterMap fun r => if r.tier = tier then some (r.addr, r.units) else none)
    ++ (s.pages.plan.filterMap fun e => if e.tier = tier then some (e.addr, unitsOf e.bytes) else none)

/-- R467: the raw bytes that the codec holds for the lines of an image. -/
def State.codecCharge (s : State) (addr bytes : Nat) : Nat :=
  ((List.range ((bytes + 127) / 128)).map fun k => (s.mem.rawOf (addr * 2 + k)).size).sum

/-- R467: what an image in HBM is charged to the pool: its bytes, and once its page has been full what the codec holds. -/
def State.chargeOf (s : State) (addr bytes : Nat) (packed : Bool) : Nat × Nat := (addr, if packed then s.codecCharge addr bytes else bytes)

def State.poolCharges (s : State) : List (Nat × Nat) :=
  (s.pages.descs.filterMap fun e => if e.2.tier = 0 then some (s.chargeOf e.2.addr e.2.bytes e.2.packed) else none)
    ++ (s.pages.retire.filterMap fun r => if r.tier = 0 then some (s.chargeOf r.addr r.bytes r.packed) else none)
    ++ (s.pages.rewrites.filterMap fun r => if r.tier = 0 then some (r.addr, r.bytes) else none)
    ++ s.pages.plan.filterMap fun e => if e.tier = 0 then some (e.addr, e.bytes) else none

/-- R467: the charges of the pool's images, each image once. -/
def State.poolCharge (s : State) : Nat :=
  let cs := s.poolCharges
  (((cs.map (·.1)).eraseDups).map fun a => ((cs.find? fun c => c.1 == a).map (·.2)).getD 0).sum

/-- R467: a write that leads from one state to another needs more raw storage than the pool has left. -/
def State.poolShort (s s1 : State) : Bool := decide (s.pages.poolBack < s1.poolCharge ∧ s.poolCharge < s1.poolCharge)

/-- R467: such a write is held: nothing is done yet. -/
def State.poolGuard (s s1 : State) : State := if s.poolShort s1 then s else s1

/-- The units of a tier: where they begin, and how many there are. -/
def State.tierRange (s : State) (tier : Nat) : Nat × Nat :=
  match tier with
  | 0 => (s.pages.poolBase / 256, s.pages.poolSize / 256)
  | 1 => (0, Config.lpBytes / 256)
  | _ => (0, 2 ^ 36)

/-- A run of units is free. -/
def State.runFree (s : State) (tier a n : Nat) : Bool :=
  let r := s.tierRange tier
  decide (r.1 ≤ a ∧ a + n ≤ r.1 + r.2) && (s.imageRuns tier).all fun u => decide (a + n ≤ u.1 ∨ u.1 + u.2 ≤ a)

/-- A place for an image of some bytes in a tier: any free run (DESIGN CHOICE, log entry 20). R467's bound holds in the pool. -/
def State.findRun (s : State) (tier bytes : Nat) : Option Nat :=
  let n := unitsOf bytes
  let r := s.tierRange tier
  if tier = 0 ∧ s.pages.poolBack < s.poolCharge + bytes then none
  else
    let any_ := r.1 + Config.freeNat s.fresh % (r.2 + 1)
    if s.runFree tier any_ n then some any_
    else (r.1 :: (s.imageRuns tier).map fun u => u.1 + u.2).find? fun a => s.runFree tier a n

/-- The summary slots in use. -/
def State.slotsUsed (s : State) : List Nat :=
  (s.pages.descs.filterMap fun e => if e.2.free then none else some e.2.sumIdx) ++ s.pages.retire.map (·.slot) ++ s.pages.rewrites.filterMap (·.slot)

/-- A free summary slot: any (DESIGN CHOICE, log entry 20). -/
def State.findSlot (s : State) : Nat :=
  let used := s.slotsUsed
  let any_ := Config.freeNat s.fresh % 2 ^ 32
  if used.contains any_ then ((List.range (used.length + 1)).find? fun k => !(used.contains k)).getD 0 else any_

/-- An image's bytes are written to fresh space. -/
def State.putImage (s : State) (tier addr : Nat) (bs : List Byte) : State :=
  match tier with
  | 2 => s.modPages fun p => { p with flash := p.flash.setBytes (addr * 256) bs }
  | _ => ((List.range ((bs.length + 127) / 128)).foldl (fun s k =>
      s.performWrite (if tier = 0 then .hbm else .lp) (addr * 256 + 128 * k) ((bs.drop (128 * k)).take 128) .plain) s)

/-- A run of a tier is given to an image: of the LP tier it is mapped again (R220, log entry 97). -/
def State.claimRun (s : State) (tier a n : Nat) : State :=
  if tier = 1 then s.modPages fun p => { p with unmapped := p.unmapped.filter fun u => decide (a + n ≤ u.1 ∨ u.1 + u.2 ≤ a) } else s

/-- A summary is written to a slot. -/
def State.putSummary (s : State) (slot : Nat) (m : Summary) : State := s.modPages fun p => { p with sums := Sparse.insert p.sums slot m }

/-! ### Versions and readers (R322, R323) -/

/-- R322: each Ebb has 256 retire entries. -/
def State.retireRoom (s : State) (lpn : Nat) : Bool := decide ((s.pages.retire.filter fun r => ebbOf r.lpn == ebbOf lpn).length < 256)

/-- A version can be left, other than by a swap: it has no readers, or there is an entry for them. -/
def State.canRetire (s : State) (lpn : Nat) : Bool := (s.desc lpn).rdr == 0 || s.retireRoom lpn

/-- The readers of a page's version move to a retire entry. -/
def State.retireVersion (s : State) (lpn : Nat) : State :=
  let d := s.desc lpn
  if d.rdr = 0 then s
  else s.modPages fun p => { p with retire := p.retire ++
    [{ lpn := lpn, ver := d.ver, count := d.rdr, tier := d.tier, addr := d.addr, units := unitsOf d.bytes, bytes := d.bytes, packed := d.packed
       slot := d.sumIdx }] }

/-- The next version. -/
def nextVer (v : Nat) : Nat := (v + 1) % 256

/-- What a snapshot comes to (R323, R325). -/
inductive Snap where
  | got (s : State) (d : Desc)
  | wait (s : State)
  | lost
  | free

/-- R325: a page in flash is wanted. -/
def State.want (s : State) (lpn : Nat) : State :=
  if s.pages.wanted.contains lpn then s else s.modPages fun p => { p with wanted := p.wanted ++ [lpn] }

/-- R323: a snapshot for an instruction of a core, which counts it (R419, event 0x0A). -/
def State.snapshot (s : State) (core lpn : Nat) : Snap :=
  let d := s.desc lpn
  if d.free then .free
  else if d.lost then .lost
  else if d.tier = 2 then .wait (s.want lpn)
  else if d.rdr = 255 then .wait s
  else .got ((s.setDesc lpn { d with rdr := d.rdr + 1, ref := true }).count core 0x0A 1) { d with rdr := d.rdr + 1, ref := true }

/-- R323: a reader of a version has finished. -/
def State.endRead (s : State) (lpn ver : Nat) : State :=
  let d := s.desc lpn
  if !d.free ∧ d.ver = ver then s.setDesc lpn { d with rdr := d.rdr - 1 }
  else
    s.modPages fun p => { p with retire :=
      (p.retire.map fun r => if r.lpn = lpn ∧ r.ver = ver then { r with count := r.count - 1 } else r).filter fun r => r.count != 0 }

/-- The values of a version that a reader holds. -/
def State.readVersion (s : State) (d : Desc) : Except Nat (List (List Nat)) :=
  match s.imageRead d.tier d.addr d.bytes with
  | .error a => .error a
  | .ok img => .ok (imageVals d.fmt (dimOf d.dim) d.scale img d.valid)

/-- R331: a page is freed. -/
def State.freePage (s : State) (lpn : Nat) : State :=
  let d := s.desc lpn
  ((s.retireVersion lpn).modPages fun p => { p with plan := p.plan.filter fun e => e.lpn != lpn }).setDesc lpn
    { d with tier := 3, ver := nextVer d.ver, transit := false, hold := false, shared := false, scale := 0, addr := 0, valid := 0
             dim := 0, kv := false, fmt := 0, dep := 0, rdr := 0, lost := false, packed := false }

/-- A page takes a new summary with VER + 1 (R316). -/
def State.newSummary (s : State) (lpn : Nat) (vals : List (List Nat)) (f : Desc → Desc) : State :=
  let d := f (s.desc lpn)
  let slot := s.findSlot
  let m := summaryOf (dimOf d.dim) vals
  ((((s.retireVersion lpn).bump).putSummary slot { n := vals.length, rho := m.1, lpn := lpn, ver := nextVer d.ver, cent := m.2 })).setDesc lpn
    { d with sumIdx := slot, ver := nextVer d.ver, rdr := 0 }

/-! ### Rewrites and moves (R322) -/

/-- R322: a rewrite or move begins: the new image stands in fresh space at `a`, and so does the summary of a format rewrite. None where the
image cannot be read. -/
def State.rewriteAt (s : State) (lpn fmt tier a : Nat) (hatch defer : Bool) (op : Option Nat) : Option State :=
  let d := s.desc lpn
  let bytes := imageBytes fmt (dimOf d.dim)
  match s.imageRead d.tier d.addr d.bytes with
  | .ok img =>
    let vals := imageVals d.fmt (dimOf d.dim) d.scale img d.valid
    let same := decide (fmt = d.fmt)
    let enc := if same then (img, d.scale) else encodeImage fmt (dimOf d.dim) vals
    let s1 := (((s.imageNote d.tier d.addr d.bytes).bump.setDesc lpn { d with transit := true }).claimRun tier a (unitsOf bytes)).putImage tier a enc.1
    let slot := s1.findSlot
    let m := summaryOf (dimOf d.dim) (imageVals fmt (dimOf d.dim) enc.2 enc.1 d.valid)
    let s2 := if same then s1 else s1.bump.putSummary slot { n := d.valid, rho := m.1, lpn := lpn, ver := nextVer d.ver, cent := m.2 }
    some (s2.modPages fun p => { p with rewrites := p.rewrites ++
      [{ lpn := lpn, ver := d.ver, valid := d.valid, fmt := fmt, scale := enc.2, tier := tier, addr := a, units := unitsOf bytes, bytes := bytes
         slot := if same then none else some slot, hatch := hatch, defer := defer, op := op }] })
  | .error _ => none

/-- R322: the same, in space found for it; none where the tier has no space. -/
def State.beginRewrite (s : State) (lpn fmt tier : Nat) (hatch defer : Bool) (op : Option Nat) : Option State :=
  (s.findRun tier (imageBytes fmt (dimOf (s.desc lpn).dim))).bind fun a => s.rewriteAt lpn fmt tier a hatch defer op

/-- R322: an action that begins, or is not taken: where the image is what stops it, its bad lines are noted (R222). -/
def State.tryRewrite (s : State) (lpn fmt tier : Nat) (hatch defer : Bool) (op : Option Nat) : State :=
  let d := s.desc lpn
  match s.beginRewrite lpn fmt tier hatch defer op with
  | some s1 => s1
  | none => if (s.findRun tier (imageBytes fmt (dimOf d.dim))).isSome then s.imageNote d.tier d.addr d.bytes else s

/-- R322: the swap of a rewrite, or its end without effect. -/
def State.swap (s : State) (r : Rewrite) : State :=
  let s0 := s.modPages fun p => { p with rewrites := p.rewrites.filter fun q => q != r }
  let d := s0.desc r.lpn
  let s1 :=
    if d.free then s0
    else if d.ver = r.ver ∧ d.valid = r.valid then
      (s0.retireVersion r.lpn).setDesc r.lpn { d with fmt := r.fmt, scale := r.scale, tier := r.tier, addr := r.addr, sumIdx := r.slot.getD d.sumIdx
                                                      packed := decide (d.valid = 32), ver := nextVer d.ver, rdr := 0, transit := false }
    else s0.setDesc r.lpn { d with transit := false }
  match r.op with
  | some id => s1.setOp id fun o => { o with done := true }
  | none => s1

/-- The rewrite in progress on a page. -/
def State.rewriteOf (s : State) (lpn : Nat) : Option Rewrite := s.pages.rewrites.find? fun r => r.lpn == lpn

/-! ### The Ebbs (R319 to R321) -/

/-- R319: the thresholds that exceed m. -/
def desired (thr : Word) (m : Nat) : Nat :=
  ([thr.toNat % 2 ^ 16, thr.toNat / 2 ^ 16 % 2 ^ 16, thr.toNat / 2 ^ 32 % 2 ^ 16].filter fun t => decide (m < t)).length

/-- R319: the page count in the header of a list; none where it cannot be read. -/
def State.listCount (s : State) (list : Word) : Option Nat :=
  match s.resolve list .read with
  | .ok (t, pa) =>
    match s.lineBad t pa with
    | some 4 => none
    | some _ => some 0
    | none => if (s.peerFault t pa).isSome then none else some (s.rawNat t pa 4)
  | .error _ => none

/-- R318, R319: a visit gets as far as the list of the page. -/
def State.ebbAsks (s : State) (lpn : Nat) : Bool :=
  let d := s.desc lpn
  s.pages.ctlNow.getLsbD 32 && decide (d.tier < 2) && !d.hold && !d.transit && decide (32 ≤ d.valid) && decide (s.pages.ctlNow.toNat / 2 ^ 16 % 2 ^ 8 ≤ d.age)

/-- R319: what a visit decides; without the LP tier no tier move (R439). -/
def State.ebbDecide (s : State) (lpn : Nat) : Option EbbAct :=
  let d := s.desc lpn
  let thr := s.pages.thrNow
  let t4 := thr.toNat / 2 ^ 48
  let t5 := s.pages.ctlNow.toNat % 2 ^ 16
  let tail := s.pages.ctlNow.toNat / 2 ^ 24 % 2 ^ 8
  if !(s.ebbAsks lpn) then none
  else if d.list != 0 && (match s.listCount d.list with | some n => decide (n ≤ d.pos + tail) | none => true) then none
  else if d.fmt < desired thr d.mass then some (.rewrite (d.fmt + 1))
  else if Config.hasLp ∧ d.tier = 0 ∧ d.mass < t4 then some (.move 1)
  else if d.tier = 1 ∧ t5 ≤ d.mass then some (.move 0)
  else none

/-- R319, R222: the header that a visit reads at its home slice; one that fails for a memory error is noted. -/
def State.noteHeader (s : State) (lpn : Nat) : State :=
  let d := s.desc lpn
  if d.list = 0 ∨ !(s.ebbAsks lpn) then s
  else
    match s.resolve d.list .read with
    | .ok (t, pa) => match s.lineBad t pa with | some k => s.noteBad (pa / 128) k (sectorMask pa 4) | none => s.touchHome t pa 0
    | .error _ => s

/-- An action begins; one that finds no space is not taken. No rewrite widens a page (R177). -/
def State.ebbAct (s : State) (lpn : Nat) (a : EbbAct) : State :=
  let d := s.desc lpn
  if d.free ∨ d.transit then s
  else
    match a with
    | .rewrite f => if f ≤ d.fmt then s else s.tryRewrite lpn f d.tier false d.ord none
    | .move t => if t = d.tier then s else s.tryRewrite lpn d.fmt t false d.ord none

/-- R321, R322: what a visit decides for a page with ORD = 1 is planned at the commit itself: the new image has its place, and TRANSIT is set,
so that neither depends on what follows (DEDUCED, log entry 116). -/
def State.planPage (s : State) (lpn : Nat) : State :=
  let d := s.desc lpn
  let s1 := s.noteHeader lpn
  match s.ebbDecide lpn with
  | none => s1
  | some a =>
    let fmt := match a with | .rewrite f => f | .move _ => d.fmt
    let tier := match a with | .rewrite _ => d.tier | .move t => t
    let bytes := imageBytes fmt (dimOf d.dim)
    match s1.findRun tier bytes with
    | none => s1
    | some at_ => (s1.bump.setDesc lpn { d with transit := true }).modPages fun p =>
        { p with plan := p.plan ++ [{ lpn := lpn, ver := d.ver, valid := d.valid, fmt := fmt, tier := tier, addr := at_, bytes := bytes }] }

/-- R321, R322: a planned action runs, if the page is still the version that the commit decided on. -/
def State.planAct (s : State) (e : Plan) : State :=
  let d := s.desc e.lpn
  let s1 := s.modPages fun p => { p with plan := p.plan.filter fun q => q.lpn != e.lpn }
  let end_ := fun (s : State) => if d.free then s else s.setDesc e.lpn { s.desc e.lpn with transit := false }
  if !d.free ∧ d.ver = e.ver ∧ d.valid = e.valid then
    (s1.rewriteAt e.lpn e.fmt e.tier e.addr false true none).getD (end_ (s1.imageNote d.tier d.addr d.bytes))
  else end_ s1

/-- R320: an Ebb's action queue has room. A rewrite that is complete and waits for a commit has left it. -/
def State.actionRoom (s : State) (lpn : Nat) : Bool :=
  decide ((s.pages.rewrites.filter fun r => ebbOf r.lpn == ebbOf lpn && !r.hatch && !r.defer && r.op.isNone).length < 16)

/-- R320: the next allocated page of an Ebb's pass. -/
def State.nextVisit (s : State) (e : Nat) : Option Nat :=
  match s.pages.passes[Fin.ofNat 4 e] with
  | some from_ => (s.pages.descs.find? fun p => decide (from_ ≤ p.1) && ebbOf p.1 == e && !p.2.free).map (·.1)
  | none => none

/-- R320, R321: an Ebb visits the next page of its pass: a page with ORD = 1 takes what the commit decided. -/
def State.visit (s : State) (lpn : Nat) : State :=
  if s.nextVisit (ebbOf lpn) ≠ some lpn ∨ !(s.actionRoom lpn) then s
  else
    let s1 := s.modPages fun p => { p with passes := p.passes.set (Fin.ofNat 4 (ebbOf lpn)) (some (lpn + 1)) }
    if (s1.desc lpn).ord then
      match s1.pages.plan.find? fun e => e.lpn == lpn with
      | some e => s1.planAct e
      | none => s1
    else
      match s1.ebbDecide lpn with
      | some a => (s1.noteHeader lpn).ebbAct lpn a
      | none => s1.noteHeader lpn

def execEbbVisit (lpn : Nat) (s : State) : Out := .next (s.visit lpn)

/-- R320, R322: a swap that is not deferred. -/
def execEbbSwap (lpn : Nat) (s : State) : Out :=
  .next (match s.rewriteOf lpn with
    | some r => if r.hatch || r.defer || !(s.retireRoom lpn) then s else s.swap r
    | none => s)

/-- R321, R389: at a commit, the actions still planned are carried out, and the deferred swaps performed in ascending LPN. None while a
swap waits for a retire entry. -/
def State.commitSwaps (s : State) : Option State :=
  let s1 := s.pages.plan.foldl State.planAct s
  let due := s1.pages.descs.filterMap fun e => (s1.rewriteOf e.1).bind fun r => if r.defer then some r else none
  due.foldl (fun s? r => s?.bind fun s => if s.retireRoom r.lpn then some (s.swap r) else none) (some s1)

/-- R317: a descriptor at a commit. -/
def Desc.atCommit (d : Desc) : Desc :=
  if d.free then d
  else { d with mass := min 0xFFFF (d.mass - d.mass / 8 + d.dep), dep := 0, age := min 0xFFFF (d.age + 1) }

/-- R389, phases 5 and 6: counters, samples of the registers, new passes, and the decisions for pages with ORD = 1. -/
def State.commitPages (s : State) : State :=
  let s1 := s.modPages fun p => { p with descs := p.descs.map fun e => (e.1, e.2.atCommit), thrNow := p.thr, ctlNow := p.ctl
                                         passes := Vector.replicate 4 (some 0) }
  ((s1.pages.descs.filter fun e => e.2.ord).map (·.1)).foldl State.planPage s1

/-! ### The Hatch (R324, R325) -/

/-- Bytes of images in the LP tier. -/
def State.lpUse (s : State) : Nat := ((s.imageRuns 1).map fun u => u.2 * 256).sum

/-- R324: the page under the hand. -/
def State.underHand (s : State) : Option Nat :=
  let live := s.pages.descs.filter fun e => !e.2.free
  match live.find? fun e => decide (s.pages.hand ≤ e.1) with
  | some e => some e.1
  | none => (live.head?).map (·.1)

/-- R324: one visit of the sweep. Without the flash tier the Hatch never spills (R439). -/
def State.hatchSweep (s : State) : State :=
  let high := s.pages.wm.toNat % 2 ^ 8
  let low := s.pages.wm.toNat / 2 ^ 8 % 2 ^ 8
  let on := Config.hasFlash && if s.pages.sweeping then decide (low * Config.lpBytes ≤ s.lpUse * 100) else decide (high * Config.lpBytes < s.lpUse * 100)
  let s1 := s.modPages fun p => { p with sweeping := on }
  match s1.underHand with
  | none => s1
  | some lpn =>
    if !on then s1
    else
      let s2 := s1.modPages fun p => { p with hand := lpn + 1 }
      let d := s2.desc lpn
      if d.tier ≠ 1 then s2
      else if d.ref then s2.setDesc lpn { d with ref := false }
      else if d.pin = 0 ∧ !d.hold ∧ d.rdr = 0 ∧ !d.transit then s2.tryRewrite lpn d.fmt 2 true false none
      else s2

def execHatchSweepVisit (s : State) : Out := .next s.hatchSweep

/-- R220, R324: a spilled image stands in flash: its place in the LP tier is unmapped, and the page is swapped to flash if it is still what was
spilled. -/
def State.spillDone (s : State) (r : Rewrite) : State :=
  let d := s.desc r.lpn
  let s1 := if !d.free ∧ d.ver = r.ver ∧ d.valid = r.valid then s.modPages fun p => { p with unmapped := (d.addr, unitsOf d.bytes) :: p.unmapped } else s
  s1.swap r

def execHatchSpillComplete (lpn : Nat) (s : State) : Out :=
  .next (match s.rewriteOf lpn with
    | some r => if r.hatch ∧ r.tier = 2 ∧ s.retireRoom lpn then s.spillDone r else s
    | none => s)

/-- R326: the page that the first lookahead list asks for. -/
def State.lookahead (s : State) : Option Nat :=
  match s.ops.find? fun o => (match o.instr with | .pglook _ => true | _ => false) && !o.done with
  | some o => match o.data with | l :: _ => (l.getD o.rows 0).toNat | [] => none
  | none => none

/-- R325: a page stands in flash, and can be fetched. -/
def State.inFlash (s : State) (lpn : Nat) : Bool := (s.desc lpn).tier == 2 && !(s.desc lpn).lost

/-- R325: the Hatch fetches a page that is wanted; a read that fails twice loses it. -/
def State.fetchPage (s : State) (lpn : Nat) (ok : Bool) : State :=
  let d := s.desc lpn
  let asked := s.pages.wanted.contains lpn || ((s.pages.wanted.filter s.inFlash).isEmpty && s.lookahead == some lpn)
  let drop := fun (s : State) => s.modPages fun p => { p with wanted := p.wanted.filter fun n => n != lpn, fails := Sparse.erase p.fails lpn }
  if !asked then s
  else if !(s.inFlash lpn) then drop s
  else if !(s.retireRoom lpn) then s
  else if !ok then
    if (Sparse.find s.pages.fails lpn).isSome then (drop s).setDesc lpn { d with lost := true }
    else s.modPages fun p => { p with fails := Sparse.insert p.fails lpn 1 }
  else
    match s.beginRewrite lpn d.fmt 1 true false none with
    | none => s
    | some s1 =>
      match s1.rewriteOf lpn with
      | none => s1
      | some r =>
        let s2 := s1.swap r
        drop (s2.setDesc lpn { s2.desc lpn with ref := true })

/-! ### Pressure on the pool (R467) -/

/-- A request writes into the HBM image pool. -/
def State.toPool (s : State) (r : Request) : Bool :=
  r.writes && r.space == 0 && r.tgt == .hbm && r.stage == .posted
    && r.accs.any fun a => decide (s.pages.poolBase ≤ a.pa ∧ a.pa < s.pages.poolBase + s.pages.poolSize)

/-- R467: a write to a pool line is held while it needs more raw storage than remains. -/
def State.poolHeld (s : State) (r : Request) : Bool := s.toPool r && s.poolShort (s.performWriteReq r)

/-- R215, R252, R467: a write is performed at its home slice, unless it is held. -/
def execHomeSliceWrite (id : Nat) (s : State) : Out :=
  .next (match s.req? id with
    | some r => if r.space ≠ 0 ∨ s.poolHeld r then s else s.performWriteReq r
    | none => s)

/-- R467: a held write proceeds once there is storage for it. -/
def execHeldPoolWriteProceed (s : State) : Out :=
  .next (match s.mem.reqs.find? fun r => s.toPool r && s.canPerform r && !(s.poolHeld r) with
    | some r => s.performWriteReq r
    | none => s)

/-- R467: the page that moves to make room: the least MASS; among equal ones the lowest LPN (DESIGN CHOICE, log entry 114). -/
def State.pressed (s : State) : Option Nat :=
  ((s.pages.descs.filter fun e => e.2.tier == 0 && e.2.pin == 0 && !e.2.hold && e.2.rdr == 0 && !e.2.transit).foldl (fun (b : Option (Nat × Desc)) e =>
    match b with
    | none => some e
    | some a => if e.2.mass < a.2.mass then some e else some a) none).map (·.1)

/-- R467: that page moves to the LP tier. -/
def State.pressureMove (s : State) : State :=
  match s.pressed with
  | none => s
  | some lpn =>
    let s1 := s.tryRewrite lpn (s.desc lpn).fmt 1 false false none
    match (if s.retireRoom lpn then s1.rewriteOf lpn else none) with
    | some r => s1.swap r
    | none => s

end Sys2Proof.Machine
end

