-- ==== Sys2Proof/Machine/PageOps.lean ====
section
/-! DEFINITION. Class 0xC, page instructions (spec 14, R328 to R337). -/

namespace Sys2Proof.Machine

/-! ### The page block (R328) -/

/-- Every word from a number on is zero. -/
def zeroFrom (k : Nat) (b : List Word) : Bool := (b.drop k).all fun v => v == 0

/-- Words of a block, as numbers. -/
def bw (b : List Word) (k : Nat) : Nat := (b.getD k 0).toNat

/-- R328: the checks of a page block. -/
def pageBlockOk (count : Nat) (i : Instr) (b : List Word) : Bool :=
  let list := decide (bw b 0 % 64 = 0)
  match i with
  | .pgnew _ => list && decide (bw b 1 < count) && decide (bw b 2 ≤ 1) && zeroFrom 3 b
  | .pgapp _ => list && decide (bw b 1 % 16 = 0) && decide (1 ≤ bw b 2 ∧ bw b 2 ≤ 4096) && decide (bw b 3 % 16 = 0) && decide (bw b 4 ≤ 2)
                  && decide (bw b 5 % 4 = 0) && zeroFrom 6 b
  | .pgappRef _ => list && decide (bw b 1 % 4 = 0) && decide (1 ≤ bw b 2 ∧ bw b 2 ≤ 4096) && zeroFrom 3 b
  | .pgfree _ => list && zeroFrom 1 b
  | .pgtrunc _ => list && zeroFrom 2 b
  | .pgdemote _ => decide (bw b 0 < count) && decide (bw b 1 < 2 ^ 9) && decide (bw b 1 / 4 % 64 = 0) && zeroFrom 2 b
  | .pglook _ => decide (bw b 0 % 4 = 0) && decide (1 ≤ bw b 1 ∧ bw b 1 ≤ 4096) && zeroFrom 2 b
  | .pgsum _ => decide (bw b 0 < count) && decide (bw b 1 % 16 = 0) && zeroFrom 2 b
  | _ => false

/-- Four-byte numbers that a quarter's array holds now, as far as they can be read. -/
def State.peek (s : State) (w : Warp) (va : Word) (n : Nat) : List Nat :=
  match s.engRead w 0 (pieces (4 * n)) va (4 * n) with
  | .ok bs => (chunks 4 bs n).map natOfBytes
  | .error _ => []

/-- R325: the pages that an instruction's operation is about to read or to append to. -/
def State.readsPages (s : State) (w : Warp) (i : Instr) (b : List Word) : List Nat :=
  match i with
  | .atts _ | .attv _ => s.peek w (b.getD 0 0) (attPages b)
  | .psel _ => s.peek w (b.getD 0 0) (bw b 1 % 2 ^ 13)
  | .pgsum _ => [bw b 0]
  | .pgapp _ =>
    match s.peek w (b.getD 0 0) 1 with
    | n :: _ => if n = 0 then [] else (s.peek w (b.getD 0 0 + BitVec.ofNat 64 (0x40 + 4 * (n - 1))) 1).filter fun l => (s.desc l).fmt == 0 && decide ((s.desc l).valid < 32)
    | [] => []
  | _ => []

/-- R325: one of them is in flash. -/
def State.flashPage (s : State) (w : Warp) (i : Instr) (b : List Word) : Bool := (s.readsPages w i b).any s.inFlash

/-- R325, R346: an operation is posted; where a page that it is to read is in flash, its quarter waits at the instruction, while the
operation goes on with what the Hatch does not delay (DEDUCED, log entry 55). -/
def Ctx.postReader (c : Ctx) (s : State) (i : Instr) (slot : Nat) (b : List Word) (glob : Bool) : QResult :=
  let s1 := c.postOp s i (some slot) b glob
  if s.flashPage c.w i b then .held s1 s.fresh else .done s1

/-- R390: the operation stores to global memory. -/
def pageGlob (i : Instr) (b : List Word) : Bool :=
  match i with
  | .pgdemote _ | .pglook _ => false
  | .pgsum _ => b.getD 1 0 != 0
  | _ => true

/-- R328: a quarter posts its operation. -/
def pagePost (x : Ext) (i : Instr) (c : Ctx) (s : State) : QResult :=
  let b := c.block x.a
  if !(pageBlockOk s.pages.count i b) then .done (c.badHandle s)
  else if !(c.slot x.d.toNat).room 1 then .later
  else c.postReader s i x.d.toNat b (pageGlob i b)

def pageOp (x : Ext) (i : Instr) (s : State) : State := quarterOp x i none (pagePost x i) s

/-- R326: the lists that the Hatch holds, in the order in which they were posted. -/
def State.lookLists (s : State) : List EngOp := s.ops.filter fun o => (match o.instr with | .pglook _ => true | _ => false) && !o.done

/-- R326: a further list waits for room: its quarter does not issue, and posts in the order in which quarters began to wait. -/
def lookPost (x : Ext) (c : Ctx) (s : State) : QResult :=
  if 16 ≤ s.lookLists.length ∨ s.behind (c.place 2 0) then .wait 2 0 else pagePost x (.pglook x) c s

def execPgnew (x : Ext) (s : State) : Out := .next (pageOp x (.pgnew x) s)
def execPgapp (x : Ext) (s : State) : Out := .next (pageOp x (.pgapp x) s)
def execPgappRef (x : Ext) (s : State) : Out := .next (pageOp x (.pgappRef x) s)
def execPgfree (x : Ext) (s : State) : Out := .next (pageOp x (.pgfree x) s)
def execPgtrunc (x : Ext) (s : State) : Out := .next (pageOp x (.pgtrunc x) s)
def execPgdemote (x : Ext) (s : State) : Out := .next (pageOp x (.pgdemote x) s)
def execPglook (x : Ext) (s : State) : Out := .next (quarterOp x (.pglook x) none (lookPost x) s)
def execPgsum (x : Ext) (s : State) : Out := .next (pageOp x (.pgsum x) s)

/-! ### How an operation goes on -/

/-- The operation has ended, with a late fault or none. -/
def State.endOp (s : State) (o : EngOp) (err : Option (Nat × Word)) : State := s.setOp o.id fun p => { p with done := true, err := err }

/-- A failure that a rule names: bad handle, with a page or a list in the address field. -/
def State.failOp (s : State) (o : EngOp) (addr : Word) : State := s.endOp o (some (0x08, addr))

/-- R325: the page that an operation is to read next has been found in flash: it is wanted, and the ready threads of the quarter wait where they
stand (DEDUCED, log entry 55). -/
def State.awaitPage (s : State) (o : EngOp) (lpn : Nat) : State :=
  (s.want lpn).modWarpOf o.gid o.widx fun w =>
    w.modThreads (quarterMask o.quarter &&& w.which Thread.isReady) fun _ t => { t with st := .waiting (.hatch o.id) t.pc, since := s.ns }

/-- R325: an operation is still to read a page that is in flash. -/
def State.opAwaits (s : State) (id : Nat) : Bool :=
  match s.op? id with
  | none => false
  | some o => !o.done &&
    match o.data, o.instr with
    | _, .pgsum _ | _, .pgapp _ | [], _ => s.flashPage (s.warpOfOp o) o.instr o.vals
    | l :: _, _ => l.zipIdx.any fun e => s.inFlash e.1.toNat && !(o.pages.any fun p => p.idx == e.2)

/-- R325: the quarters whose operation waits for no page any more go on. -/
def State.wakeHatch (s : State) : State :=
  s.warps.foldl (fun s e =>
    let m := e.2.which fun t => match t.waits with | some (.hatch id) => !(s.opAwaits id) | _ => false
    if m = 0 then s else s.release e.1 m) s

/-- The class of an operation's launch is ordered or strict. -/
def State.opOrdered (s : State) (o : EngOp) : Bool := match s.launchOfOp o with | some l => l.kern.cls != 0 | none => false

/-- Bytes that an operation reads from global memory, never from a staging buffer (R465). -/
def State.opRead (s : State) (o : EngOp) (va : Word) (n : Nat) : Except (Nat × Word) (List Byte) :=
  s.engRead (s.warpOfOp o) 0 (pieces n) va n

/-- R385: an operation's writes to global memory find room where they are staged. -/
def State.opRoom (s : State) (o : EngOp) (rs : List (Word × Nat)) : Bool := s.engRoom o (s.warpOfOp o) 0 rs

def State.opWord (s : State) (o : EngOp) (va : Word) : Except (Nat × Word) Nat :=
  match s.opRead o va 4 with
  | .ok bs => .ok (natOfBytes bs)
  | .error e => .error e

/-- Bytes that an operation writes to global memory: the time of completion joins the operation's, and a fault ends it. -/
def State.opWrite (s : State) (o : EngOp) (va : Word) (bs : List Byte) : State :=
  let r := s.engWrite o (s.warpOfOp o) 0 0 (pieces bs.length) va bs
  r.1.setOp o.id fun p =>
    let p1 := { p with
      doneAt := if r.2.1 = 0 then p.doneAt else laterOf p.doneAt r.2.1 }
    match r.2.2 with | some e => { p1 with done := true, err := some e } | none => p1

/-- An operation has met a fault (R284): it does no more. -/
def State.opFailed (s : State) (o : EngOp) : Bool := match s.op? o.id with | some p => p.err.isSome | none => true

/-- Bytes are written, and then, unless that failed, the operation goes on. -/
def State.opWriteThen (s : State) (o : EngOp) (va : Word) (bs : List Byte) (f : State → State) : State :=
  let s1 := s.opWrite o va bs
  if s1.opFailed o then s1 else f s1

/-- R314: a list header. -/
structure ListHead where
  count : Nat
  cap   : Nat
  kv    : Nat
  dim   : Nat

def State.listHead (s : State) (o : EngOp) (list : Word) : Except (Nat × Word) ListHead :=
  match s.opRead o list 10 with
  | .error e => .error e
  | .ok bs => .ok { count := natOfBytes (bs.take 4), cap := natOfBytes ((bs.drop 4).take 4), kv := (bs.getD 8 0).toNat, dim := (bs.getD 9 0).toNat }

def entryAddr (list : Word) (k : Nat) : Word := list + BitVec.ofNat 64 (0x40 + 4 * k)

/-- The LPN of a list's page. -/
def State.listPage (s : State) (o : EngOp) (list : Word) (k : Nat) : Except (Nat × Word) Nat := s.opWord o (entryAddr list k)

/-- R313: the lines of a new image are held raw, so that COMP reads 0 (log entry 10). -/
def State.holdRaw (s : State) (tier addr bytes : Nat) : State :=
  if tier ≠ 0 then s
  else
    { s with mem := (List.range ((bytes + 127) / 128)).foldl (fun m k =>
        if m.failed.contains (addr * 2 + k) then m
        else { m.unshare (addr * 2 + k) with raw := Sparse.erase (m.unshare (addr * 2 + k)).raw (addr * 2 + k) }) s.mem }

/-- R329: the new page stands: image, summary slot, descriptor, array entry, count. None while neither the pool nor the LP tier has space: the
operation waits (DESIGN CHOICE, log entry 115); or while its writes find no room (R385). -/
def State.placePage (s : State) (o : EngOp) (list : Word) (h : ListHead) (lpn : Nat) (hold : Bool) : Option State :=
  let bytes := imageBytes 0 (dimOf h.dim)
  if !(s.opRoom o [(entryAddr list h.count, 4), (list, 4)]) then none
  else
  match (match s.findRun 0 bytes with | some a => some (0, a) | none => (s.findRun 1 bytes).map fun a => (1, a)) with
  | none => none
  | some (tier, a) =>
    let s1 := s.bump
    let slot := s1.findSlot
    let s2 := s1.bump.putSummary slot { n := 0, rho := 0, lpn := lpn, ver := nextVer (s1.desc lpn).ver, cent := List.replicate (dimOf h.dim) 0 }
    let s3 := ((s2.claimRun tier a (unitsOf bytes)).holdRaw tier a bytes).setDesc lpn { Desc.init with
      list := list, pos := h.count % 2 ^ 16, sumIdx := slot, ord := s.opOrdered o, ref := true, mass := 0x1000, ver := nextVer (s1.desc lpn).ver, hold := hold
      addr := a, dim := h.dim, kv := h.kv == 1, tier := tier }
    some (s3.opWriteThen o (entryAddr list h.count) (bytesOfNat 4 lpn) fun s => s.opWrite o list (bytesOfNat 4 (h.count + 1)))

/-- A list's last page. -/
def State.lastPage (s : State) (o : EngOp) (list : Word) (h : ListHead) : Except (Nat × Word) (Option Nat) :=
  if h.count = 0 then .ok none
  else
    match s.listPage o list (h.count - 1) with
    | .error e => .error e
    | .ok l => .ok (some l)

/-- R329: what fails a new page, but for the last page's VALID. -/
def State.newPageFails (s : State) (list : Word) (h : ListHead) (lpn : Nat) : Option (Nat × Word) :=
  if s.pages.count ≤ lpn ∨ !(s.desc lpn).free then some (0x08, BitVec.ofNat 64 lpn)
  else if h.cap = 0 ∨ 65536 < h.cap ∨ 2 < h.dim ∨ h.cap ≤ h.count then some (0x08, list)
  else none

/-- A list's last page, if it has one, holds 32 entries. -/
def State.lastFull (s : State) (last : Option Nat) : Bool := match last with | some l => (s.desc l).valid == 32 | none => true

/-- R329: `pgnew`. -/
def State.advancePgnew (s : State) (o : EngOp) : State :=
  let list := o.vals.getD 0 0
  match s.listHead o list with
  | .error e => s.endOp o (some e)
  | .ok h =>
    match s.newPageFails list h (bw o.vals 1), s.lastPage o list h with
    | some e, _ | none, .error e => s.endOp o (some e)
    | none, .ok last =>
      if !(s.lastFull last) then s.failOp o list
      else
      match s.placePage o list h (bw o.vals 1) ((o.vals.getD 2 0).getLsbD 0) with
      | some s1 => s1.setOp o.id fun p => { p with done := true }
      | none => s

/-! ### `pgapp` (R330) -/

/-- R330: one entry goes into the last page. -/
def State.appendEntry (s : State) (o : EngOp) (lpn : Nat) : State :=
  let d := s.desc lpn
  let dim := dimOf d.dim
  let fmt := bw o.vals 4
  let va := rowAt (o.vals.getD 1 0) (o.vals.getD 3 0) o.rows
  let s0 := s.engNote (s.warpOfOp o) 0 va (rowBytes fmt dim)
  match s0.opRead o va (rowBytes fmt dim) with
  | .error e => s0.endOp o (some e)
  | .ok bs =>
    let row := (rowDecode fmt dim bs).flatMap fun v => bytesOfNat 2 (narrow 0 false v).1
    let s1 := (List.range (row.length / 128)).foldl (fun s k =>
      s.performWrite (if d.tier = 0 then .hbm else .lp) (d.addr * 256 + 2 * dim * d.valid + 128 * k) ((row.drop (128 * k)).take 128) .plain) s0
    let s2 := s1.setDesc lpn { d with valid := d.valid + 1, packed := d.packed || decide (d.valid = 31) }
    let end_ := fun (s : State) => s.setOp o.id fun p => { p with rows := p.rows + 1, done := decide (bw o.vals 2 ≤ p.rows + 1) }
    if d.valid + 1 < 32 then end_ s2
    else
      let s3 := s2.imageNote d.tier d.addr d.bytes
      match s2.imageRead d.tier d.addr d.bytes with
      | .ok img => end_ (s3.newSummary lpn (imageVals 0 dim 0 img 32) id)
      | .error a => s3.endOp o (some (0x13, BitVec.ofNat 64 a))

/-- R323: a version that readers still hold has the image of a page: an entry would change what they read (DEDUCED, log entry 98). -/
def State.imageHeld (s : State) (d : Desc) : Bool := s.pages.retire.any fun r => r.tier == d.tier && r.addr == d.addr

/-- What an operation keeps of its list: the header and the last page. -/
def ListHead.words (h : ListHead) (last : Nat) : List Word := [h.count, h.cap, h.kv, h.dim, last].map (BitVec.ofNat 64)

def ListHead.ofWords (l : List Word) : ListHead := { count := bw l 0, cap := bw l 1, kv := bw l 2, dim := bw l 3 }

/-- R329, R330: the new page that an entry needs, from the supply array. -/
def State.appendPage (s : State) (o : EngOp) (h : ListHead) : State :=
  let list := o.vals.getD 0 0
  match s.opWord o ((o.vals.getD 5 0) + BitVec.ofNat 64 (4 * o.claim.getD 0)) with
  | .error e => s.endOp o (some e)
  | .ok lpn =>
    match s.newPageFails list h lpn with
    | some e => s.endOp o (some e)
    | none =>
      match s.placePage o list h lpn false with
      | some s1 => s1.setOp o.id fun p => { p with claim := some (p.claim.getD 0 + 1), data := [{ h with count := h.count + 1 }.words lpn] }
      | none => s

/-- R330: `pgapp` reads its list's header and last page, which it then keeps, since what it writes itself may be staged (R465; DEDUCED, log
entry 36); it goes on by one entry, or by the new page that the entry needs. -/
def State.advancePgapp (s : State) (o : EngOp) : State :=
  let list := o.vals.getD 0 0
  match o.data with
  | [] =>
    match s.listHead o list with
    | .error e => s.endOp o (some e)
    | .ok h =>
      match s.lastPage o list h with
      | .error e => s.endOp o (some e)
      | .ok last => s.setOp o.id fun p => { p with data := [h.words (last.getD 0)] }
  | l :: _ =>
    let h := ListHead.ofWords l
    let lpn := bw l 4
    let d := s.desc lpn
    if h.count = 0 then s.appendPage o h
    else if s.pages.count ≤ lpn ∨ d.free then s.failOp o (BitVec.ofNat 64 lpn)
    else if d.valid = 32 then s.appendPage o h
    else if d.lost then s.endOp o (some (0x11, BitVec.ofNat 64 lpn))
    else if d.fmt ≠ 0 then s.failOp o (BitVec.ofNat 64 lpn)
    else if d.tier = 2 then s.awaitPage o lpn
    else if s.imageHeld d ∨ d.valid = 31 ∧ !(s.canRetire lpn) then s
    else s.appendEntry o lpn

/-- R330: the LPNs of an array. -/
def State.lpnArray (s : State) (o : EngOp) (va : Word) (n : Nat) : Except (Nat × Word) (List Nat) :=
  match s.opRead o va (4 * n) with
  | .error e => .error e
  | .ok bs => .ok ((chunks 4 bs n).map natOfBytes)

/-- R330: a page may be appended by reference, `k` times. -/
def State.refOk (s : State) (h : ListHead) (k lpn : Nat) : Bool :=
  let d := s.desc lpn
  decide (lpn < s.pages.count) && !d.free && d.valid == 32 && d.kv == (h.kv == 1) && d.dim == h.dim && decide (d.pin + k ≤ 255)

/-- R330: `pgapp.ref`: all or nothing. -/
def State.advancePgappRef (s : State) (o : EngOp) : State :=
  let list := o.vals.getD 0 0
  let n := bw o.vals 2
  match s.listHead o list, s.lpnArray o (o.vals.getD 1 0) n with
  | .error e, _ => s.endOp o (some e)
  | _, .error e => s.endOp o (some e)
  | .ok h, .ok ls =>
    match s.lastPage o list h with
    | .error e => s.endOp o (some e)
    | .ok last =>
      match ls.find? fun l => !(s.refOk h (ls.filter fun q => q == l).length l) with
      | some l => s.failOp o (BitVec.ofNat 64 l)
      | none =>
        if !(s.lastFull last) ∨ h.cap < h.count + n then s.failOp o list
        else if !(s.opRoom o [(entryAddr list h.count, 4 * n), (list, 4)]) then s
        else
          let s1 := ls.zipIdx.foldl (fun s e =>
            if s.opFailed o then s
            else (s.setDesc e.1 { s.desc e.1 with pin := (s.desc e.1).pin + 1, shared := true }).opWrite o (entryAddr list (h.count + e.2)) (bytesOfNat 4 e.1)) s
          if s1.opFailed o then s1 else (s1.opWrite o list (bytesOfNat 4 (h.count + n))).setOp o.id fun p => { p with done := true }

/-! ### Releasing (R331, R332) -/

/-- R331: a list's page is released: none while its version waits for a retire entry. -/
def State.releasePage (s : State) (list : Word) (lpn : Nat) : Option State :=
  let d := s.desc lpn
  if d.free then some s
  else if d.list = list ∧ d.list ≠ 0 then
    if d.pin = 0 then (if s.canRetire lpn then some (s.freePage lpn) else none) else some (s.setDesc lpn { d with list := 0 })
  else if d.list = 0 ∧ d.pin ≤ 1 then
    if s.canRetire lpn then some ((s.setDesc lpn { d with pin := 0 }).freePage lpn) else none
  else some (s.setDesc lpn { d with pin := d.pin - 1 })

/-- R331: `pgfree` goes on by one page, and then clears the count. -/
def State.advancePgfree (s : State) (o : EngOp) : State :=
  let list := o.vals.getD 0 0
  match s.listHead o list with
  | .error e => s.endOp o (some e)
  | .ok h =>
    if h.count ≤ o.rows then
      if s.opRoom o [(list, 4)] then (s.opWrite o list (bytesOfNat 4 0)).setOp o.id fun p => { p with done := true } else s
    else
      match s.listPage o list o.rows with
      | .error e => s.endOp o (some e)
      | .ok lpn =>
        if s.pages.count ≤ lpn then s.failOp o (BitVec.ofNat 64 lpn)
        else
          match s.releasePage list lpn with
          | some s1 => s1.setOp o.id fun p => { p with rows := p.rows + 1 }
          | none => s

/-- The pages of a list from an index on. -/
def State.listPages (s : State) (o : EngOp) (list : Word) (k : Nat) : Nat → Except (Nat × Word) (List Nat)
  | 0 => .ok []
  | n + 1 =>
    match s.listPage o list k, s.listPages o list (k + 1) n with
    | .error e, _ => .error e
    | _, .error e => .error e
    | .ok l, .ok ls => .ok (l :: ls)

/-- R332: the new last page, of a given image, takes a lower VALID, with a new version and summary. -/
def State.shortenPage (s : State) (lpn v : Nat) (img : List Byte) : State :=
  let d := s.desc lpn
  (s.imageNote d.tier d.addr d.bytes).newSummary lpn (imageVals 0 (dimOf d.dim) 0 img v) fun d => { d with valid := v }

/-- R332: `pgtrunc`, in one go. -/
def State.advancePgtrunc (s : State) (o : EngOp) : State :=
  let list := o.vals.getD 0 0
  let t := bw o.vals 1
  match s.listHead o list with
  | .error e => s.endOp o (some e)
  | .ok h =>
    match s.listPages o list 0 h.count with
    | .error e => s.endOp o (some e)
    | .ok ls =>
      let held := if h.count = 0 then 0 else 32 * (h.count - 1) + (s.desc (ls.getD (h.count - 1) 0)).valid
      let keep := (t + 31) / 32
      let last := ls.getD (keep - 1) 0
      let falls := t % 32 ≠ 0 ∧ t % 32 < (s.desc last).valid
      if held < t then s.failOp o list
      else if falls ∧ ((s.desc last).fmt ≠ 0 ∨ (s.desc last).tier = 2) then s.failOp o (BitVec.ofNat 64 last)
      else if t = held then s.setOp o.id fun p => { p with done := true }
      else if !(s.opRoom o [(list, 4)]) then s
      else
        match (if falls then s.imageRead (s.desc last).tier (s.desc last).addr (s.desc last).bytes else .ok []) with
        | .error a => (s.imageNote (s.desc last).tier (s.desc last).addr (s.desc last).bytes).endOp o (some (0x13, BitVec.ofNat 64 a))
        | .ok img =>
        match (ls.drop keep).foldl (fun s? l => s?.bind fun s => s.releasePage list l) (some s) with
        | none => s
        | some s1 =>
          if falls ∧ !(s1.canRetire last) then s
          else
            let s2 := if falls then s1.shortenPage last (t % 32) img else s1
            let s3 := if keep = h.count then s2 else s2.opWrite o list (bytesOfNat 4 keep)
            s3.setOp o.id fun p => { p with done := true }

/-! ### `pgdemote`, `pgsum`, `pglook` (R333, R336, R337) -/

/-- R333 (DEDUCED, log entry 81). -/
def State.advancePgdemote (s : State) (o : EngOp) : State :=
  let lpn := bw o.vals 0
  let g := bw o.vals 1 % 4
  let lp := (o.vals.getD 1 0).getLsbD 8
  let d := s.desc lpn
  if (s.pages.rewrites.any fun r => r.op == some o.id) then s
  else if lp && !Config.hasLp then s.endOp o (some (0x15, BitVec.ofNat 64 lpn))
  else if d.free ∨ d.lost ∨ d.hold ∨ d.valid < 32 ∨ d.tier = 2 ∨ g < d.fmt ∨ (g = d.fmt ∧ (!lp ∨ d.tier = 1)) then s.failOp o (BitVec.ofNat 64 lpn)
  else if d.transit then s
  else
    match s.imageRead d.tier d.addr d.bytes with
    | .error a => (s.imageNote d.tier d.addr d.bytes).endOp o (some (0x13, BitVec.ofNat 64 a))
    | .ok _ => s.tryRewrite lpn g (if lp then 1 else d.tier) false d.ord (some o.id)

/-- R336: the snapshot counts as one (R419, event 0x0A). -/
def State.advancePgsum (s : State) (o : EngOp) : State :=
  let lpn := bw o.vals 0
  let d := s.desc lpn
  if d.free ∨ d.lost then s.failOp o (BitVec.ofNat 64 lpn)
  else if d.tier = 2 then s.awaitPage o lpn
  else if d.rdr = 255 ∨ bw o.vals 1 ≠ 0 ∧ !(s.opRoom o [(o.vals.getD 1 0, 16 + 2 * dimOf d.dim)]) then s
  else
    let s1 := (s.setDesc lpn { d with ref := true }).imageNote d.tier d.addr d.bytes
    let old := (Sparse.find s1.pages.sums d.sumIdx).map (·.n)
    match (if old = some d.valid then .ok s1
           else if !(s1.canRetire lpn) then .ok s
           else match s1.readVersion d with
             | .ok vals => .ok (s1.newSummary lpn vals id)
             | .error a => .error a : Except Nat State) with
    | .error a => s1.endOp o (some (0x13, BitVec.ofNat 64 a))
    | .ok s2 =>
      match Sparse.find s2.pages.sums (s2.desc lpn).sumIdx with
      | none => s2
      | some m =>
        if m.n ≠ d.valid then s
        else ((if bw o.vals 1 = 0 then s2 else s2.opWrite o (o.vals.getD 1 0) m.bytes).setOp o.id fun p => { p with done := true }).count o.core 0x0A 1

/-- R326, R337: the Hatch works on the first list that it holds. -/
def State.advancePglook (s : State) (o : EngOp) : State :=
  let looks := s.lookLists.filter fun p => decide (p.id < o.id)
  if !Config.hasFlash then s.setOp o.id fun p => { p with done := true }
  else
    match o.data with
    | [] =>
      match s.lpnArray o (o.vals.getD 0 0) (bw o.vals 1) with
      | .error e => s.endOp o (some e)
      | .ok ls => s.setOp o.id fun p => { p with data := [ls.map (BitVec.ofNat 64)] }
    | l :: _ =>
      if !looks.isEmpty then s
      else if bw o.vals 1 ≤ o.rows then s.setOp o.id fun p => { p with done := true }
      else
        let lpn := (l.getD o.rows 0).toNat
        let d := s.desc lpn
        let on := fun (s : State) => s.setOp o.id fun p => { p with rows := p.rows + 1 }
        if s.pages.count ≤ lpn ∨ d.lost then on s
        else if d.tier = 1 then on (s.setDesc lpn { d with ref := true })
        else if d.tier = 2 then s
        else on s

/-- A page operation goes on. -/
def State.advancePage (s : State) (o : EngOp) : State :=
  if o.done ∨ !(o.forked s) then s
  else
    match o.instr with
    | .pgnew _ => s.advancePgnew o
    | .pgapp _ => s.advancePgapp o
    | .pgappRef _ => s.advancePgappRef o
    | .pgfree _ => s.advancePgfree o
    | .pgtrunc _ => s.advancePgtrunc o
    | .pgdemote _ => s.advancePgdemote o
    | .pglook _ => s.advancePglook o
    | .pgsum _ => s.advancePgsum o
    | _ => s

/-! ### The instructions of each thread (R334, R335) -/

/-- A thread's LPN. -/
def Ctx.lpn (c : Ctx) (r : BitVec 6) (i : Fin 32) : Nat := (c.reg r i).toNat

/-- What one thread's action comes to: the state, whether it took bad handle, and whether it must wait. -/
inductive PinResult where
  | ok (s : State)
  | bad
  | wait

/-- R334. -/
def State.pinPage (s : State) (lpn : Nat) : PinResult :=
  let d := s.desc lpn
  if s.pages.count ≤ lpn ∨ d.free ∨ 255 ≤ d.pin then .bad else .ok (s.setDesc lpn { d with pin := d.pin + 1 })

def State.unpinPage (s : State) (lpn : Nat) : PinResult :=
  let d := s.desc lpn
  if s.pages.count ≤ lpn ∨ d.free ∨ d.pin = 0 then .bad
  else if d.pin = 1 ∧ d.list = 0 then (if s.canRetire lpn then .ok ((s.setDesc lpn { d with pin := 0 }).freePage lpn) else .wait)
  else .ok (s.setDesc lpn { d with pin := d.pin - 1 })

def State.holdPage (s : State) (lpn : Nat) (on : Bool) : PinResult :=
  let d := s.desc lpn
  if s.pages.count ≤ lpn ∨ d.free then .bad else .ok (s.setDesc lpn { d with hold := on })

/-- The threads of a quarter act in lane order; those that take bad handle, or none where one must wait. -/
def eachThread (f : State → Fin 32 → PinResult) : List (Fin 32) → State → Option (State × Mask)
  | [], s => some (s, 0)
  | i :: is, s =>
    match f s i with
    | .wait => none
    | .bad => (eachThread f is s).map fun r => (r.1, r.2 ||| (1#32 <<< i.val))
    | .ok s1 => eachThread f is s1

/-- R328: a quarter's "each thread" instruction on pages. -/
def pinGo (f : Ctx → State → Fin 32 → PinResult) (c : Ctx) (s : State) : QResult :=
  match eachThread (f c) (Mask.lanes c.act) s with
  | none => .later
  | some r => .done (c.fault r.1 0x08 r.2 fun _ => 0)

def execPgpin (x : Ext) (s : State) : Out := .next (quarterOp x (.pgpin x) none (pinGo fun c s i => s.pinPage (c.lpn x.a i)) s)
def execPgunpin (x : Ext) (s : State) : Out := .next (quarterOp x (.pgunpin x) none (pinGo fun c s i => s.unpinPage (c.lpn x.a i)) s)
def execPgpinHold (x : Ext) (s : State) : Out := .next (quarterOp x (.pgpinHold x) none (pinGo fun c s i => s.holdPage (c.lpn x.a i) true) s)
def execPgunpinHold (x : Ext) (s : State) : Out := .next (quarterOp x (.pgunpinHold x) none (pinGo fun c s i => s.holdPage (c.lpn x.a i) false) s)

/-- R335: `pgmass.set`. -/
def State.setMass (s : State) (lpn v : Nat) : PinResult :=
  let d := s.desc lpn
  if s.pages.count ≤ lpn ∨ d.free then .bad else .ok (s.setDesc lpn { d with mass := v % 2 ^ 16 })

def execPgmassSet (x : Ext) (s : State) : Out :=
  .next (quarterOp x (.pgmassSet x) none (pinGo fun c s i => s.setMass (c.lpn x.a i) (c.reg x.b i).toNat) s)

/-- R335: a register read of descriptors: the threads whose LPN is out of range keep their destinations. -/
def infoGo (x : Ext) (v : State → Nat → Desc → Word) (c : Ctx) (s : State) : QResult :=
  let bad := maskOf fun i => c.act.getLsbD i && decide (s.pages.count ≤ c.lpn x.a i)
  .done (c.charged s x.d 32 fun s1 =>
    c.fault ((s1.writeVec c.wk x.d (c.act &&& ~~~ bad) 0 fun i => v s (c.lpn x.a i) (s.desc (c.lpn x.a i))).bump) 0x08 bad fun _ => 0)

/-- R313: COMP: the codec holds every line of the image packed or zero. -/
def State.comp (s : State) (lpn : Nat) : Bool :=
  let d := s.desc lpn
  d.tier == 0 && (List.range ((d.bytes + 127) / 128)).all fun k =>
    (s.lineBad .hbm (d.addr * 256 + 128 * k)).isNone && decide ((s.mem.rawOf (d.addr * 2 + k)).mode % 2 = 1)

def execPginfo (x : Ext) (s : State) : Out :=
  .next (quarterOp x (.pginfo x) (some x.d) (infoGo x fun s lpn d => d.word (s.comp lpn) (x.m 23 2)) s)

def execPgmassGet (x : Ext) (s : State) : Out :=
  .next (quarterOp x (.pgmassGet x) (some x.d) (infoGo x fun _ _ d => BitVec.ofNat 64 (d.mass + d.dep * 2 ^ 16 + d.age * 2 ^ 32)) s)

end Sys2Proof.Machine
end

