-- ==== Sys2Proof/Machine/Attention.lean ====
section
/-! DEFINITION. Class 0xD, attention and selection (spec 15, R339 to R350). -/

namespace Sys2Proof.Machine

/-! ### Blocks (R340, R341, R349) -/

/-- R341: the shape word. -/
def attShapeOk (v : Word) (chunk : Bool) : Bool :=
  let n := v.toNat
  n / 2 ^ 56 == 0 && n / 2 ^ 26 % 2 ^ 6 == 0 && n / 2 ^ 7 % 2 ^ 17 == 0
    && (if chunk then decide (n / 2 ^ 48 % 2 ^ 8 ≤ 111) else n / 2 ^ 48 % 2 ^ 8 == 0)
    && decide (1 ≤ n / 2 ^ 40 % 2 ^ 8 ∧ n / 2 ^ 40 % 2 ^ 8 + n / 2 ^ 32 % 2 ^ 8 ≤ 128) && decide (n / 2 ^ 24 % 4 ≤ 2)
    && decide (1 ≤ n % 2 ^ 7 ∧ n % 2 ^ 7 ≤ 64)

/-- R341: the tile word, with the fields that are used. -/
def attTilesOk (v : Word) (q st sb ot : Bool) : Bool :=
  let n := v.toNat
  n / 2 ^ 31 == 0 && !(n.testBit 23) && !(n.testBit 15) && !(n.testBit 7)
    && (q || n % 2 ^ 7 == 0) && (st || n / 2 ^ 8 % 2 ^ 7 == 0) && (sb || n / 2 ^ 16 % 2 ^ 7 == 0) && (ot || n / 2 ^ 24 % 2 ^ 7 == 0)

/-- R341: the mask word. -/
def attMaskOk (v : Word) : Bool :=
  let g := v.toNat / 2 ^ 32
  if v.toNat % 2 ^ 32 = 0xFFFFFFFF then g == 0 else decide (1 ≤ g ∧ g ≤ 128)

/-- R340: the layout of an instruction's block. -/
def attBlockOk (i : Instr) (b : List Word) : Bool :=
  let w := fun k => b.getD k 0
  match i with
  | .atts _ => decide (bw b 0 % 4 = 0) && attShapeOk (w 1) true && attTilesOk (w 2) true true true false && decide (bw b 3 < 2 ^ 32) && attMaskOk (w 4) && zeroFrom 5 b
  | .attv _ => decide (bw b 0 % 4 = 0) && attShapeOk (w 1) false && attTilesOk (w 2) false true true true && zeroFrom 3 b
  | .attf x => (if x.mb 24 then decide (bw b 0 % 4 = 0) else w 0 == 0) && attShapeOk (w 1) true && attTilesOk (w 2) false true (x.mb 24) (x.mb 23) && zeroFrom 3 b
  | .psel _ =>
    let n := bw b 1
    decide (bw b 0 % 4 = 0) && decide (bw b 2 % 4 = 0) && decide (bw b 3 % 4 = 0) && zeroFrom 4 b
      && n / 2 ^ 50 == 0 && n / 2 ^ 45 % 8 == 0 && !(n.testBit 31) && !(n.testBit 23) && n / 2 ^ 13 % 8 == 0 && decide (n / 2 ^ 48 % 4 ≤ 2)
      && decide (1 ≤ n / 2 ^ 40 % 32 ∧ n / 2 ^ 40 % 32 ≤ 16 ∧ n / 2 ^ 40 % 32 + n / 2 ^ 32 % 2 ^ 8 ≤ 128)
      && decide (1 ≤ n / 2 ^ 16 % 2 ^ 7 ∧ n / 2 ^ 16 % 2 ^ 7 ≤ 64 ∧ n / 2 ^ 16 % 2 ^ 7 ≤ n % 2 ^ 13) && decide (1 ≤ n % 2 ^ 13 ∧ n % 2 ^ 13 ≤ 4096)
  | _ => false

/-- R349: candidates, selected pages, rows and their origin. -/
def selNc (b : List Word) : Nat := bw b 1 % 2 ^ 13
def selK (b : List Word) : Nat := bw b 1 / 2 ^ 16 % 2 ^ 7
def selRows (b : List Word) : Nat := bw b 1 / 2 ^ 40 % 2 ^ 5
def selOrg (b : List Word) : Nat := bw b 1 / 2 ^ 32 % 2 ^ 8

/-- R340: the memory ranges of an instruction: address, bytes, permission. -/
def attRanges (i : Instr) (b : List Word) : List (Word × Nat × Perm) :=
  let w := fun k => b.getD k 0
  match i with
  | .atts _ | .attv _ => [(w 0, 4 * attPages b, .read)]
  | .attf x => if x.mb 24 then [(w 0, 4 * attPages b, .read)] else []
  | .psel _ => [(w 0, 4 * selNc b, .read), (w 2, 4 * selK b, .write)] ++ if w 3 = 0 then [] else [(w 3, 4 * selK b, .write)]
  | _ => []

/-- R340: a quarter posts its operation; `atts`, `attv` and `attf` take an entry of the reservation table (R276, R348). -/
def attPost (x : Ext) (i : Instr) (table : Bool) (c : Ctx) (s : State) : QResult :=
  let b := c.block x.a
  if table && (decide (64 ≤ s.tableUse (c.core / 4)) || s.behind (c.place 0 (c.core / 4))) then .wait 0 (c.core / 4)
  else if !(attBlockOk i b) || !((instrTiles i b).all fun t => s.tileOk c.w t) then .done (c.badHandle s)
  else
    match (attRanges i b).findSome? fun r => s.spanFault c.w 0 0 r.1 r.2.2 r.2.1 with
    | some (cause, a) => .done (c.fault s cause c.act fun _ => a)
    | none =>
      if !(c.slot x.d.toNat).room 1 then .later
      else
        match c.postReader s i x.d.toNat b (!table) with
        | .done s1 => .done (s1.noteReady (c.core / 4))
        | .held s1 id => .held (s1.noteReady (c.core / 4)) id
        | r => r

def execAtts (x : Ext) (s : State) : Out := .next (quarterOp x (.atts x) none (attPost x (.atts x) true) s)
def execAttv (x : Ext) (s : State) : Out := .next (quarterOp x (.attv x) none (attPost x (.attv x) true) s)
def execAttf (x : Ext) (s : State) : Out := .next (quarterOp x (.attf x) none (attPost x (.attf x) true) s)
def execPsel (x : Ext) (s : State) : Out := .next (quarterOp x (.psel x) none (attPost x (.psel x) false) s)

/-! ### Pages in flight (R346, R347) -/

/-- The readers that an operation still holds are released. -/
def State.releasePages (s : State) (o : EngOp) : State := o.pages.foldl (fun s p => if p.vals.isNone then s.endRead p.lpn p.desc.ver else s) s

/-- Operations are discarded: the readers that they hold are released (R323), and quarters that wait for them go on. -/
def State.dropOps (s : State) (drop : EngOp → Bool) : State :=
  let s1 := (s.ops.filter fun o => drop o && !o.done).foldl State.releasePages s
  { s1 with ops := s1.ops.filter fun o => !(drop o) }.wakeHatch

/-- R346: an operation ends with a fault, its readers released. -/
def State.failAtt (s : State) (o : EngOp) (cause lpn : Nat) : State := (s.releasePages o).endOp o (some (cause, BitVec.ofNat 64 lpn))

/-- R347: a page that the operation cannot use. -/
def State.attBad (s : State) (lpn dim : Nat) (kv : Bool) : Bool :=
  let d := s.desc lpn
  decide (s.pages.count ≤ lpn) || d.free || (!d.lost && (d.kv != kv || d.dim != dim))

/-- R346: the pages of a list that the operation has not begun to fetch. -/
def EngOp.left (o : EngOp) (ls : List Nat) : List (Nat × Nat) := (ls.mapIdx fun i l => (i, l)).filter fun e => !(o.pages.any fun p => p.idx == e.1)

/-- R346: eight pages are in flight. -/
def EngOp.fetchFull (o : EngOp) : Bool := decide (8 ≤ (o.pages.filter fun p => p.vals.isNone).length)

/-- R346: the next page whose fetch can begin, at most eight at a time: the first that does not wait for the Hatch. One whose snapshot must
wait for a reader (R323) holds up those behind it. -/
def State.nextFetch (s : State) (o : EngOp) (ls : List Nat) : Option (Nat × Nat) :=
  if o.fetchFull then none
  else
    match (o.left ls).find? fun e => !(s.inFlash e.2) with
    | some e => if (s.desc e.2).rdr = 255 then none else some e
    | none => none

/-- R325, R346: the snapshots whose turn it is find their pages in flash. -/
def State.wantNext (s : State) (o : EngOp) (ls : List Nat) : State :=
  if o.fetchFull then s else ((o.left ls).takeWhile fun e => s.inFlash e.2).foldl (fun s e => s.awaitPage o e.2) s

/-- R346: a page's fetch begins with its snapshot. -/
def State.beginFetch (s : State) (o : EngOp) (idx lpn dim : Nat) (kv : Bool) : State :=
  if s.attBad lpn dim kv then s.failAtt o 0x08 lpn
  else
    match s.snapshot o.core lpn with
    | .free => s.failAtt o 0x08 lpn
    | .lost => s.failAtt o 0x11 lpn
    | .wait s1 => s1
    | .got s1 d => s1.setOp o.id fun p => { p with pages := p.pages ++ [{ idx := idx, lpn := lpn, desc := d, vals := none }] }

/-- R346: a page in flight is read in the version that its snapshot caught. -/
def State.readFetched (s : State) (o : EngOp) (r : PageRead) : State :=
  let s0 := s.imageNote r.desc.tier r.desc.addr r.desc.bytes
  match s0.readVersion r.desc with
  | .error a => (s0.releasePages o).endOp o (some (0x13, BitVec.ofNat 64 a))
  | .ok vals =>
    (s0.endRead r.lpn r.desc.ver).setOp o.id fun p => { p with pages := p.pages.map fun q => if q.idx = r.idx then { q with vals := some vals } else q }

/-- The LPN array is read first. -/
def State.readList (s : State) (o : EngOp) (va : Word) (n : Nat) : State :=
  match s.lpnArray o va n with
  | .error e => s.endOp o (some e)
  | .ok ls => s.setOp o.id fun p => { p with data := [ls.map (BitVec.ofNat 64)] }

/-- The fetched pages in list order. -/
def EngOp.fetched (o : EngOp) (n : Nat) : List PageRead := (List.range n).filterMap fun k => o.pages.find? fun p => p.idx == k

/-- One step of fetching; `fin` follows when every page has been read. -/
def State.fetchStep (s : State) (o : EngOp) (n dim : Nat) (kv : Bool) (fin : State → List PageRead → State) : State :=
  match o.data with
  | [] => s.readList o (o.vals.getD 0 0) n
  | l :: _ =>
    let ls := l.map (·.toNat)
    match s.nextFetch o ls with
    | some (i, lpn) => (s.wantNext o ls).beginFetch o i lpn dim kv
    | none =>
      match o.pages.find? fun p => p.vals.isNone with
      | some r => (s.wantNext o ls).readFetched o r
      | none => if o.pages.length < n then s.wantNext o ls else fin s (o.fetched n)

/-! ### Arithmetic (R342 to R345) -/

/-- R343: dexp2x. -/
def dexp2x (x : Nat) : Nat :=
  if f32.isNan x then 0x7FC00000
  else if f32.isInf x then (if f32.sign x then 0 else x)
  else (dexp2 false x).1

/-- A binary32 pattern rounded to BF16. -/
def toBf16 (x : Nat) : Nat := ((f32.toVal x).deliver bf16 0 false).1

/-- A BF16 pattern as binary32. -/
def ofBf16 (x : Nat) : Nat := x * 2 ^ 16

def sub32 (x y : Nat) : Nat := (fpSub f32 0 false x y).1
def mul32 (x y : Nat) : Nat := (fpMul f32 0 false x y).1
def max32 (x y : Nat) : Nat := (fpMinNum f32 true x y).1

/-- −∞ and 1.0 as binary32. -/
def negInf : Nat := 0xFF800000
def one32 : Nat := 0x3F800000

/-- R203: the pairwise tree of binary32 sums. -/
def tree32 : Nat → List Nat → Nat
  | 0, xs => xs.headD 0
  | k + 1, xs => add32 (tree32 k (xs.take (2 ^ k))) (tree32 k (xs.drop (2 ^ k)))

/-- The element of row r, column j of a tile pair or of successive tiles. -/
def State.tileAt (s : State) (o : EngOp) (tile r j : Nat) : Nat := (s.accGet o.core o.gid (accIdx (tile + j / 128) r (j % 128))).toNat

def State.tilePut (s : State) (o : EngOp) (tile r j v : Nat) : State := s.accSet o.core (accIdx (tile + j / 128) r (j % 128)) (BitVec.ofNat 32 v)

/-- R342: query row i as BF16 values. -/
def State.queryRow (s : State) (o : EngOp) (tile r d : Nat) : List Nat := (List.range d).map fun k => toBf16 (s.tileAt o tile r k)

/-- R343: the score of entry e of list page p for query row i. -/
def scoreOf (b : List Word) (i _p e : Nat) (q : List NVal) (pr : PageRead) : Nat :=
  let base := bw b 4 % 2 ^ 32
  let g := bw b 4 / 2 ^ 32
  if pr.desc.valid ≤ e then negInf
  else if base ≠ 0xFFFFFFFF ∧ base + i / g < 32 * pr.desc.pos + e then negInf
  else
    let col := ((pr.vals.getD []).getD e []).map bf16.toVal
    if q.any NVal.flagged ∨ col.any NVal.flagged then 0x7FC00000
    else mul32 (passElem 8 (dimOf (attDim b)) false false q col).toNat (bw b 3 % 2 ^ 32)

/-- R343: α, given the old and the new maximum. -/
def alphaOf (mo mn : Nat) : Nat := if mo = negInf ∧ mn ≠ negInf then 0 else if mn = negInf then one32 else dexp2x (sub32 mo mn)

/-- R343: a query row of `atts`. -/
def State.scoreRow (s : State) (o : EngOp) (x : Ext) (ps : List PageRead) (i : Nat) : State :=
  let b := o.vals
  let r := attOrg b + i
  let q := (s.queryRow o (attQt b) r (dimOf (attDim b))).map bf16.toVal
  let sc := (ps.mapIdx fun p pr => (List.range 32).map fun e => scoreOf b i p e q pr).flatten
  let mo := if x.mb 23 then negInf else s.tileAt o (attSt b) r 0
  let lo := if x.mb 23 then 0 else s.tileAt o (attSt b) r 1
  let mn := max32 mo (sc.tail.foldl max32 (sc.headD negInf))
  let alpha := alphaOf mo mn
  let ks := sc.map fun v => if v = negInf then 0 else ofBf16 (toBf16 (dexp2x (sub32 v mn)))
  let sum := (List.range ps.length).foldl (fun a p => add32 a (tree32 5 ((ks.drop (32 * p)).take 32))) 0
  let c := bw b 1 / 2 ^ 48 % 2 ^ 8
  let s1 := (((s.tilePut o (attSt b) r 0 mn).tilePut o (attSt b) r 1 (add32 (mul32 lo alpha) sum)).tilePut o (attSt b) r 2 alpha).tilePut o (attSt b) r (16 + c) mn
  (ks.zipIdx).foldl (fun s e => s.tilePut o (attSb b) r e.2 e.1) s1

/-- R344: a row of `attv`. -/
def State.valueRow (s : State) (o : EngOp) (ps : List PageRead) (i : Nat) : State :=
  let b := o.vals
  let r := attOrg b + i
  let n := 32 * attPages b
  let p := (List.range n).map fun k => bf16.toVal (toBf16 (s.tileAt o (attSb b) r k))
  let alpha := s.tileAt o (attSt b) r 2
  (List.range (dimOf (attDim b))).foldl (fun s1 j =>
    let col := (ps.map fun pr => (List.range 32).map fun e =>
      if pr.desc.valid ≤ e then NVal.fin { neg := false, m := 0, e := 0 } else bf16.toVal (((pr.vals.getD []).getD e []).getD j 0)).flatten
    let acc := (passElem 8 n false false p col).toNat
    s1.tilePut o (attOt b) r j (if alpha = 0 then acc else add32 (mul32 (s.tileAt o (attOt b) r j) alpha) acc)) s

/-- R345: an entry's probability: finite, or infinite of a sign. -/
def probOf (p l w : Nat) : NVal :=
  let zero : NVal := .fin { neg := false, m := 0, e := 0 }
  if f32.isZero p || f32.isNan p || f32.isNan l || f32.isInf l || f32.sign l || f32.isZero l || f32.isNan w then zero
  else if f32.isInf p || f32.isInf w then (if f32.isZero w then zero else .inf (f32.sign p))
  else f32.toVal (deliver f32 0 false (exactDiv 40 ((f32.val p).mul (f32.val w)) (f32.val l))).1

/-- R345: the deposit of a mass. -/
def depositOf (ps : List NVal) : Nat :=
  let pos := ps.any fun v => v == .inf false
  let neg := ps.any fun v => v == .inf true
  if neg then 0
  else if pos then 0xFFFF
  else
    let t := exactSum 0 (ps.map fun v => v.exact false)
    if t.neg ∨ t.m = 0 then 0 else min 0xFFFF (roundAt 0 { t with e := t.e + 12 } 0).1

/-- R345: the mass of a list page. -/
def State.massOf (s : State) (o : EngOp) (p : Nat) : Nat :=
  let b := o.vals
  let c := bw b 1 / 2 ^ 48 % 2 ^ 8
  depositOf ((List.range (attRows b)).flatMap fun i =>
    let r := attOrg b + i
    let l := s.tileAt o (attSt b) r 1
    let w := dexp2x (sub32 (s.tileAt o (attSt b) r (16 + c)) (s.tileAt o (attSt b) r 0))
    (List.range 32).map fun e => probOf (s.tileAt o (attSb b) r (32 * p + e)) l w)

/-- R345: a deposit at the home slice; to a free page it is dropped. -/
def State.deposit (s : State) (lpn dep : Nat) : State :=
  let d := s.desc lpn
  if d.free then s else s.setDesc lpn { d with dep := min 0xFFFF (d.dep + dep) }

/-- R345: `.norm`. -/
def State.normalise (s : State) (o : EngOp) : State :=
  let b := o.vals
  (List.range (attRows b)).foldl (fun s1 i =>
    let r := attOrg b + i
    let l := s.tileAt o (attSt b) r 1
    (List.range (dimOf (attDim b))).foldl (fun s2 j =>
      s2.tilePut o (attOt b) r j (if l = 0 then 0 else (fpDiv f32 0 false (s.tileAt o (attOt b) r j) l).1)) s1) s

/-- R345: `attf` goes on by one deposit, and ends with the normalisation. -/
def State.advanceAttf (s : State) (o : EngOp) (x : Ext) : State :=
  let b := o.vals
  if x.mb 24 && o.data.isEmpty then s.readList o (b.getD 0 0) (attPages b)
  else if x.mb 24 && decide (o.rows < attPages b) then
    let lpn := ((o.data.headD []).getD o.rows 0).toNat
    if s.pages.count ≤ lpn then s.failOp o (BitVec.ofNat 64 lpn)
    else (s.deposit lpn (s.massOf o o.rows)).setOp o.id fun p => { p with rows := p.rows + 1 }
  else (if x.mb 23 then s.normalise o else s).setOp o.id fun p => { p with done := true }

/-! ### The Pilot (R350) -/

/-- R350: a candidate's bound. -/
def State.boundOf (s : State) (o : EngOp) (valid : Nat) (m : Summary) : Nat :=
  let b := o.vals
  let d := dimOf (selDim b)
  if m.n ≠ valid then f32.inf false
  else
    ((List.range (selRows b)).map fun i =>
      let q := (s.queryRow o (selQt b) (selOrg b + i) d).map ofBf16
      let lg := 6 + selDim b
      let dt := tree32 lg ((q.zip m.cent).map fun p => mul32 p.1 (ofBf16 p.2.toNat))
      let nq := (fpSqrt f32 0 false (tree32 lg (q.map fun v => mul32 v v))).1
      let t := if f32.isZero nq then 0 else mul32 nq m.rho.toNat
      add32 dt t).foldl (fun a v => match a with | none => some v | some u => some (max32 u v)) none |>.getD negInf

/-- R350: a candidate: bound, MASS, LPN, list index. -/
structure Cand where
  b    : Nat
  mass : Nat
  lpn  : Nat
  idx  : Nat

/-- R350: the rank of a bound: a NaN is below −∞. -/
def boundKey (b : Nat) : Int := if f32.isNan b then -(2 ^ 32) else f32.ord b

/-- R350: x comes before y. -/
def Cand.before (x y : Cand) : Bool :=
  if boundKey x.b ≠ boundKey y.b then decide (boundKey y.b < boundKey x.b)
  else if x.mass ≠ y.mass then decide (y.mass < x.mass)
  else if x.lpn ≠ y.lpn then decide (x.lpn < y.lpn)
  else decide (x.idx < y.idx)

/-- Insertion in rank order. -/
def insertCand (c : Cand) : List Cand → List Cand
  | [] => [c]
  | d :: ds => if c.before d then c :: d :: ds else d :: insertCand c ds

/-- R350: a candidate's descriptor and summary are read; the summary's count, radius and centroid are kept as its values. -/
def State.readCand (s : State) (o : EngOp) (idx lpn : Nat) : State :=
  if s.attBad lpn (selDim o.vals) false then s.failAtt o 0x08 lpn
  else
    match s.snapshot o.core lpn with
    | .free => s.failAtt o 0x08 lpn
    | .lost => s.failAtt o 0x11 lpn
    | .wait s1 => if s.inFlash lpn then s.awaitPage o lpn else s1
    | .got s1 d =>
      let m := (Sparse.find s1.pages.sums d.sumIdx).getD { n := 33, rho := 0, lpn := lpn, ver := 0, cent := [] }
      (s1.endRead lpn d.ver).setOp o.id fun p => { p with pages := p.pages ++
        [{ idx := idx, lpn := lpn, desc := d, vals := some [[m.n, m.rho.toNat], m.cent.map (·.toNat)] }] }

/-- The summary that a reading kept. -/
def PageRead.summary (p : PageRead) : Summary :=
  let v := p.vals.getD []
  { n := (v.getD 0 []).getD 0 33, rho := BitVec.ofNat 32 ((v.getD 0 []).getD 1 0), lpn := p.lpn, ver := 0, cent := (v.getD 1 []).map (BitVec.ofNat 16) }

/-- R350: `psel` goes on by one candidate, and ends with the ranking. -/
def State.advancePsel (s : State) (o : EngOp) : State :=
  let b := o.vals
  match o.data with
  | [] => s.readList o (b.getD 0 0) (selNc b)
  | l :: _ =>
    if o.pages.length < selNc b then s.readCand o o.pages.length (l.getD o.pages.length 0).toNat
    else if !(s.opRoom o ((b.getD 2 0, 4 * selK b) :: if b.getD 3 0 = 0 then [] else [(b.getD 3 0, 4 * selK b)])) then s
    else
      let cs := o.pages.map fun p => ({ b := s.boundOf o p.desc.valid p.summary, mass := p.desc.mass, lpn := p.lpn, idx := p.idx } : Cand)
      let top := (cs.foldl (fun a c => insertCand c a) []).take (selK b)
      let s1 := s.opWriteThen o (b.getD 2 0) (top.flatMap fun c => bytesOfNat 4 c.lpn) fun s =>
        if b.getD 3 0 = 0 then s else s.opWrite o (b.getD 3 0) (top.flatMap fun c => bytesOfNat 4 c.b)
      s1.setOp o.id fun p => { p with done := true }

/-- An operation of this class goes on (R348): those of the reservation table once the arbiter has let them begin. -/
def State.advanceAtt (s : State) (o : EngOp) : State :=
  if o.done ∨ (o.isAtt && !o.started) ∨ !(o.forked s) ∨ !(s.tilesClear o.core o.tiles o.id) then s
  else
    let b := o.vals
    match o.instr with
    | .atts x =>
      s.fetchStep o (attPages b) (attDim b) false fun s ps =>
        (((List.range (attRows b)).foldl (fun s i => s.scoreRow o x ps i) s).setOp o.id fun p => { p with done := true }).noteReady (o.core / 4)
    | .attv _ =>
      s.fetchStep o (attPages b) (attDim b) true fun s ps =>
        (((List.range (attRows b)).foldl (fun s i => s.valueRow o ps i) s).setOp o.id fun p => { p with done := true }).noteReady (o.core / 4)
    | .attf x => (s.advanceAttf o x).noteReady (o.core / 4)
    | .psel _ => s.advancePsel o
    | _ => s

end Sys2Proof.Machine
end

