-- ==== Sys2Proof/Machine/Prefix.lean ====
section
/-! DEFINITION. Class 0xD, prefix hashes and the Manifest (spec 15, R351 to R354). -/

namespace Sys2Proof.Machine

/-! ### `pfxh` (R351, R352) -/

/-- R351: one block of 16 tokens. -/
def prefixMix (h : Word) (ts : List Nat) : Word :=
  let h1 := ts.foldl (fun (h : Word) t =>
    let g := (h ^^^ BitVec.ofNat 64 t) * 0x8F3D6A1BC457E29B
    g ^^^ (g >>> 29)) h
  let h2 := (h1 ^^^ (h1 >>> 32)) * 0x6C1E93A52B7FD409
  h2 ^^^ (h2 >>> 31)

/-- R351: the chain value before the first block. -/
def prefixStart (salt : Word) : Word := salt ^^^ 0x3B19E7C25A8406DD

/-- R352: the words of the block. -/
def pfxhBlockOk (b : List Word) : Bool :=
  decide (bw b 0 % 4 = 0) && decide (1 ≤ bw b 1 ∧ bw b 1 ≤ 4095) && decide (bw b 3 % 8 = 0) && zeroFrom 4 b

/-- R340, R352: a quarter posts its operation. -/
def pfxhPost (x : Ext) (c : Ctx) (s : State) : QResult :=
  let b := c.block x.a
  if !(pfxhBlockOk b) then .done (c.badHandle s)
  else
    match (s.spanFault c.w 0 0 (b.getD 0 0) .read (64 * bw b 1)).orElse (fun _ => s.spanFault c.w 0 0 (b.getD 3 0) .write (8 * bw b 1)) with
    | some (cause, a) => .done (c.fault s cause c.act fun _ => a)
    | none => if !(c.slot x.d.toNat).room 1 then .later else .done (c.postOp s (.pfxh x) (some x.d.toNat) b)

def execPfxh (x : Ext) (s : State) : Out := .next (quarterOp x (.pfxh x) none (pfxhPost x) s)

/-- R352: the operation goes on by one block. -/
def State.advancePfxh (s : State) (o : EngOp) : State :=
  if o.done ∨ !(o.forked s) ∨ !(s.opRoom o [(o.vals.getD 3 0 + BitVec.ofNat 64 (8 * o.rows), 8)]) then s
  else
    match o.instr with
    | .pfxh x =>
      let b := o.vals
      let va := b.getD 0 0 + BitVec.ofNat 64 (64 * o.rows)
      let s0 := s.engNote (s.warpOfOp o) 0 va 64
      match s0.opRead o va 64 with
      | .error e => s0.endOp o (some e)
      | .ok bs =>
        let old := match o.data with
          | (h :: _) :: _ => h
          | _ => if x.mb 23 then b.getD 2 0 else prefixStart (b.getD 2 0)
        let h := prefixMix old ((chunks 4 bs 16).map natOfBytes)
        (s0.opWrite o (b.getD 3 0 + BitVec.ofNat 64 (8 * o.rows)) (bytesOfNat 8 h.toNat)).setOp o.id fun p =>
          { p with rows := p.rows + 1, data := [[h]], done := p.done || decide (bw b 1 ≤ p.rows + 1) }
    | _ => s

/-! ### The Manifest (R353) -/

/-- R353: the set of a key: the number of its first entry. -/
def manifestSet (part : Nat × Nat) (key : Word) : Nat := 4 * (part.1 + key.toNat % part.2)

def State.entry? (s : State) (k : Nat) : Option MEntry := Sparse.find s.pages.manifest k

def State.modManifest (s : State) (f : Sparse MEntry → Sparse MEntry) : State := { s with pages := { s.pages with manifest := f s.pages.manifest } }

/-- The ways of a set whose entry is valid, with their entries. -/
def State.ways (s : State) (set : Nat) : List (Nat × MEntry) := (List.range 4).filterMap fun w => (s.entry? (set + w)).map fun e => (set + w, e)

/-- The way that holds a key and a count. -/
def State.lookup (s : State) (part : Nat × Nat) (key : Word) (cnt : Nat) : Option (Nat × MEntry) :=
  (s.ways (manifestSet part key)).find? fun e => e.2.key == key && e.2.cnt == cnt

/-- R353: an entry becomes the most recent of its set. -/
def State.recent (s : State) (set k : Nat) (e : MEntry) : State :=
  s.modManifest fun m => ((s.ways set).foldl (fun m w => if w.2.age < e.age then Sparse.insert m w.1 { w.2 with age := w.2.age + 1 } else m) m).insert k { e with age := 0 }

/-- An entry leaves its set. -/
def State.dropEntry (s : State) (set k : Nat) (e : MEntry) : State :=
  s.modManifest fun m => ((s.ways set).foldl (fun m w => if e.age < w.2.age then Sparse.insert m w.1 { w.2 with age := w.2.age - 1 } else m) m).erase k

/-- A new entry, which is the most recent of its set. -/
def State.newEntry (s : State) (set k : Nat) (key : Word) (packed : Nat) : State :=
  s.recent set k { key := key, cnt := packed % 4096, rec_ := packed / 4096, pin := 0, age := (s.ways set).length }

/-- R353: the packed record of an entry. -/
def MEntry.packed (e : MEntry) : Word := BitVec.ofNat 64 (e.rec_ * 4096 + e.cnt)

/-- What one thread's action comes to. -/
abbrev PfxResult := State × LaneOut

/-- R354: the thread takes bad handle, and nothing has changed. -/
def pfxBad (s : State) : PfxResult := (s, .fault 0x08 0)

/-- R354: the greatest count at which a prefix of the hashes is held. -/
def State.longest (s : State) (part : Nat × Nat) (hs : List Word) : Nat → Option (Nat × MEntry)
  | 0 => none
  | j + 1 =>
    match s.lookup part (hs.getD j 0) (j + 1) with
    | some e => some e
    | none => s.longest part hs j

/-- R354: `pfxl` (DEDUCED, log entry 60). -/
def State.prefixLookup (s : State) (w : Warp) (part : Nat × Nat) (pin : Bool) (va n : Word) : PfxResult :=
  if n = 0 ∨ 4095 < n.toNat then pfxBad s
  else if va.toNat % 8 ≠ 0 then (s, .fault 0x03 va)
  else
    let s0 := s.engNote w 0 va (8 * n.toNat)
    match s0.engRead w 0 (pieces (8 * n.toNat)) va (8 * n.toNat) with
    | .error e => (s0, .fault e.1 e.2)
    | .ok bs =>
      match s0.longest part ((chunks 8 bs n.toNat).map fun c => BitVec.ofNat 64 (natOfBytes c)) n.toNat with
      | none => (s0, plain 0)
      | some (k, e) =>
        if pin ∧ e.pin = 255 then pfxBad s0
        else (s0.recent (k / 4 * 4) k { e with pin := if pin then e.pin + 1 else e.pin }, plain e.packed)

/-- R354: `pfxi`. -/
def State.prefixInsert (s : State) (part : Nat × Nat) (key packed : Word) : PfxResult :=
  let n := packed.toNat
  let set := manifestSet part key
  if n % 4096 = 0 ∨ n / 4096 = 0 then pfxBad s
  else
    match s.lookup part key (n % 4096) with
    | some (k, e) => (s.recent set k e, plain 1)
    | none =>
      match (List.range 4).find? fun w => (s.entry? (set + w)).isNone with
      | some w => (s.newEntry set (set + w) key n, plain 0)
      | none =>
        match ((s.ways set).filter fun (e : Nat × MEntry) => e.2.pin == 0).foldl (fun (best : Option (Nat × MEntry)) e =>
            match best with | some b => if b.2.age < e.2.age then some e else some b | none => some e) none with
        | some (k, e) => ((s.dropEntry set k e).newEntry set k key n, plain e.packed)
        | none => (s, plain 2)

/-- R354: `pfxd`. -/
def State.prefixRemove (s : State) (part : Nat × Nat) (key cnt : Word) : PfxResult :=
  if cnt = 0 ∨ 4095 < cnt.toNat then pfxBad s
  else
    match s.lookup part key cnt.toNat with
    | none => (s, plain 0)
    | some (k, e) => if e.pin ≠ 0 then (s, plain 2) else (s.dropEntry (manifestSet part key) k e, plain e.packed)

/-- R354: `pfxd.unpin`. -/
def State.prefixUnpin (s : State) (part : Nat × Nat) (key cnt : Word) : PfxResult :=
  if cnt = 0 ∨ 4095 < cnt.toNat then pfxBad s
  else
    match s.lookup part key cnt.toNat with
    | none => pfxBad s
    | some (k, e) =>
      if e.pin = 0 then pfxBad s
      else (s.modManifest fun m => Sparse.insert m k { e with pin := e.pin - 1 }, plain (BitVec.ofNat 64 (e.pin - 1)))

/-! ### The instructions of each thread -/

/-- The threads act in lane order. -/
def pfxEach (f : State → Fin 32 → PfxResult) : List (Fin 32) → State → State × Sparse LaneOut
  | [], s => (s, [])
  | i :: is, s =>
    let r := f s i
    let q := pfxEach f is r.1
    (q.1, (i.val, r.2) :: q.2)

/-- R340, R353: a quarter's instruction on the Manifest. -/
def pfxGo (x : Ext) (f : (Nat × Nat) → Ctx → State → Fin 32 → PfxResult) (c : Ctx) (s : State) : QResult :=
  match (s.launchOf c.w).bind fun (l : Launch) => l.manifest with
  | none => .done (c.badHandle s)
  | some part =>
    if !(s.storesDone c.w) then .later
    else
      .done (c.charged s x.d 32 fun s1 =>
        let r := pfxEach (f part c) (Mask.lanes c.act) s1
        let out := fun (i : Fin 32) => Sparse.find r.2 i.val
        let good := maskOf fun i => match out i with | some (.value ..) => true | _ => false
        let s2 := (r.1.writeVec c.wk x.d good 0 fun i => match out i with | some (.value v _ _ _) => v | _ => 0).bump
        [0x03, 0x04, 0x05, 0x08, 0x13].foldl (fun s cause =>
          c.fault s cause (maskOf fun i => match out i with | some (.fault k _) => k == cause | _ => false)
            fun i => match out i with | some (.fault _ a) => a | _ => 0) s2)

def execPfxl (x : Ext) (s : State) : Out :=
  .next (quarterOp x (.pfxl x) (some x.d) (pfxGo x fun part c s i => s.prefixLookup c.w part (x.mb 23) (c.reg x.a i) (c.reg x.b i)) s)
def execPfxi (x : Ext) (s : State) : Out :=
  .next (quarterOp x (.pfxi x) (some x.d) (pfxGo x fun part c s i => s.prefixInsert part (c.reg x.a i) (c.reg x.b i)) s)
def execPfxd (x : Ext) (s : State) : Out :=
  .next (quarterOp x (.pfxd x) (some x.d) (pfxGo x fun part c s i => s.prefixRemove part (c.reg x.a i) (c.reg x.b i)) s)
def execPfxdUnpin (x : Ext) (s : State) : Out :=
  .next (quarterOp x (.pfxdUnpin x) (some x.d) (pfxGo x fun part c s i => s.prefixUnpin part (c.reg x.a i) (c.reg x.b i)) s)

/-! ### Partitions (R353) -/

/-- R353: the sets of a partition hold no entry. -/
def State.clearPartition (s : State) (part : Nat × Nat) : State :=
  s.modManifest fun m => m.filter fun e => !(decide (4 * part.1 ≤ e.1) && decide (e.1 < 4 * (part.1 + part.2)))

/-- R353: a free, aligned run of sets. -/
def State.findPartition (s : State) (sets : Nat) : Option (Nat × Nat) :=
  let used := s.launches.filterMap fun l => l.2.manifest
  ((List.range (1024 / max sets 1)).map (· * sets)).findSome? fun a =>
    if used.any fun p => decide (p.1 < a + sets) && decide (a < p.1 + p.2) then none else some (a, sets)

end Sys2Proof.Machine
end

