-- ==== Sys2Proof/Machine/EngineEvents.lean ====
section
/-! DEFINITION. The engines' own steps: passes of a Gantry (spec 12, R277) and the progress of posted operations (spec 16, R363). -/

namespace Sys2Proof.Machine

/-- R277: a pass begins. -/
def execGantryPassStart (u : Nat) (s : State) : Out := .next (s.startPass u)

/-- R277, R281: the oldest pass drains. -/
def execGantryPassDrain (u : Nat) (s : State) : Out := .next (s.drainPass u)

/-- R363: an operation goes on by one row, page or entry (DESIGN CHOICE, log entry 11). -/
def State.advanceOp (s : State) (o : EngOp) : State :=
  match o.instr with
  | .pfxh _ => s.advancePfxh o
  | .atts _ | .attv _ | .attf _ | .psel _ => s.advanceAtt o
  | .accz _ | .acccp _ | .accld _ | .accst _ => s.advanceTile o
  | .tcopy _ | .tgather _ | .tscatter _ | .tfeed _ | .tfill _ | .tconv _ | .tring _ => s.advanceTender o
  | _ => s.advancePage o

/-- R467: an operation's next write into the pool is held for raw storage. -/
def State.opHeld (s : State) (o : EngOp) : Bool := !o.withdrawn && s.poolShort (s.advanceOp o)

/-- R363: an operation goes on, and finishes once its work has ended and its writes have completed. -/
def State.workOp (s : State) (id : Nat) : State :=
  match s.op? id with
  | none => s
  | some o =>
    let s1 := if o.withdrawn then s else s.poolGuard (s.advanceOp o)
    let s2 := match s1.op? id with | some p => s1.finishOp p | none => s1
    (s2.noteReady (o.core / 4)).wakeHatch

def execEngineOpFinish (id : Nat) (s : State) : Out := .next (s.workOp id)

/-- R325: the Hatch has fetched a page, or failed to: the quarters whose operations wait for no other go on. -/
def execHatchFetch (lpn : Nat) (ok : Bool) (s : State) : Out := .next (s.fetchPage lpn ok).wakeHatch

end Sys2Proof.Machine
end

