-- ==== Sys2Proof/Machine/RunGuard.lean ====
section
/-! DEFINITION. Class 0x6, register, run and guard instructions (spec 03, R83 to R94), and `vmov`'s compact form (R30). -/

namespace Sys2Proof.Machine

/-- The mask of all threads. -/
def fullMask : Mask := BitVec.allOnes 32

/-- R83: `vmov`. A register under a full active mask is mapped, not copied; nothing is looked up (R74). -/
def vmovOp (x : Ext) (o : Src) (s : State) : State :=
  issuing x s fun c s1 =>
    let op : VOp := { key := { opc := 0x0C0, a := o, dst := some x.d }, dst := .vec x.d, reuse := false, out := fun i => plain (c.src o i) }
    c.charged s1 x.d (c.elemBound x [o] x.d) fun s2 =>
      match o with
      | .reg a => if c.act = fullMask then c.advance ((c.executed s2 (refinement [c.srcRuns o] c.act)).mapReg c.wk x.d c.w.regs[a.toFin]) else c.results x op s2
      | _ => c.results x op s2

def execVmov (x : Ext) (s : State) : Out := .next (vmovOp x (if x.lsel = 1 then x.srcB else x.srcA) s)
def execVmovCompact (k : Compact) (s : State) : Out := .next (vmovOp (k.toExt 0) (.reg k.a) s)

/-- R84: the index of a thread. -/
def vsetIndex (idx widx : Nat) (i : Fin 32) : Nat :=
  match idx with
  | 0 => i
  | 1 => 32 * widx + i
  | 2 => i / 8
  | _ => i % 8

/-- R72: the identity words of a read that depends on the launch, the group and the warp. -/
def Ctx.identity (c : Ctx) (s : State) (launch group warp : Bool) : Word × Word :=
  match s.groupOf c.w with
  | some g => (if launch then BitVec.ofNat 64 g.launch else 0,
               BitVec.ofNat 64 ((if group then g.index % 2 ^ 32 else 0) + if warp then c.w.widx * 2 ^ 32 else 0))
  | none => (0, 0)

/-- R84: `vset`. An entry of another warp serves `.tid` only where it records what this warp's execution gives (DEDUCED, log entry 28). -/
def execVset (x : Ext) (s : State) : Out :=
  .next (vectorOp x (fun q =>
    { key := { opc := 0x0C1, a := x.srcA, b := x.srcB, dst := some x.d }
      dst := .vec x.d, bound := some 32
      out := fun i => plain (mapElems x.ty.toNat (fun a b _ => a + b * vsetIndex (x.m 23 2) q.w.widx i) (q.src x.srcA i) (q.src x.srcB i) 0) }) s)

/-- R85: elements of A where the mask has a 1, else of B. -/
def selElems (ty mask : Nat) (a b : Word) : Word :=
  let w := tyWidth ty
  ofElems w ((List.range (64 / w)).map fun e => if mask.testBit e then elem w a e else elem w b e)

def execVsel (x : Ext) (s : State) : Out :=
  .next (vectorOp x (fun q =>
    { key := { opc := 0x0C2, a := x.srcA, b := x.srcB, guards := if x.mb 23 then [] else [x.c.toNat], dst := some x.d }, dst := .vec x.d
      out := fun i => plain (if x.mb 23 then selElems x.ty.toNat (x.m 24 8) (q.src x.srcA i) (q.src x.srcB i)
                             else if (q.guard x.c.toNat).getLsbD i then q.src x.srcA i else q.src x.srcB i) }) s)

/-- R86: `vcoal`. A canonical source under a full mask is mapped. -/
def vcoalOp (x : Ext) (s : State) : State :=
  issuing x s fun c s1 =>
    let op : VOp := { key := { opc := 0x0C3, a := x.srcA, dst := some x.d }, dst := .vec x.d, out := fun i => plain (c.reg x.a i) }
    c.charged s1 x.d (c.elemBound x [x.srcA] x.d) fun s2 =>
      let s3 := c.results x op s2
      let r := c.w.regs[x.a.toFin]
      if c.act = fullMask ∧ runsCanonical r.runs = r.runs then s3.mapReg c.wk x.d r else s3

def execVcoal (x : Ext) (s : State) : Out := .next (vcoalOp x s)

/-- R87. -/
def runQuery (q : Nat) (rs : List Run) (i : Fin 32) : Nat :=
  match q with
  | 0 => rs.length
  | 1 => (runsCanonical rs).length
  | 2 => runsIdx rs i
  | _ => runsIdx (runsCanonical rs) i

def execVruns (x : Ext) (s : State) : Out :=
  .next (vectorOp x (fun q =>
    { key := { opc := 0x0C4, a := x.srcA, dst := some x.d }, dst := .vec x.d
      out := fun i => plain (BitVec.ofNat 64 (runQuery (x.m 23 2) q.w.regs[x.a.toFin].runs i)) }) s)

/-- R88: name, unnamed, null and reference count of a physical register. -/
def nameWord (live : List VecReg) (r : VecReg) : Word :=
  let refs := if r = VecReg.null then 0 else min (live.filter fun q => q.name == r.name).length (2 ^ 32 - 1)
  BitVec.ofNat 64 (match r.name with | .named n => n.toNat | .unnamed _ => 2 ^ 26) + (if r = VecReg.null then 2 ^ 27 else 0) + BitVec.ofNat 64 (refs * 2 ^ 32)

def execVname (x : Ext) (s : State) : Out :=
  .next (vectorOp x (fun q =>
    { key := { opc := 0x0C5, a := x.srcA, dst := some x.d }, dst := .vec x.d, reuse := false
      out := fun _ => plain (nameWord (s.liveRegs q.core) q.w.regs[x.a.toFin]) }) s)

/-- R89: the value of `vquota.get`. -/
def quotaWord (s : State) (wk : Nat) : Word :=
  match s.warp? wk with
  | none => 0
  | some w =>
    let free := s.lendableTo w wk - w.borrowed
    BitVec.ofNat 64 (w.quota % 2 ^ 16 + w.held % 2 ^ 16 * 2 ^ 16 + w.borrowed % 2 ^ 16 * 2 ^ 32 + min free (2 ^ 16 - 1) * 2 ^ 48)

/-- R89: the largest multiple of 32 up to `gap` that the lendable reserve can give back: what is declared stays, and so does what
the warps of the group borrow once this warp's quota has risen. -/
def raiseBy (lend reserve others held quota : Nat) : Nat → Nat
  | 0 => 0
  | k + 1 =>
    let d := 32 * (k + 1)
    if reserve ≤ lend - d ∧ d ≤ lend ∧ others + (held - (quota + d)) ≤ lend - d then d else raiseBy lend reserve others held quota k

/-- R89: `vquota.set`. -/
def setQuota (s : State) (wk n : Nat) : State :=
  match s.warp? wk with
  | none => s
  | some w =>
    match s.groupOf w, s.launchOf w with
    | some g, some l =>
      let lo := if 0 < w.borrowed then w.admitted else min (max 64 ((w.held + 31) / 32 * 32)) w.admitted
      let target := max lo (min (n / 32 * 32) w.admitted)
      if target < w.quota then
        (s.modGroup w.gid fun g => { g with lend := g.lend + (w.quota - target) }).modWarp wk fun w => { w with quota := target }
      else
        let d := raiseBy g.lend l.kern.reserve (s.othersBorrow w.gid wk) w.charged w.quota ((target - w.quota) / 32)
        (s.modGroup w.gid fun g => { g with lend := g.lend - d }).modWarp wk fun w => { w with quota := w.quota + d }
    | _, _ => s

/-- R89: both forms; the set form takes n from the lowest active thread and then answers as the get form. -/
def quotaOp (x : Ext) (set : Bool) (s : State) : State :=
  issuing x s fun c s1 =>
    c.charged s1 x.d (c.elemBound x (if set then [x.srcB] else []) x.d) fun s2 =>
      let s3 := match Mask.lowest c.act with
        | some i => if set then setQuota s2 c.wk (c.src x.srcB i).toNat else s2
        | none => s2
      c.results x { key := { opc := 0x0C6 }, dst := .vec x.d, reuse := false, out := fun _ => plain (quotaWord s3 c.wk) } s3

def execVquotaGet (x : Ext) (s : State) : Out := .next (quotaOp x false s)
def execVquotaSet (x : Ext) (s : State) : Out := .next (quotaOp x true s)

/-- R90: the registers of a mask, in increasing number. -/
def regsOf (m : Word) : List (BitVec 6) := ((List.range 64).filter fun n => m.getLsbD n).map (BitVec.ofNat 6)

/-- R90: `vfree`: all its writes are charged at once. -/
def vfreeOp (x : Ext) (s : State) : State :=
  issuing x s fun c s1 =>
    let ds := regsOf x.l64
    let need := (ds.map fun d => c.elemBound x [] d).sum
    let back := (ds.map fun d => c.w.cellsOf d).sum
    let missing := if c.act = fullMask ∨ c.act = 0 then 0 else (c.w.charged - back + need) - (c.w.quota + s1.lendableTo c.w c.wk)
    if missing = 0 then c.advance (ds.foldl (fun s d => s.writeVec c.wk d c.act 0 fun _ => 0) (c.executed s1))
    else c.overflow s1 missing

def execVfree (x : Ext) (s : State) : Out := .next (vfreeOp x s)

/-- A guard computed bit by bit, never reused. -/
def guardOp (opc : Nat) (x : Ext) (d : Nat) (a : Src) (f : Ctx → Fin 32 → Bool) (s : State) : State :=
  vectorOp x (fun q => { key := { opc := opc, a := a }, dst := .guard d, reuse := false, out := fun i => .value 0 (f q i) 0 0 }) s

/-- R91. -/
def execGlop (x : Ext) (s : State) : Out :=
  .next (guardOp 0x0C8 x x.d.toNat .none_ (fun q i =>
    (x.m 23 4).testBit (2 * ((q.guard x.a.toNat).getLsbD i).toNat + ((q.guard x.b.toNat).getLsbD i).toNat)) s)

/-- R92. -/
def execGtov (x : Ext) (s : State) : Out :=
  .next (vectorOp x (fun q =>
    { key := { opc := 0x0C9, guards := [x.a.toNat], dst := some x.d }, dst := .vec x.d
      out := fun i => plain (if x.mb 23 then (q.guard x.a.toNat).setWidth 64 else (BitVec.ofBool ((q.guard x.a.toNat).getLsbD i)).setWidth 64) }) s)

/-- R93. -/
def vtogTest (test k : Nat) (v : Word) : Bool :=
  match test with
  | 0 => v != 0
  | 1 => v == 0
  | 2 => v.getLsbD 63
  | _ => v.getLsbD k

def execVtog (x : Ext) (s : State) : Out :=
  .next (guardOp 0x0CA x x.d.toNat x.srcA (fun q i => vtogTest (x.m 23 2) (x.m 25 6) (q.reg x.a i)) s)

/-- R94: how many of the active threads, or of those below a thread, have their bit set. -/
def guardCount (act g : Mask) (prefix_ : Bool) (i : Fin 32) : Nat :=
  (lanes.filter fun u => act.getLsbD u && g.getLsbD u && (!prefix_ || decide (u < i))).length

def execGcnt (x : Ext) (s : State) : Out :=
  .next (vectorOp x (fun q =>
    { key := { opc := 0x0CB, guards := [x.a.toNat], dst := some x.d }, dst := .vec x.d
      out := fun i => plain (BitVec.ofNat 64 (guardCount q.act (q.guard x.a.toNat) (x.mb 23) i)) }) s)

end Sys2Proof.Machine
end

