-- ==== Sys2Proof/Machine/System.lean ====
section
/-! DEFINITION. Class 0xE, system instructions (spec 18, R406 to R416), the counters they read (R417 to R419) and the invalidation of
translations (R416). -/

namespace Sys2Proof.Machine

/-! ### `trap`, `bkpt`, `rte` -/

/-- R403, R410: the active threads are parked, to resume at the next instruction. -/
def trapOp (x : Ext) (cause : Nat) (addr : Word) (s : State) : State :=
  issuing x s fun c s1 =>
    (c.advance (c.executed s1) c.act).park c.wk { cause := cause, pc := c.pc, mask := c.act } (fun _ => addr) fun _ => c.next

def execTrap (x : Ext) (s : State) : Out := .next (trapOp x 0x0E (x.l32.setWidth 64) s)
def execBkpt (x : Ext) (s : State) : Out := .next (trapOp x 0x0F 0 s)

/-- R406, R109: `rte`; the threads of a warp that exits for good have exited once they return. -/
def rteOp (x : Ext) (s : State) : State :=
  privileged x s fun c s1 =>
    let s2 := c.rte (c.executed s1)
    if c.w.doomed then (s2.modWarp c.wk fun w => w.modThreads c.act fun _ t => { t with st := .exited }).finishWarp c.wk else s2

def execRte (x : Ext) (s : State) : Out := .next (rteOp x s)

/-! ### Counters (R414 to R418) -/

/-- R417: the positions counted so far: 16 in every cycle in which the counters run. -/
def Core.total (k : Core) (now : Nat) : Nat := k.cntBase + if k.running then 16 * (now - k.cntFrom) else 0

/-- R414, R417: a counter; the positions that no warp was charged with are Idle.empty. -/
def Core.counter (k : Core) (now n : Nat) : Nat :=
  if n = 0x1F then k.total now
  else if 0x20 ≤ n then k.evCount.toList.getD (n - 0x20) 0
  else if n = 0x13 then k.total now - ((k.leaves.toList.take 0x13).sum)
  else k.leaves.toList.getD n 0

def execCntrd (x : Ext) (s : State) : Out :=
  .next (vectorOp x (fun q =>
    { key := { opc := 0x1C5, dst := some x.d }, dst := .vec x.d, bound := some 32, reuse := false
      out := fun _ => plain (BitVec.ofNat 64 ((s.coreOf q.core).counter s.clock.cycles (x.m 23 7))) }) s)

/-- R415: an instruction on the issuing core's counters, with the lowest active thread's operand. -/
def countersOp (x : Ext) (f : Word → Nat → Core → Core) (s : State) : State :=
  privileged x s fun c s1 =>
    let s2 := c.advance (c.executed s1 (refinement [c.srcRuns x.srcB] c.act))
    match Mask.lowest c.act with
    | none => s2
    | some i => s2.modCore c.core (f (c.src x.srcB i) s2.clock.cycles)

/-- R415: an event counter takes an event. -/
def Core.select (k : Core) (n e : Nat) : Core :=
  { k with evSel := Vector.ofFn fun (i : Fin 8) => if i.val = n then (if 0x0B < e then 0 else e) else k.evSel[i] }

/-- R415: event counters are zeroed, and the leaves with the total. -/
def Core.clear (k : Core) (m : Word) (now : Nat) : Core :=
  { k with evCount := Vector.ofFn fun (i : Fin 8) => if m.getLsbD i then 0 else k.evCount[i]
           leaves := if m.getLsbD 8 then Vector.replicate 20 0 else k.leaves
           cntBase := if m.getLsbD 8 then 0 else k.cntBase
           cntFrom := if m.getLsbD 8 then now else k.cntFrom }

/-- R415: every counter stops. -/
def Core.freeze (k : Core) (now : Nat) : Core := { k with cntBase := k.total now, cntFrom := now, running := false }

/-- R415: they run on. -/
def Core.restart (k : Core) (now : Nat) : Core := if k.running then k else { k with cntFrom := now, running := true }

def execCntcfgSel (x : Ext) (s : State) : Out := .next (countersOp x (fun v _ k => k.select (x.m 25 3) v.toNat) s)
def execCntcfgClr (x : Ext) (s : State) : Out := .next (countersOp x (fun v now k => k.clear v now) s)
def execCntcfgFrz (x : Ext) (s : State) : Out := .next (countersOp x (fun _ now k => k.freeze now) s)
def execCntcfgRun (x : Ext) (s : State) : Out := .next (countersOp x (fun _ now k => k.restart now) s)

/-! ### Special registers (R41, R407, R411) -/

/-- R366: a launch's effective priority: one level more for each 100 ms for which it has waited. -/
def Launch.effPrio (l : Launch) : Nat := min 23 (l.prio + l.waited / 100000000)

/-- R407: %scells (DEDUCED, log entry 61). -/
def State.scells (s : State) (core : Nat) : Nat :=
  let pool := cellUnits (s.cellPool core) * 2048
  (pool - ((s.warpsOn core).map fun e => e.2.held).sum) + pool * 2 ^ 32

/-- R407: %squeue. -/
def State.squeue (s : State) : Nat :=
  let rung := (s.sched.lq.toList.map fun q => if q.en then (q.tail - q.head).toNat else 0).sum
  min (s.launches.filter fun e => decide (e.1 < 2 ^ 64)).length 0xFFFF + min (rung + (s.sched.posted.filter fun p => !p.host).length) 0xFFFF * 2 ^ 16

/-- R407: a word of a thread's fault record. -/
def Thread.recWord (t : Thread) (n : Nat) : Word := match t.frec with | some r => r.word n | none => 0

/-- R9: the copy of device time that a core's die keeps, as a read finds it: within 1 ns of the device's (DESIGN CHOICE, log entry 62). -/
def State.dieTime (s : State) : Nat := s.ns + Config.freeNat s.fresh % 3 - 1

/-- R9, R411: what the active threads read as device time at one instant: no less than what any of them has read before. -/
def Ctx.readTime (c : Ctx) (now : Nat) : Nat := (Mask.lanes c.act).foldl (fun n i => max n c.w.threads[i].lastTime) now

/-- R41, R407: the value of a special register in a thread. -/
def sreg (s : State) (c : Ctx) (n : Nat) (i : Fin 32) : Word :=
  let t := c.w.threads[i]
  let g := s.groupOf c.w
  let l := s.launchOf c.w
  let nat := BitVec.ofNat 64
  match n with
  | 0x00 => nat (32 * c.w.widx + i)
  | 0x01 => nat i
  | 0x02 => nat (i / 8)
  | 0x03 => nat c.w.widx
  | 0x04 => nat (match g with | some g => g.index | none => 0)
  | 0x05 => nat (match l with | some l => l.groups | none => 0)
  | 0x06 => nat (c.core / 4 + (match g with | some g => g.crewPos | none => 0) * 2 ^ 5 + (match l with | some l => if l.kern.crew = 0 then 0 else 2 ^ 7 | none => 0))
  | 0x07 => match l with | some l => l.ident | none => 0
  | 0x08 => nat c.core
  | 0x09 => nat (c.core / 32)
  | 0x0A => nat (c.readTime s.dieTime)
  | 0x0B => nat s.clock.cycles
  | 0x0C => Config.caps
  | 0x0D => nat c.w.quota
  | 0x0E => nat c.w.held
  | 0x0F => t.fsr.setWidth 64
  | 0x10 => t.isr.setWidth 64
  | 0x11 => t.lc0
  | 0x12 => t.lc1
  | 0x40 => nat t.tcause
  | 0x41 => t.recWord 0
  | 0x42 => t.recWord 1
  | 0x43 => t.recWord 2
  | 0x44 => t.recWord 3
  | 0x45 => t.epc
  | 0x46 => nat c.w.tentry
  | 0x47 => c.w.tmr
  | 0x50 => nat ((s.groupsOn c.core).length + (s.warpsOn c.core).length * 2 ^ 8)
  | 0x51 => nat (s.scells c.core)
  | 0x52 => nat s.squeue
  | 0x53 => nat (match l with | some l => l.effPrio | none => 0)
  | _ => 0

/-- R41: the registers whose reads are never reused. -/
def sregChanging (n : Nat) : Bool := !(decide (n ≤ 0x05) || n == 0x07 || n == 0x0C)

/-- R72: the identity words of a read. -/
def sregIdent (s : State) (c : Ctx) (n : Nat) : Word × Word :=
  match n with
  | 0x00 | 0x03 => c.identity s true true true
  | 0x04 => c.identity s true true false
  | 0x05 | 0x07 => c.identity s true false false
  | _ => (0, 0)

/-- R411: `movs` reads; a number from 0x40 upwards only in privileged mode (R409). -/
def movsReadOp (x : Ext) (s : State) : State :=
  let n := x.m 23 7
  let op := fun (q : Ctx) =>
    ({ key := { opc := 0x1C2, dst := some x.d, ident := sregIdent s q n }, dst := .vec x.d, bound := some 32, reuse := !sregChanging n
       out := fun i => plain (sreg s q n i) } : VOp)
  if 0x40 ≤ n then privileged x s fun c s1 => c.charged s1 x.d 32 (c.results x (op c))
  else if n = 0x0A then
    issuing x s fun c s1 => c.charged s1 x.d 32 fun s2 =>
      ((c.results x (op c) s2).modWarp c.wk fun w => w.modThreads c.act fun _ t => { t with lastTime := c.readTime s.dieTime }).bump
  else vectorOp x op s

def execMovsRead (x : Ext) (s : State) : Out := .next (movsReadOp x s)

/-- R411: what a write of a register leaves. -/
def Thread.setSreg (t : Thread) (n : Nat) (v : Word) : Thread :=
  match n with
  | 0x0F => { t with fsr := fsrWrite t.fsr v }
  | 0x10 => { t with isr := isrWrite v }
  | 0x11 => { t with lc0 := v }
  | 0x12 => { t with lc1 := v }
  | 0x45 => { t with epc := v }
  | _ => t

/-- R411: `movs` writes, in each active thread. -/
def movsWriteOp (x : Ext) (s : State) : State :=
  issuing x s fun c s1 =>
    (c.advance (c.executed s1 (refinement [c.srcRuns x.srcB] c.act))).modWarp c.wk fun w => w.modThreads c.act fun i t => t.setSreg (x.m 23 7) (c.reg x.b i)

def execMovsWrite (x : Ext) (s : State) : Out := .next (movsWriteOp x s)

/-- R412: `movsp`. -/
def movspOp (x : Ext) (s : State) : State :=
  privileged x s fun c s1 =>
    let n := x.m 23 7
    let s2 := c.advance (c.executed s1 (refinement [c.srcRuns x.srcB] c.act))
    match Mask.lowest c.act with
    | none => s2
    | some i0 =>
      if n = 0x47 then s2.modWarp c.wk fun w => { w with tmr := c.reg x.b i0 }
      else s2.modWarp c.wk fun w => w.modThreads c.act fun i t => t.setSreg n (c.reg x.b i)

def execMovsp (x : Ext) (s : State) : Out := .next (movspOp x s)

/-! ### `logrec` (R413) -/

def logrecOp (x : Ext) (s : State) : State :=
  privileged x s fun c s1 =>
    let s2 := c.advance (c.executed s1 (refinement [c.srcRuns x.srcA, c.srcRuns x.srcB] c.act))
    match Mask.lowest c.act with
    | none => s2
    | some i =>
      let grp := match s.groupOf c.w with | some g => g.index % 2 ^ 16 | none => 0
      if Config.hasTrace then
        { s2 with trace := s2.trace.post { kind := 1, tag := x.l32.toNat % 2 ^ 16, core := c.core, warp := c.w.widx, group := grp, time := s.ns
                                           d0 := c.reg x.a i, d1 := c.reg x.b i } }
      else s2

def execLogrec (x : Ext) (s : State) : Out := .next (logrecOp x s)

/-! ### Translations removed (R416, R421) -/

/-- R421: the unit leaves its page: the next one follows, page 0 after the last with WRAP, and otherwise the unit stops. -/
def Trace.leavePage (t : Trace) : Trace :=
  if t.page < t.npg then { t with page := t.page + 1, slot := 0, cur := none }
  else if t.wrap then { t with page := 0, slot := 0, cur := none }
  else { t with en := false, cur := none }

/-- The translation covers an address. -/
def TlbEntry.covers (e : TlbEntry) (va : Word) : Bool := decide (e.va ≤ va.toNat ∧ va.toNat < e.va + 2 ^ e.log2)

/-- R416: the translations that an invalidation removes: none of the scheduler's own (R213, R361). -/
def State.removed (s : State) (gone : TlbEntry → Bool) : List TlbEntry := s.mem.tlb.filter fun e => !e.fixed && gone e

/-- The translation leads to an address. -/
def TlbEntry.leadsTo (e : TlbEntry) (t : Target) (pa : Nat) : Bool := e.tgt == t && decide (e.pa ≤ pa ∧ pa < e.pa + 2 ^ e.log2)

/-- R416: the requests on their way that have used some translations. -/
def State.usersOf (s : State) (es : List TlbEntry) : List Nat :=
  (s.mem.reqs.filter fun r => r.space == 0 && r.stage == .posted && r.accs.any fun a => es.any fun e => e.leadsTo r.tgt a.pa).map (·.id)

/-- R271, R416: a watch whose translation has been removed reads again, at the place that its address has now. -/
def State.rewatch (s : State) (es : List TlbEntry) : State :=
  let again := fun (w : Watch) =>
    if w.space == 0 && es.any (fun e => e.covers w.va) then
      match s.resolve w.va .read with
      | .ok (t, pa) => { w with tgt := t, pa := pa, notified := true, flt := none }
      | .error cause => { w with notified := true, flt := some cause }
    else w
  { s with mem := { s.mem with watches := s.mem.watches.map again } }

/-- R416: translations are removed; the trace unit's pin moves on, and watches find their places anew. -/
def State.invalidate (s : State) (gone : TlbEntry → Bool) : State :=
  let pinned := match s.trace.cur with
    | some _ => match s.cached (BitVec.ofNat 64 s.trace.curVa) with | some e => !e.fixed && gone e | none => false
    | none => false
  ({ s with mem := { s.mem with tlb := s.mem.tlb.filter fun e => e.fixed || !gone e }
            trace := if pinned then s.trace.leavePage else s.trace } : State).rewatch (s.removed gone)

/-- R416: once its threads' earlier writes have completed, the set removes the translations, and waits until the accesses that may
have used them have been performed (DEDUCED, log entry 110). -/
def tlbinvOp (x : Ext) (gone : Ctx → TlbEntry → Bool) (s : State) : State :=
  privileged x s fun c s1 =>
    let ready := (Mask.lanes c.act).all fun i => s.writesBack c.w.gid c.w.widx i true && s.timePasses c.w.threads[i].farH
    if c.act = 0 then c.advance (c.executed s1)
    else if !ready then s
    else (c.hold ((c.executed s1).invalidate (gone c)) c.set fun _ => .tlbinv (s1.usersOf (s1.removed (gone c)))).wakeInvalidated c.wk

def execTlbinvVa (x : Ext) (s : State) : Out := .next (tlbinvOp x (fun c e => (Mask.lanes c.act).any fun i => e.covers (c.ea x i)) s)
def execTlbinvAll (x : Ext) (s : State) : Out := .next (tlbinvOp x (fun _ _ => true) s)

/-- R427: a write to TT_INV removes every translation. -/
def execTtInv (s : State) : Out := .next (s.invalidate fun _ => true)

end Sys2Proof.Machine
end

