-- ==== Sys2Proof/Machine/SaveArea.lean ====
section
/-! DEFINITION. The save area of a group (spec 16, R372): how its sections stand in bytes (03, R79, R80; 10, R237; 11, R270; 12, R293; 13,
R309), and how they are read back over the copy that is kept of what they do not hold (DEDUCED, log entry 19). -/

namespace Sys2Proof.Machine

/-! ### Bytes -/

def zeros (n : Nat) : List Byte := List.replicate n 0

/-- Rounded up to a multiple of 64. -/
def pad64 (n : Nat) : Nat := (n + 63) / 64 * 64

/-- Bytes followed by zeros up to a multiple of 64. -/
def padTo (bs : List Byte) : List Byte := bs ++ zeros (pad64 bs.length - bs.length)

def bytes1 (n : Nat) : List Byte := bytesOfNat 1 n
def bytes2 (n : Nat) : List Byte := bytesOfNat 2 n
def bytes4 (n : Nat) : List Byte := bytesOfNat 4 n
def bytes8 (n : Nat) : List Byte := bytesOfNat 8 n

/-- A field of some bytes: width, offset. -/
def field (bs : List Byte) (n off : Nat) : Nat := natOfBytes ((bs.drop off).take n)

def fieldW (bs : List Byte) (off : Nat) : Word := BitVec.ofNat 64 (field bs 8 off)

/-- What follows an offset, up to a size. -/
def part (bs : List Byte) (off n : Nat) : List Byte := (bs.drop off).take n

/-- All of some values, or none. -/
def allSome {α : Type} : List (Option α) → Option (List α)
  | [] => some []
  | none :: _ => none
  | some a :: as => (allSome as).map (a :: ·)

/-! ### Warp blocks (R79, R80) -/

/-- R79: a thread's state byte (DEDUCED, log entry 73). -/
def TState.code : TState → Nat
  | .ready => 0 | .exited => 1 | .parked => 2 | .waiting (.sleep _) _ => 0 | .waiting _ _ => 3

/-- R96: where a thread goes on: a sleeping one after its `sleep`. -/
def Thread.savedPc (t : Thread) : Word := match t.st with | .waiting (.sleep _) next => next | _ => t.pc

/-- R79: a thread block. -/
def Thread.block (t : Thread) : List Byte :=
  let w := fun (v : Word) => bytes8 v.toNat
  w t.savedPc ++ w t.lc0 ++ w t.lc1 ++ w t.reload ++ bytes4 t.fsr.toNat ++ bytes4 t.isr.toNat ++ bytes1 t.st.code
    ++ bytes1 t.rstack.length ++ bytes1 t.privl.toNat ++ zeros 5 ++ w t.spill ++ zeros 8
    ++ t.rstack.reverse.flatMap w ++ zeros (8 * (16 - t.rstack.length))

/-- R79: a register record. -/
def VecReg.record (r : VecReg) (n : Nat) : List Byte :=
  let k := r.runs.length
  bytes1 n ++ bytes1 k ++ zeros 6 ++ r.runs.flatMap (fun q => bytes1 q.count) ++ zeros ((8 - k % 8) % 8)
    ++ r.runs.flatMap fun q => bytes8 q.value.toNat

/-- R79: a warp block that holds every register that is not null, with the bytes of its slots, and the cells that the warp held and borrowed. -/
def Warp.block (w : Warp) (slots : List Nat) (quota held borrowed : Nat) : List Byte :=
  let regs := ((List.range 64).filter fun n => w.regs[Fin.ofNat 64 n].runs != VecReg.null.runs).map fun n => w.regs[Fin.ofNat 64 n].record n
  padTo (bytes1 w.widx ++ bytes1 regs.length ++ bytes2 quota ++ bytes4 held ++ bytes4 borrowed ++ zeros 4
    ++ slots.flatMap bytes1 ++ bytes8 (pad64 (0x1860 + (regs.map List.length).sum))
    ++ w.guards.toList.flatMap (fun g => bytes4 g.toNat) ++ w.threads.toList.flatMap Thread.block ++ regs.flatten)

/-- R372: the bytes of a warp's slots. -/
def State.slotBytes (s : State) (core : Nat) (w : Warp) : List Nat :=
  (List.range 8).map fun k => (w.slots[Fin.ofNat 8 k]).byte (s.reposted w core k)

/-- R4, R79, R80: the thread that a block holds, over the one that is kept, whose wait a commit may have ended since (R388); none where a field
lies outside its range, and reserved bits are zero. -/
def Thread.fromBlock (t : Thread) (bs : List Byte) : Option Thread :=
  let code := field bs 1 0x28
  let depth := field bs 1 0x29
  if 3 < code ∨ 16 < depth ∨ 1 < field bs 1 0x2A ∨ 4 < fsrRmode (BitVec.ofNat 32 (field bs 4 0x20)) then none
  else some
    { t with
      pc := if code = 3 ∧ t.waits.isNone then t.pc else fieldW bs 0x00
      lc0 := fieldW bs 0x08, lc1 := fieldW bs 0x10, reload := fieldW bs 0x18
      fsr := BitVec.ofNat 32 (field bs 4 0x20) &&& fsrFields, isr := BitVec.ofNat 32 (field bs 4 0x24) &&& isrFields, privl := field bs 1 0x2A == 1, spill := fieldW bs 0x30
      rstack := ((List.range depth).map fun k => fieldW bs (0x40 + 8 * k)).reverse
      st := if code = 1 then .exited else if code = 3 ∧ t.waits.isSome then t.st else .ready }

/-- R79, R80: the runs of a record, if their counts sum to 32. -/
def runsFrom (bs : List Byte) : Option (List Run) :=
  let n := field bs 1 1
  let rs := (List.range n).map fun k => { value := fieldW bs (8 + (n + 7) / 8 * 8 + 8 * k), count := field bs 1 (8 + k) : Run }
  if n = 0 ∨ 32 < n ∨ (rs.map (·.count)).sum ≠ 32 ∨ rs.any (fun r => r.count == 0) then none else some rs

/-- R79: register records, one after the other. -/
def regsFrom : Nat → List Byte → Option (Sparse (List Run))
  | 0, _ => some []
  | k + 1, bs =>
    let n := field bs 1 1
    if 63 < field bs 1 0 then none
    else
      match runsFrom bs, regsFrom k (bs.drop (8 + (n + 7) / 8 * 8 + 8 * n)) with
      | some rs, some m => some (Sparse.insert m (field bs 1 0) rs)
      | _, _ => none

/-- R372: a slot as its byte gives it, over the one that is kept, with the operations that records repost; none where the byte is out of
range. What a child's end recorded on a slot that is still armed the area does not hold. -/
def Slot.fromByte (k : Slot) (b back : Nat) : Option Slot :=
  let low := b % 64
  match b / 64 with
  | 1 => some { k with st := .armed, count := low + back, errCode := if 0x3E ≤ k.errCode then k.errCode else 0 }
  | 3 => if low = 0 ∨ back ≠ 0 then none else some { k with st := .error, count := 0, errCode := low }
  | n => if low ≠ 0 ∨ back ≠ 0 then none else some { k with st := if n = 0 then .idle else .complete, count := 0, errCode := 0 }

/-- R79: the sizes of register records, one after the other. -/
def regBytes : Nat → List Byte → Nat
  | 0, _ => 0
  | k + 1, bs =>
    let n := 8 + (field bs 1 1 + 7) / 8 * 8 + 8 * field bs 1 1
    n + regBytes k (bs.drop n)

/-- R79, R80: the fields of a warp block lie in their ranges. -/
def blockFieldsOk (w : Warp) (bs : List Byte) : Bool :=
  let quota := field bs 2 2
  field bs 1 0 == w.widx && decide (field bs 1 1 ≤ 64) && decide (64 ≤ quota ∧ quota ≤ 2048 ∧ quota % 32 = 0) && decide (field bs 4 4 ≤ 2048 ∧ field bs 4 8 ≤ 2048)
    && field bs 8 0x18 == pad64 (0x1860 + regBytes (field bs 1 1) (bs.drop 0x1860))

/-- R79, R80, R372: the warp that a block holds, with the operations that records repost on its slots; none where a field lies outside its range. -/
def Warp.fromBlock (w : Warp) (back : Nat → Nat) (bs : List Byte) : Option Warp :=
  if !(blockFieldsOk w bs) then none
  else
    match regsFrom (field bs 1 1) (bs.drop 0x1860), allSome ((List.finRange 32).map fun i => w.threads[i].fromBlock (part bs (0x60 + 192 * i.val) 192)),
        allSome ((List.finRange 8).map fun i => (w.slots[i]).fromByte (field bs 1 (0x10 + i.val)) (back i.val)) with
    | some regs, some ts, some ks => some
        { w with
          slots := Vector.ofFn fun (i : Fin 8) => ks.getD i w.slots[i]
          quota := field bs 2 2, admitted := field bs 2 2
          regs := Vector.ofFn fun (i : Fin 64) => match Sparse.find regs i.val with | some rs => { runs := rs, name := .unnamed 0 } | none => VecReg.null
          guards := Vector.ofFn fun (i : Fin 16) => BitVec.ofNat 32 (field bs 4 (0x20 + 4 * i.val))
          threads := Vector.ofFn fun i => ts.getD i w.threads[i] }
    | _, _, _ => none

/-- The warps that the blocks hold, with what follows them. -/
def warpsFrom (back : Warp → Nat → Nat) : List Warp → List Byte → Option (List Warp × List Byte)
  | [], bs => some ([], bs)
  | w :: ws, bs =>
    match w.fromBlock (back w) bs, warpsFrom back ws (bs.drop (field bs 8 0x18)) with
    | some v, some r => some (v :: r.1, r.2)
    | _, _ => none

/-! ### Rings and barriers (R237, R270) -/

/-- R237: a ring's record. -/
def ringRecord (r : Option Ring) : List Byte :=
  match r with
  | none => bytes4 0xFFFFFFFF ++ zeros 156
  | some r =>
    bytes4 r.off ++ bytes2 r.slots ++ bytes2 (r.size / 32) ++ bytes2 r.free ++ bytes2 r.full ++ bytes2 r.wr ++ bytes2 r.wc ++ bytes2 r.rd ++ bytes2 r.rc
      ++ bytes2 r.np ++ bytes2 r.nr ++ zeros 8
      ++ (List.range 128).flatMap fun k => bytes1 (((List.range 8).filter fun j => r.done.contains (8 * k + j)).map (2 ^ ·)).sum

/-- R234, R237: the ring that a record holds: none, or one whose fields lie in their ranges, with counts that make up its slots. -/
def ringFrom (scratch : Nat) (bs : List Byte) : Option (Option Ring) :=
  let n := field bs 2 4
  let f := fun k => field bs 2 k
  if field bs 4 0 = 0xFFFFFFFF then some none
  else if !(ringFits scratch (field bs 4 0) n (32 * f 6)) ∨ f 8 + f 0xA + f 0x14 + f 0x16 ≠ n ∨ n ≤ f 0xC ∨ n ≤ f 0xE ∨ n ≤ f 0x10 ∨ n ≤ f 0x12 then none
  else some (some
    { off := field bs 4 0, slots := n, size := 32 * f 6, free := f 8, full := f 0xA, wr := f 0xC, wc := f 0xE, rd := f 0x10, rc := f 0x12, np := f 0x14
      nr := f 0x16, done := (List.range n).filter fun k => (field bs 1 (0x20 + k / 8)).testBit (k % 8) })

/-- R270: a barrier's record. -/
def Barrier.record (b : Barrier) : List Byte := bytes8 b.phase ++ bytes2 b.arrived ++ bytes2 b.count ++ zeros 4

def Barrier.fromRecord (b : Barrier) (bs : List Byte) : Barrier := { b with phase := field bs 8 0, arrived := field bs 2 8, count := field bs 2 0xA }

/-! ### The Gantry's section (R293) -/

/-- R293: a stream's record. -/
def GStream.record (q : GStream) (sn : Nat) : List Byte :=
  let body := (q.segs.flatMap fun g => bytes4 g.pos ++ bytes1 g.uses ++ zeros 11) ++ q.segs.flatMap fun g => padTo g.rows.flatten
  padTo (bytes1 sn ++ bytes1 q.segs.length ++ bytes2 0 ++ bytes4 q.geo.toNat ++ bytes4 q.next ++ bytes4 q.retire ++ bytes8 (pad64 (0x20 + body.length))
    ++ zeros 8 ++ body)

/-- R293: the segments of a record, from the n-th on: their images follow their entries. -/
def segsFrom (rows rowLen : Nat) (bs : List Byte) (n : Nat) : Nat → List Segment
  | 0 => []
  | k + 1 =>
    let i := n - (k + 1)
    let img := bs.drop (0x20 + 16 * n + i * pad64 (rows * rowLen))
    { pos := field bs 4 (0x20 + 16 * i), uses := field bs 1 (0x24 + 16 * i), rows := (List.range rows).map fun r => part img (r * rowLen) rowLen }
      :: segsFrom rows rowLen bs n k

/-- R293: stream records, over the streams that are kept. -/
def streamsFrom : Sparse GStream → List Byte → Option (Sparse GStream × List Byte)
  | [], bs => some ([], bs)
  | (sn, q) :: qs, bs =>
    if field bs 1 0 ≠ sn ∨ 64 < field bs 1 1 then none
    else
      let geo := BitVec.ofNat 64 (field bs 4 4)
      let segs := segsFrom (segRows sn geo) (rowBytes (geoFmt geo) (geoK geo)) bs (field bs 1 1) (field bs 1 1)
      (streamsFrom qs (bs.drop (field bs 8 0x10))).map fun r => ((sn, { q with geo := geo, next := field bs 4 8, segs := segs }) :: r.1, r.2)

/-- R293: a request's record. -/
def MmaReq.record (m : MmaReq) (pos order : Nat) : List Byte :=
  bytes1 pos ++ bytes1 m.widx ++ bytes1 m.quarter ++ bytes1 m.slot ++ bytes1 m.sa ++ bytes1 m.sb ++ bytes1 (m.acc.toNat + 2 * m.na.toNat + 4 * m.nb.toNat) ++ bytes1 0
    ++ bytes4 (m.tile + m.row0 / 8 * 2 ^ 7 + (m.m / 8 - 1) * 2 ^ 11) ++ bytes4 m.apos ++ bytes4 m.bpos ++ bytes4 order

def MmaReq.fromRecord (m : MmaReq) (bs : List Byte) : MmaReq :=
  let l32 := field bs 4 8
  let mods := field bs 1 6
  { m with widx := field bs 1 1, quarter := field bs 1 2, slot := field bs 1 3, sa := field bs 1 4, sb := field bs 1 5, acc := mods.testBit 0
           na := mods.testBit 1, nb := mods.testBit 2, tile := l32 % 128, row0 := l32 / 2 ^ 7 % 16 * 8, m := (l32 / 2 ^ 11 % 16 + 1) * 8
           apos := field bs 4 0xC, bpos := field bs 4 0x10 }

/-- R293: a record in range. -/
def reqOk (bs : List Byte) : Bool :=
  decide (field bs 1 1 < 32 ∧ field bs 1 2 < 4 ∧ field bs 1 3 < 8 ∧ field bs 1 4 < 16 ∧ 16 ≤ field bs 1 5 ∧ field bs 1 5 < 20 ∧ field bs 1 6 < 8 ∧ field bs 4 8 < 2 ^ 15)

/-! ### The Tender's section (R309, R372) -/

/-- R309: the operation code, MOD and B field of an operation. -/
def EngOp.words (o : EngOp) : Nat × Nat × Nat :=
  match o.instr.form with
  | .ext opc x => (opc, x.mod.toNat, x.b.toNat)
  | _ => (0, 0, 0)

/-- R309: an operation's record. -/
def EngOp.record (o : EngOp) (pos : Nat) : List Byte :=
  bytes1 pos ++ bytes1 o.widx ++ bytes1 o.quarter ++ bytes1 (o.slot.getD 0) ++ bytes2 o.words.1 ++ bytes2 o.words.2.1 ++ bytes1 o.words.2.2 ++ zeros 3
    ++ bytes4 (match o.instr with | .tfeed _ => 0 | _ => o.rows) ++ (List.range 8).flatMap fun k => bytes8 (o.vals.getD k 0).toNat

/-- R309: the operation that a record reposts; a `tfeed` starts its segment again. -/
def EngOp.fromRecord (o : EngOp) (bs : List Byte) : EngOp :=
  { o with widx := field bs 1 1, quarter := field bs 1 2, slot := some (field bs 1 3), rows := field bs 4 0xC
           vals := (List.range 8).map fun k => fieldW bs (0x10 + 8 * k) }

/-- R309: a record in range. -/
def opOk (o : EngOp) (bs : List Byte) : Bool :=
  decide (field bs 1 1 < 32 ∧ field bs 1 2 < 4 ∧ field bs 1 3 < 8 ∧ field bs 2 4 = o.words.1 ∧ field bs 2 6 = o.words.2.1 ∧ field bs 1 8 = o.words.2.2)

/-- R372: a slot's record: what a child's end records is no late-fault cause. -/
def Slot.record (k : Slot) : List Byte :=
  bytes2 k.conds.toNat ++ bytes1 (if k.errCode < 0x3E then k.errCode else 0) ++ bytes1 k.errQ ++ bytes4 k.rows.toNat ++ bytes4 k.segPos.toNat ++ bytes1 k.posSet.toNat ++ zeros 3
    ++ bytes8 k.errAddr.toNat ++ bytes8 k.latest

/-- R372: a slot with its record. -/
def Slot.fromRecord (k : Slot) (bs : List Byte) : Slot :=
  { k with conds := BitVec.ofNat 16 (field bs 2 0), errCode := if k.st = .armed ∧ field bs 1 2 ≠ 0 then field bs 1 2 else k.errCode, errQ := field bs 1 3
           rows := BitVec.ofNat 32 (field bs 4 4), segPos := BitVec.ofNat 32 (field bs 4 8), posSet := field bs 1 0xC == 1, errAddr := fieldW bs 0x10
           latest := field bs 8 0x18 }

/-- R80, R372: a slot's record in range. -/
def slotRecOk (bs : List Byte) : Bool := decide (field bs 1 2 < 0x3E ∧ field bs 1 3 < 4 ∧ field bs 1 0xC < 2)

/-- R363: what has finished since the save, on a slot that has been restored. -/
def Warp.endSlots (w : Warp) (es : List SlotEnd) : Warp :=
  es.foldl (fun w e => if e.widx = w.widx then w.setSlot e.slot fun k => k.finish e.time e.err else w) w

/-! ### What a save leaves (R59, R68, R80, R89) -/

/-- The safe point at an address. -/
def Launch.safeAt (l : Launch) (pc : Word) : Option SafePoint := l.safes.find? fun e => l.codeVa + BitVec.ofNat 64 e.off == pc

/-- R59, R80: the safe points at which a warp's threads have stopped; one where no safe point stands keeps everything. -/
def Warp.stops (w : Warp) (l : Launch) : List SafePoint :=
  (Mask.lanes (~~~ w.gone)).map fun i =>
    (l.safeAt w.threads[i].pc).getD { off := 0, vlive := BitVec.allOnes 64, glive := BitVec.allOnes 16, klive := BitVec.allOnes 8 }

/-- R59, R80: a warp with the registers that it saves: all of one that faulted, and of any other those in the live masks. A slot on which a
withdrawn operation counts stays armed (R293, R309). -/
def Warp.trimmed (w : Warp) (l : Launch) (back : Nat → Nat) : Warp :=
  let all := w.anyParked
  let v := (w.stops l).foldl (fun m e => m ||| e.vlive) 0
  let g := (w.stops l).foldl (fun m e => m ||| e.glive) 0
  let k := (w.stops l).foldl (fun m e => m ||| e.klive) 0
  { w with
    regs := Vector.ofFn fun (i : Fin 64) => if all || v.getLsbD i.val then w.regs[i] else VecReg.null
    guards := Vector.ofFn fun (i : Fin 16) => if all || g.getLsbD i.val then w.guards[i] else 0
    slots := Vector.ofFn fun (i : Fin 8) => if all || k.getLsbD i.val || back i.val != 0 then w.slots[i] else { w.slots[i] with st := .idle, count := 0, errCode := 0, errQ := 0, errAddr := 0 } }

/-- R68, R96, R403: a thread as a save leaves it: a parked one reissues, a sleeping one goes on, and every other waiting one waits again. Its
wait count and deferral mark begin anew (DESIGN CHOICE, log entry 64). -/
def Thread.saved (t : Thread) : Thread :=
  match t.st with
  | .parked => { t with st := .ready, pc := t.resume, frec := none, wait := 0, defer := false }
  | .waiting (.sleep _) next => { t with st := .ready, pc := next, wait := 0, defer := false }
  | _ => { t with wait := 0, defer := false }

/-- R68: the quota at resumption. -/
def Warp.quotaAfter (w : Warp) (overflow : Bool) : Nat := if overflow then min (2 * w.admitted) 2048 else w.admitted

/-- R68, R79, R80, R89, R404: a warp as a save leaves it: its quota returns to the admitted one, or after a run overflow to twice that
(DEDUCED, log entry 65). What threads wait for at a `waitv` stays outstanding. -/
def Warp.saved (w : Warp) (l : Launch) (back : Nat → Nat) (overflow : Bool) : Warp :=
  { w.trimmed l back with
    threads := Vector.ofFn fun i => w.threads[i].saved
    quota := w.quotaAfter overflow, admitted := w.quotaAfter overflow, tmr := 0, stopped := 0, stopping := false, pend := w.pend.filter (·.watch), latch := none }

/-! ### The area (R372) -/

/-- The streams of a group's owner on a cluster. -/
def State.ownStreams (s : State) (u : Nat) (g : Group) (l : Launch) : Sparse GStream :=
  (s.gantry u).streams.filter fun q => q.2.launch == g.launch && q.2.copy == g.copy && q.2.crew == crewNumber l g

/-- R20: a group, or the crew that is saved as a unit with it. -/
def State.unitOf (s : State) (gid : Nat) : List Nat := s.barrierGroups gid true

/-- The present groups of a unit. -/
def State.presentUnit (s : State) (gid : Nat) : List Nat :=
  (s.unitOf gid).filter fun i => match s.group? i with | some g => g.mode.present | none => false

/-- R270, R293: the group of a unit whose area carries what its crew shares. -/
def State.leads (s : State) (gid : Nat) : Bool :=
  ((s.unitOf gid).filter fun i => match s.group? i with | some g => (match g.mode with | .retired | .discarded => false | _ => true) | none => false).head? == some gid

/-- R309: the operations of a group that a save withdraws, in queue order. -/
def State.blockedOps (s : State) (gid : Nat) : List EngOp := s.ops.filter fun o => o.gid == gid && s.opBlocked o

/-- R293: the requests that a save withdraws, which the leading group's area holds in posting order. -/
def State.unitReqs (s : State) (gid u : Nat) : List MmaReq := if s.leads gid then (s.gantry u).table.filter fun m => (s.unitOf gid).contains m.gid else []

/-- The position of a group in its crew. -/
def State.crewPosOf (s : State) (gid : Nat) : Nat := match s.group? gid with | some g => g.crewPos | none => 0

/-- The elements of the declared tiles. -/
def accElems (l : Launch) : List Nat := (List.range (l.kern.accCount * 16384)).map (l.kern.accFirst * 16384 + ·)

/-- R372: the sections between the scratchpad's image and the accumulator's. -/
def State.midSections (s : State) (gid : Nat) (g : Group) (l : Launch) : List Byte :=
  let u := g.core / 4
  let lead := s.leads gid
  let streams := if lead then s.ownStreams u g l else []
  let reqs := s.unitReqs gid u
  let ops := s.blockedOps gid
  padTo ((List.range 16).flatMap fun q => ringRecord (Sparse.find g.rings q))
    ++ padTo (((List.range 16).flatMap fun n => (s.barrier gid false n).record)
      ++ if lead && decide (1 < l.kern.crew) then (List.range 4).flatMap fun n => (s.barrier gid true n).record else [])
    ++ padTo (bytes2 streams.length ++ bytes2 reqs.length ++ zeros 12 ++ streams.flatMap (fun e => e.2.record e.1)
      ++ (reqs.mapIdx fun k m => m.record (s.crewPosOf m.gid) k).flatten)
    ++ padTo (bytes2 ops.length ++ zeros 14 ++ ops.flatMap (fun o => o.record g.crewPos)
      ++ (s.warpsOf gid).flatMap fun e => e.2.slots.toList.flatMap Slot.record)

/-- R79, R372: a warp's block. -/
def State.warpBlock (s : State) (core : Nat) (l : Launch) (overflow : Bool) (w : Warp) : List Byte :=
  (w.trimmed l (s.reposted w core)).block (s.slotBytes core (w.trimmed l (s.reposted w core))) (w.quotaAfter overflow) w.held w.borrowed

/-- R79, R372: the save area of a group as it stands. -/
def State.saveImage (s : State) (gid : Nat) (overflow : Bool) : List Byte :=
  match s.group? gid with
  | none => []
  | some g =>
    match s.launch? g.launch with
    | none => []
    | some l =>
      let ws := (s.warpsOf gid).map (·.2)
      let blocks := ws.flatMap (s.warpBlock g.core l overflow)
      let scratch := padTo (g.scratch.bytes 0 l.kern.scratch)
      let mid := s.midSections gid g l
      let acc := (accElems l).flatMap fun e => bytes4 (s.accGet g.core gid e).toNat
      let scratchAt := 64 + blocks.length
      let accAt := scratchAt + scratch.length + mid.length
      bytes4 0x56534A46 ++ bytes2 1 ++ bytes1 overflow.toNat ++ bytes1 ws.length ++ bytes8 l.ident.toNat ++ bytes4 g.index
        ++ bytes2 ((ws.map fun w => w.quotaAfter overflow).foldl max 0) ++ bytes2 0 ++ bytes4 (ws.map Warp.borrowed).sum ++ bytes4 l.kern.scratch
        ++ bytes1 l.kern.accFirst ++ bytes1 l.kern.accCount ++ zeros 6 ++ bytes8 scratchAt ++ bytes8 accAt ++ bytes8 (accAt + acc.length)
        ++ blocks ++ scratch ++ mid ++ acc

/-- R371, R372: the size of a save area. -/
def State.saveBytes (s : State) (gid : Nat) : Nat :=
  match s.group? gid with
  | none => 0
  | some g =>
    match s.launch? g.launch with
    | none => 0
    | some l =>
      64 + ((s.warpsOf gid).flatMap fun e => s.warpBlock g.core l false e.2).length
        + pad64 l.kern.scratch + (s.midSections gid g l).length + 65536 * l.kern.accCount

/-- The bytes of an area of HBM, if they can be read. -/
def State.readArea (s : State) (pa n : Nat) : Option (List Byte) :=
  (allSome ((List.range ((n + 127) / 128)).map fun k =>
    match s.lineBad .hbm (pa + 128 * k) with
    | some 4 => none
    | some _ => some (zeros 128)
    | none => some (s.rawBytes .hbm (pa + 128 * k) 128))).map fun ls => ls.flatten.take n

/-! ### Reading it back -/

/-- What a save area holds: the group with its warps, rings and barriers, those of its crew, its streams and requests, and the withdrawn
operations and accumulator elements. -/
structure Restored where
  group : Group
  crew  : List Barrier
  ops   : List EngOp
  acc   : Sparse (BitVec 32)

/-- R80: the header of a group's area. -/
def saveHeaderOk (bs : List Byte) (g : Group) (l : Launch) : Bool :=
  field bs 4 0 == 0x56534A46 && field bs 2 4 == 1 && decide (field bs 1 6 ≤ 1) && field bs 1 7 == g.savedWarps.length && fieldW bs 8 == l.ident
    && field bs 4 0x10 == g.index && field bs 4 0x1C == l.kern.scratch && field bs 1 0x20 == l.kern.accFirst && field bs 1 0x21 == l.kern.accCount
    && field bs 8 0x38 == bs.length

/-- R270: the barriers of some records, over those that are kept. -/
def barsFrom (old : Sparse Barrier) (bs : List Byte) : Sparse Barrier :=
  (List.range 16).foldl (fun m n =>
    let b := ((Sparse.find old n).getD Barrier.init).fromRecord (part bs (16 * n) 16)
    if b = Barrier.init then Sparse.erase m n else Sparse.insert m n b) old

/-- So many words of 32 bits. -/
def words32 : Nat → List Byte → List (BitVec 32)
  | 0, _ => []
  | n + 1, bs => BitVec.ofNat 32 (field bs 4 0) :: words32 n (bs.drop 4)

/-- R80, R372: a group read back from its area, over the copy that is kept; none where a check fails. -/
def Group.fromArea (g : Group) (l : Launch) (ops : List EngOp) (back : Warp → Nat → Nat) (crewBars : List Barrier) (bs : List Byte) : Option Restored :=
  if !(saveHeaderOk bs g l) then none
  else
    match warpsFrom back g.savedWarps (bs.drop 64) with
    | none => none
    | some (ws, after) =>
      if field bs 2 0x14 ≠ (ws.map Warp.quota).foldl max 0 ∨ field bs 8 0x28 ≠ bs.length - after.length ∨ field bs 8 0x30 + 65536 * l.kern.accCount ≠ bs.length then none
      else
      let scratch := part bs (field bs 8 0x28) l.kern.scratch
      let rings := bs.drop (field bs 8 0x28 + pad64 l.kern.scratch)
      let bars := rings.drop (pad64 (16 * 160))
      let gantry := bars.drop (pad64 (16 * (16 + crewBars.length)))
      match allSome ((List.range 16).map fun q => ringFrom l.kern.scratch (part rings (160 * q) 160)), streamsFrom g.savedStreams (gantry.drop 16) with
      | some rs, some (streams, rest) =>
        let n := g.savedReqs.length
        let used := gantry.length - rest.length + 24 * n
        let tender := gantry.drop (pad64 used)
        let reqs := g.savedReqs.mapIdx fun k m => (m, part rest (24 * k) 24)
        let recs := ops.mapIdx fun k o => (o, part tender (16 + 80 * k) 80)
        let slots := fun (k : Nat) => part tender (16 + 80 * ops.length + 32 * k) 32
        if field gantry 2 0 ≠ g.savedStreams.length ∨ field gantry 2 2 ≠ n ∨ field tender 2 0 ≠ ops.length ∨ !(reqs.all fun r => reqOk r.2)
            ∨ !(recs.all fun r => opOk r.1 r.2) ∨ !((List.range (8 * ws.length)).all fun k => slotRecOk (slots k)) then none
        else some
          { group := { g with
              savedWarps := ws.mapIdx fun n w =>
                { w with slots := Vector.ofFn fun (i : Fin 8) => (w.slots[i]).fromRecord (slots (8 * n + i.val)) }.endSlots g.savedEnds
              savedEnds := [], scratch := Memory.setBytes [] 0 scratch, bars := barsFrom g.bars bars, savedStreams := streams
              rings := (rs.zipIdx.filterMap fun e => e.1.map fun r => (e.2, r)), savedReqs := reqs.map fun r => r.1.fromRecord r.2 }
            crew := crewBars.mapIdx fun k b => b.fromRecord (part bars (16 * (16 + k)) 16)
            ops := recs.map fun r => r.1.fromRecord r.2
            acc := (accElems l).zip (words32 (accElems l).length (bs.drop (field bs 8 0x30))) }
      | _, _ => none

end Sys2Proof.Machine
end

