-- ==== Sys2Proof/Machine/Stops.lean ====
section
/-! DEFINITION. Stopping: halts (spec 18, R402), handlers (R401, R403, R404), the timer (R408), and groups that are saved, flushed and
restored (03, R68, R79, R80; 12, R293; 13, R309; 16, R371, R372). -/

namespace Sys2Proof.Machine

/-! ### Status and halt -/

/-- A relaxed store of the scheduler (R362). -/
def State.devWrite (s : State) (va : Word) (bs : List Byte) : State :=
  match s.resolve va .write with
  | .ok (t, pa) => if (s.peerFault t pa).isSome then s else s.performWrite t pa bs .plain
  | .error _ => s

/-- R362, R436: a status word is written, through the home cache: a reset leaves launch records with the status last written. -/
def State.statusWrite (s : State) (va : Word) (v : Nat) : State :=
  let s1 := s.devWrite va (bytesOfNat 4 v)
  match s.resolve va .write with
  | .ok (t, pa) => s1.setMem (s1.mem.writeBack (lineKey t pa))
  | .error _ => s1

/-- R358, R362: a launch's status, with the cause of a halt, in its record. -/
def State.setStatus (s : State) (lid status cause : Nat) : State :=
  let s1 := s.modLaunch lid fun l => { l with status := status, cause := cause }
  match s1.launch? lid with
  | some l => if lid < 2 ^ 64 then s1.statusWrite (l.recVa + 0x38) (status + if status = 3 then cause * 2 ^ 8 else 0) else s1
  | none => s1

/-- The warps of a launch copy. -/
def State.warpsOfLaunch (s : State) (lid : Nat) : List (Nat × Warp) :=
  s.warps.filter fun e => match s.group? e.2.gid with | some g => g.launch == lid | none => false

/-- R402: a launch halts, in all its copies: its warps stop at their next safe points, and none of its groups is saved any more. -/
def State.haltLaunch (s : State) (lid cause : Nat) : State :=
  match s.launch? (lid % 2 ^ 64) with
  | none => s
  | some l =>
    if l.status ≠ 0 then s
    else
      let runs := s.runsOf lid
      let s1 := runs.foldl (fun s k =>
        (s.warpsOfLaunch k).foldl (fun s e => s.modWarp e.1 fun w => { w with stopping := true }) (s.modLaunch k fun l => { l with status := 3, cause := cause })) s
      let s2 := { s1 with groups := s1.groups.map fun (e : Nat × Group) =>
        (e.1, if runs.contains e.2.launch then { e.2 with mode := match e.2.mode with | .saving _ | .draining => .resident | m => m } else e.2) }
      s2.setStatus (lid % 2 ^ 64) 3 cause

/-! ### When a warp has stopped (R371, R400) -/

/-- A wait at which a warp counts as stopped: all but the holds of an acquire, a fence or an invalidation. -/
def Wait.resting : Wait → Bool
  | .acquire _ _ | .fence _ _ _ | .tlbinv _ => false
  | _ => true

/-- The threads that have come to rest. -/
def Warp.resting (w : Warp) : Mask :=
  w.stopped ||| w.which fun t => match t.st with | .parked | .exited => true | .waiting a _ => a.resting | .ready => false

/-- R371, R400: no result is outstanding but for threads that wait at a `waitv`, and every thread rests; in a handler, those that are in it. -/
def Warp.settled (w : Warp) : Bool := !w.resultsOut && (if w.handler = 0 then BitVec.allOnes 32 else w.handler) &&& ~~~ w.resting == 0

/-- R60: the action for a cause: admission has held the table to its rules. -/
def Launch.trap (l : Launch) (cause : Nat) : TrapEntry := l.traps.getD cause { action := 0, handler := 0 }

/-- R401, R404: the action for a record (DEDUCED, log entry 72). -/
def Launch.actionOf (l : Launch) (r : FaultRec) : Nat := if r.privl then 0 else (l.trap r.cause).action

/-- The records of the parked threads of a mask. -/
def Warp.records (w : Warp) (m : Mask) : List FaultRec :=
  (Mask.lanes m).filterMap fun i => if w.threads[i].isParked then w.threads[i].frec else none

/-- R403: the warp enters the handler of a cause. -/
def State.enter (s : State) (wk cause : Nat) (l : Launch) : State :=
  s.modWarp wk fun w => w.enterHandler cause (l.codeVa + BitVec.ofNat 64 (l.trap cause).handler)

/-! ### Saving (R68, R79, R80, R293, R309, R371) -/

/-- R404: the parked threads of a warp are those of a run overflow that the scheduler services. -/
def Warp.onlyOverflow (w : Warp) (l : Launch) : Bool := (w.records (BitVec.allOnes 32)).all fun r => l.actionOf r == 2

/-- R371, R404: a warp has stopped for a save. -/
def Warp.saveable (w : Warp) (l : Launch) (now : Nat) : Bool :=
  w.handler == 0 && !w.doomed && w.settled && w.onlyOverflow l && !(w.timerDue now && w.stopped != 0)

/-- R404: a timer that has not expired when a warp has stopped for a save is disarmed. -/
def State.disarm (s : State) (wk : Nat) : State :=
  match s.warp? wk with
  | none => s
  | some w =>
    match s.group? w.gid with
    | none => s
    | some g =>
      match g.mode, s.launch? g.launch with
      | .saving _, some l =>
        if w.tmr != 0 && w.handler == 0 && !w.doomed && w.settled && w.onlyOverflow l && !(w.timerDue s.ns) then s.modWarp wk fun w => { w with tmr := 0 } else s
      | _, _ => s

/-- R293, R309: nothing of the group is on its way any more but what a save withdraws. -/
def State.quiet (s : State) (gid : Nat) : Bool :=
  match s.group? gid with
  | none => false
  | some g =>
    match s.launch? g.launch with
    | none => false
    | some l =>
      let t := s.gantry (g.core / 4)
      let stuck := s.stuckIds (g.core / 4)
      (s.warpsOf gid).all (fun e => e.2.saveable l s.ns)
        && s.mem.reqs.all (fun r => !(r.gid == gid && !r.sluice && r.stage != .unacked))
        && t.passes.all (fun p => p.reqs.all fun (q : MmaReq × List (List (BitVec 32))) => q.1.gid != gid)
        && t.table.all (fun m => m.gid != gid || stuck.contains m.id)
        && s.ops.all (fun o => o.gid != gid || s.opBlocked o || stuck.contains o.id)

/-- The group's warps leave their slots. -/
def State.vacate (s : State) (gid : Nat) : State :=
  (s.warpsOf gid).foldl (fun s e => ({ s with warps := Sparse.erase s.warps e.1 }).dropNames (wkCore e.1) e.2.regs.toList) s

/-- A group's engine work is withdrawn: its requests, its streams, and its operations that wait (R293, R309; DEDUCED, log entry 117). -/
def State.withdraw (s : State) (gid : Nat) (g : Group) (streams : Sparse GStream) : State :=
  let s1 := s.modGantry (g.core / 4) fun t =>
    { t with table := t.table.filter fun m => m.gid != gid
             streams := t.streams.filter fun q => !(streams.any fun p => p.1 == q.1) }
  { s1 with ops := s1.ops.map fun (o : EngOp) =>
      if o.gid == gid then
        { o with core := Config.cores, started := false, claim := none
                 rows := match o.instr with | .tfeed _ => 0 | _ => o.rows
                 data := match o.instr with | .tfeed _ => [] | _ => o.data }
      else o }

/-- R79, R372: a quiet group is saved: its area is allocated and written, and what its engines still hold is withdrawn; none where there is
no place for the area. -/
def State.saveGroup (s : State) (gid : Nat) (overflow : Bool) : Option State :=
  match s.group? gid with
  | none => some s
  | some g =>
    match s.launch? g.launch with
    | none => some s
    | some l =>
      let u := g.core / 4
      let img := s.saveImage gid overflow
      match s.findArea img.length with
      | none => none
      | some a =>
        let ws := (s.warpsOf gid).map fun e => e.2.saved l (s.reposted e.2 g.core) overflow
        let streams := if s.leads gid then s.ownStreams u g l else []
        let reqs := s.unitReqs gid u
        let s1 := (((s.takeArea a img.length).putArea a img).vacate gid).withdraw gid g streams
        some ((s1.modCore g.core fun k => { k with acc := k.acc.filter fun e => !(decide (l.kern.accFirst * 16384 ≤ e.1 ∧ e.1 < (l.kern.accFirst + l.kern.accCount) * 16384)) }).modGroup
          gid fun g => { g with mode := .saved overflow, savedWarps := ws, savedStreams := streams, savedEnds := [], lend := l.kern.reserve, savedReqs := reqs, saveArea := some (a, img.length) })

/-- R371: the groups of a unit that is being saved are saved once all of them are quiet. -/
def State.saveUnit (s : State) (gid : Nat) : State :=
  let unit := s.unitOf gid
  let saving := fun (i : Nat) => match s.group? i with | some g => (match g.mode with | .saving _ => true | _ => false) | none => false
  let live := unit.filter fun i => match s.group? i with | some g => g.mode.present | none => false
  if live.any saving && live.all saving && live.all s.quiet then
    (live.foldl (fun (r : Option State) i => r.bind fun s =>
      match s.group? i with | some g => s.saveGroup i (match g.mode with | .saving o => o | _ => false) | none => some s) (some s)).getD s
  else s

/-- R371: a unit begins to stop for a save. -/
def State.beginSave (s : State) (gid : Nat) (overflow : Bool) : State :=
  let live := (s.unitOf gid).filter fun i => match s.group? i with | some g => g.mode.present | none => false
  (live.foldl (fun s i =>
    (s.warpsOf i).foldl (fun s e => s.modWarp e.1 fun w => { w with stopping := true }) (s.modGroup i fun g => { g with mode := .saving (overflow && i == gid) })) s).saveUnit gid

/-- R68: a run overflow is serviced, unless every warp of the group is at the largest quota. -/
def State.serviceOverflow (s : State) (wk : Nat) (lid : Nat) : State :=
  match s.warp? wk with
  | none => s
  | some w =>
    match s.group? w.gid with
    | none => s
    | some g =>
      if (s.warpsOf w.gid).all fun e => decide (2048 ≤ e.2.admitted) then s.haltLaunch lid 0x0C
      else match g.mode with | .saving _ => (s.modGroup w.gid fun g => { g with mode := .saving true }).saveUnit w.gid | _ => s.beginSave w.gid true

/-! ### The action of a warp (R400 to R404, R408) -/

/-- R401: the action for the parked threads of a warp that has stopped (DEDUCED, log entry 68). -/
def State.trapAction (s : State) (wk : Nat) : State :=
  match s.warp? wk with
  | none => s
  | some w =>
    match s.group? w.gid with
    | none => s
    | some g =>
      match s.launch? g.launch with
      | none => s
      | some l =>
        let scope := if w.handler = 0 then BitVec.allOnes 32 else w.handler
        let rs := w.records scope
        if l.status = 3 ∨ rs = [] ∨ !w.settled then s
        else
          match leastOf ((rs.filter fun r => l.actionOf r == 0).map (·.cause)), leastOf ((rs.filter fun r => l.actionOf r == 1).map (·.cause)) with
          | some cause, _ => s.haltLaunch g.launch cause
          | none, some cause => s.enter wk cause l
          | none, none => s.serviceOverflow wk g.launch

def execWarpTrapAction (wk : Nat) (s : State) : Out := .next (s.trapAction wk)

/-- R404: the parked threads of a warp have had their action taken: there are none, or the group is being saved for their run overflow. -/
def Warp.acted (w : Warp) (g : Group) (l : Launch) : Bool := !w.anyParked || (match g.mode with | .saving _ => w.onlyOverflow l | _ => false)

/-- R408: a thread that the timer brings into the handler. -/
def Thread.timed (t : Thread) (l : Launch) (m : Mask) (warp lane now : Nat) (tmr : Word) : Thread :=
  { t with safe := some (l.ordinalAt t.pc, t.pc) }.take { cause := 0x0D, pc := t.pc, mask := m } warp lane now tmr t.pc

/-- R404, R408: a warp that its expired timer has stopped takes the action for it; faults are acted on first (DEDUCED, log entry 63). Threads
parked by a run overflow that a save services enter the handler with the record that they have (R403). -/
def State.timerAction (s : State) (wk : Nat) : State :=
  match s.warp? wk with
  | none => s
  | some w =>
    match s.group? w.gid with
    | none => s
    | some g =>
      match s.launch? g.launch with
      | none => s
      | some l =>
        if l.status = 3 ∨ !w.timerDue s.ns ∨ w.handler ≠ 0 ∨ !(w.acted g l) ∨ w.stopped = 0 ∨ !w.settled then s
        else if (l.trap 0x0D).action ≠ 1 then (s.modWarp wk fun w => { w with tmr := 0 }).haltLaunch g.launch 0x0D
        else
          let m := w.stopped
          let all := m ||| w.which Thread.isParked
          (((s.modWarp wk fun w => { (w.modThreads m fun i t => t.timed l all w.widx i s.ns w.tmr) with tmr := 0 }).noteRecords wk m).enter wk 0x0D l)

def execTimerExpiry (wk : Nat) (s : State) : Out := .next (s.timerAction wk)

/-! ### The ordering-wait detector (R386) -/

/-- A wait that the detector counts. -/
def Wait.ordering : Wait → Bool
  | .value _ | .waitc _ | .bar _ _ _ | .rejoin _ | .member _ _ | .buffer _ => true
  | _ => false

/-- R386: the frontier group's threads have waited for 2^24 ns without a release. -/
def State.orderingStuck (s : State) (lid : Nat) : Option Nat :=
  match s.launch? lid with
  | none => none
  | some l =>
    match s.groupAt lid l.frontier with
    | none => none
    | some (gid, _) =>
      let ws := s.warpsOf gid
      if l.kern.cls ≠ 0 && l.status == 0 && decide (l.lastRelease + 2 ^ 24 ≤ s.ns) && ws.any (fun e => e.2.gone != BitVec.allOnes 32)
          && ws.all (fun e => (Mask.lanes (~~~ e.2.gone)).all fun i =>
            (match e.2.threads[i].waits with | some a => a.ordering | none => false) && decide (e.2.threads[i].since + 2 ^ 24 ≤ s.ns))
      then some gid else none

def execOrderingWaitDeadlock (launch : Word) (s : State) : Out :=
  .next ((s.runsOf launch.toNat).foldl (fun s k =>
    match s.orderingStuck k with
    | none => s
    | some gid => (s.warpsOf gid).foldl (fun s e => s.parkWaiting e.1 0x10 (~~~ e.2.gone) 0 fun t => t.pc) s) s)

end Sys2Proof.Machine
end

