-- ==== Sys2Proof/Machine/Admission.lean ====
section
/-! DEFINITION. Launch queues and admission (spec 16, R356 to R362, R369; 02, R57 to R61), and the end of a launch (R362, R363). -/

namespace Sys2Proof.Machine

/-! ### What the scheduler reads -/

/-- Bytes read by the scheduler, in pieces of one line; none where a piece cannot be read. -/
def State.devPieces (s : State) : Nat → Word → Nat → Option (List Byte)
  | 0, _, _ => some []
  | k + 1, va, n =>
    if n = 0 then some []
    else
      let m := min n (128 - va.toNat % 128)
      match s.resolve va .read with
      | .error _ => none
      | .ok (t, pa) =>
        if (s.peerFault t pa).isSome ∨ s.lineBad t pa = some 4 then none
        else
          let bs := if (s.lineBad t pa).isSome then List.replicate m 0 else s.rawBytes t pa m
          (s.devPieces k (va + BitVec.ofNat 64 m) (n - m)).map fun rest => bs ++ rest

def State.devRead (s : State) (va : Word) (n : Nat) : Option (List Byte) := s.devPieces (pieces n) va n

/-- R222, R224, R431: the bad lines and the failed links that such a read met are recorded. -/
def State.devNote (s : State) : Nat → Word → Nat → State
  | 0, _, _ => s
  | k + 1, va, n =>
    if n = 0 then s
    else
      let m := min n (128 - va.toNat % 128)
      let s1 := match s.resolve va .read with
        | .error _ => s
        | .ok (t, pa) =>
          match s.peerFault t pa, s.lineBad t pa with
          | some 0x13, _ => s.linkErr t
          | none, some kind => s.noteBad (pa / 128) kind (sectorMask pa m)
          | _, _ => s
      s1.devNote k (va + BitVec.ofNat 64 m) (n - m)

/-- A table's entries of n bytes, one after the other. -/
def entriesOf (bs : List Byte) (n count : Nat) : List (List Byte) := (List.range count).map fun k => part bs (n * k) n

/-! ### The rules of a code object (R57 to R61, R206), all of which its loader holds it to (DEDUCED, log entry 66) -/

/-- Bytes that are zero. -/
def blankBytes (bs : List Byte) (off n : Nat) : Bool := field bs n off == 0

/-- R57: where the sections of an object begin and end; `pats` is the size of the pattern tables with their bodies. -/
def sectionsOf (h : List Byte) (pats : Nat) : List (Nat × Nat) :=
  [(0x08, field h 4 0x0C), (0x10, 16 * field h 4 0x14), (0x18, pats), (0x20, 8 * field h 4 0x24), (0x28, field h 4 0x2C), (0x30, field h 4 0x34),
    (0x38, 192 * field h 4 0x3C)].map fun (e : Nat × Nat) => (field h 4 e.1, field h 4 e.1 + e.2)

/-- R57: the sections that hold anything follow the header, and lie apart. -/
def sectionsOk : List (Nat × Nat) → Bool
  | [] => true
  | e :: es => (e.1 == e.2 || decide (64 ≤ e.1) && es.all fun q => q.1 == q.2 || decide (e.2 ≤ q.1 ∨ q.2 ≤ e.1)) && sectionsOk es

/-- R57: the header. -/
def headerOk (h : List Byte) : Bool :=
  field h 4 0 == 0x434A5946 && field h 2 4 == 1 && blankBytes h 6 2 && (List.range 7).all (fun k => field h 4 (8 + 8 * k) % 64 == 0)
    && field h 4 0x24 == 32 * field h 4 0x3C && sectionsOk (sectionsOf h (8 * field h 4 0x1C))

/-- R59: the safe-point table of a code section: rising code offsets (R46). -/
def safesOk (codeSize : Nat) : List (List Byte) → Bool
  | [] => true
  | e :: es => blankBytes e 0x0F 1 && field e 4 0 % 4 == 0 && decide (field e 4 0 < codeSize)
    && (match es with | n :: _ => decide (field e 4 0 < field n 4 0) | [] => true) && safesOk codeSize es

/-- R60: the entry of a cause. -/
def trapOk (cause : Nat) (e : List Byte) : Bool :=
  let a := field e 1 0
  blankBytes e 1 3 && decide (a ≤ 2) && (a == 0 || decide (1 ≤ cause ∧ cause ≤ 0x15)) && (a != 2 || cause == 0x0C)

/-- R60: each kernel owns 32 consecutive entries of the trap table. -/
def trapsOwned (firsts : List Nat) : Bool := firsts.all (· % 32 == 0) && decide firsts.Nodup

/-- R61: an entry of a pattern table of `n` entries, which its body follows. -/
def patOk (kernels n : Nat) (e : List Byte) : Bool :=
  decide (field e 2 0 < kernels ∧ field e 1 2 ≤ 7 ∧ 8 * n ≤ field e 4 4) && blankBytes e 3 1

/-- R61: the size of pattern tables of `n` entries with their bodies. -/
def patsSize (n : Nat) (es : List (List Byte)) : Nat := es.foldl (fun a e => max a (field e 4 4 + 520)) (8 * n)

/-- R206: a pattern table body. -/
def bodyOk (b : List Byte) : Bool :=
  let n := 8 / 2 ^ field b 1 0
  decide (field b 1 0 ≤ 3) && blankBytes b 1 7 && (List.range 256).all fun k =>
    let e := field b 2 (8 + 2 * k)
    decide (e < 2 ^ 10) && (decide (k % 8 < n) || e == 0) && (e / 2 ^ 9 == 0 || e == 2 ^ 9) && decide (e / 2 ^ 5 % 8 < n)

/-- R58: a kernel descriptor. -/
def kernelOf (k : List Byte) : Kernel :=
  { entry := field k 4 0x00, warps := field k 1 0x08, crew := field k 1 0x09, cls := field k 1 0x0A, prio := field k 1 0x0B, quota := field k 2 0x0C
    accFirst := field k 1 0x0E, accCount := field k 1 0x0F, reserve := field k 4 0x10, scratch := field k 4 0x14, lease := field k 4 0x18
    trapFirst := field k 4 0x1C, stage := if field k 1 0x20 = 0xFF then none else some (field k 1 0x20), manifest := field k 2 0x22
    stageEntries := field k 4 0x24, stageBytes := field k 4 0x28, safeFirst := field k 4 0x2C, safeCount := field k 4 0x30
    rings := ((List.range 16).filter fun q => (field k 2 0x34).testBit q).map fun q =>
      (q, { off := field k 4 (0x40 + 8 * q), slots := field k 2 (0x44 + 8 * q), size := 32 * field k 2 (0x46 + 8 * q) }) }

/-- A descriptor whose directives lie within their limits (R55, R58; DEDUCED, log entry 66). -/
def Kernel.sane (k : Kernel) : Bool :=
  decide (1 ≤ k.warps ∧ k.warps ≤ 32) && decide (k.crew ≤ 4) && decide (k.cls ≤ 2) && decide (k.prio ≤ 23)
    && decide (64 ≤ k.quota ∧ k.quota ≤ 2048 ∧ k.quota % 32 = 0) && decide (k.reserve ≤ 65536 ∧ k.reserve % 32 = 0)
    && decide (k.scratch ≤ 786432) && decide (k.accFirst + k.accCount ≤ 128) && decide (256 ≤ k.lease ∧ k.lease ≤ 65536)
    && (match k.stage with
      | none => true
      | some i => decide (i ≤ 15 ∧ 1 ≤ k.stageEntries ∧ k.stageEntries ≤ 4096 ∧ 32 ≤ k.stageBytes ∧ k.stageBytes ≤ 65536 ∧ k.stageBytes % 32 = 0))
    && (k.manifest == 0 || [4, 8, 16, 32, 64, 128, 256, 512, 1024, 2048, 4096].contains k.manifest)
    && k.rings.all fun r => decide (1 ≤ r.2.slots ∧ r.2.slots ≤ 1024 ∧ 32 ≤ r.2.size ∧ r.2.size ≤ 65536 ∧ r.2.off % 32 = 0 ∧ r.2.off + r.2.slots * r.2.size ≤ k.scratch)

/-- R58: a descriptor of an object with these counts and this constant image. -/
def descOk (codeSize safes traps : Nat) (const : List Byte) (kb : List Byte) : Bool :=
  let k := kernelOf kb
  k.sane && blankBytes kb 0x21 1 && blankBytes kb 0x36 10 && k.entry % 4 == 0 && decide (k.entry < codeSize) && decide (k.trapFirst + 32 ≤ traps)
    && decide (k.safeFirst + k.safeCount ≤ safes) && (const.drop (field kb 4 4)).contains 0

/-- What admission reads of a code object (R57 to R61). -/
structure CodeData where
  kern     : Kernel
  codeVa   : Word
  codeSize : Nat
  safes    : List SafePoint
  traps    : List TrapEntry
  pats     : Sparse (List Byte)
  const    : List Byte
  data     : List Byte

/-- R61: the pattern tables: kernel, slot and body. R207 loads these bytes, read once at admission (DESIGN CHOICE, log entry 66). -/
def State.readPats (s : State) (base : Word) : List (List Byte) → Option (List (Nat × Nat × List Byte))
  | [] => some []
  | e :: es =>
    match s.readPats base es, s.devRead (base + BitVec.ofNat 64 (field e 4 4)) 520 with
    | some m, some body => some ((field e 2 0, field e 1 2, body) :: m)
    | _, _ => none

/-- R359: the code object at an address, if it can be read and breaks no rule. Its tables are read here, once (DESIGN CHOICE, log entry 66). Of
two pattern entries that name one slot of a kernel the later counts (DESIGN CHOICE, log entry 118). -/
def State.readCode (s : State) (va : Word) (kidx : Nat) : Option CodeData := do
  let h ← s.devRead va 64
  let at_ := fun (k : Nat) => va + BitVec.ofNat 64 (field h 4 k)
  let n := fun (k : Nat) => field h 4 k
  if !(headerOk h) || n 0x3C ≤ kidx then none
  else
    let _ ← s.devRead (at_ 0x08) (n 0x0C)
    let kb ← s.devRead (at_ 0x38) (192 * n 0x3C)
    let sp ← s.devRead (at_ 0x10) (16 * n 0x14)
    let tr ← s.devRead (at_ 0x20) (8 * n 0x24)
    let pt ← s.devRead (at_ 0x18) (8 * n 0x1C)
    let pats ← s.readPats (at_ 0x18) (entriesOf pt 8 (n 0x1C))
    let cst ← s.devRead (at_ 0x28) (n 0x2C)
    let dat ← s.devRead (at_ 0x30) (n 0x34)
    let safes := entriesOf sp 16 (n 0x14)
    let traps := entriesOf tr 8 (n 0x24)
    let k := kernelOf (part kb (192 * kidx) 192)
    if !(safesOk (n 0x0C) safes) || !((traps.mapIdx fun i e => trapOk (i % 32) e).all id) || !((entriesOf pt 8 (n 0x1C)).all (patOk (n 0x3C) (n 0x1C)))
        || !(sectionsOk (sectionsOf h (patsSize (n 0x1C) (entriesOf pt 8 (n 0x1C))))) || !(trapsOwned ((entriesOf kb 192 (n 0x3C)).map fun e => (kernelOf e).trapFirst))
        || !(pats.all fun e => bodyOk e.2.2) || !((entriesOf kb 192 (n 0x3C)).all (descOk (n 0x0C) (n 0x14) (n 0x24) cst)) then none
    else
      some { kern := k, codeVa := at_ 0x08, codeSize := n 0x0C
             safes := safes.map fun e => { off := field e 4 0, vlive := fieldW e 4, glive := BitVec.ofNat 16 (field e 2 12), klive := BitVec.ofNat 8 (field e 1 14) }
             traps := ((traps.drop k.trapFirst).take 32).map fun e => { action := field e 1 0, handler := field e 4 4 }
             pats := (pats.filter fun e => e.1 == kidx).foldl (fun m e => Sparse.insert m e.2.1 e.2.2) [], const := cst, data := dat }

/-- What the scheduler reads of a code object. -/
def State.codeRanges (s : State) (va : Word) : List (Word × Nat) :=
  (va, 64) :: match s.devRead va 64 with
    | none => []
    | some h => if !(headerOk h) then [] else
      [(0x08, 1), (0x38, 192), (0x10, 16), (0x20, 8), (0x18, 8), (0x28, 1), (0x30, 1)].map fun (e : Nat × Nat) =>
        (va + BitVec.ofNat 64 (field h 4 e.1), e.2 * field h 4 (e.1 + 4))

/-! ### Judging a record (R357 to R361) -/

/-- R358: a dependence holds; none where its object cannot be read. It holds once the release time that is read with it has passed (R252,
R365). -/
def State.depHolds (s : State) (va : Word) (v : Nat) : Option Bool :=
  if va = 0 then some true
  else
    let rel := match s.resolve va .read with | .ok (t, pa) => s.relAt t pa 8 | .error _ => 0
    (s.devRead va 8).map fun bs => decide (v ≤ natOfBytes bs) && s.timePasses rel

/-- R213: the largest page size that fits some bytes at an aligned place. -/
def pageAt (off bytes : Nat) : Nat := (((List.range 10).reverse.map pageLog2).find? fun k => off % 2 ^ k == 0 && decide (2 ^ k ≤ bytes)).getD 12

/-- R213, R361: the naturally aligned pages that map an area of whole 4 KiB. -/
def areaPages : Nat → Nat → Nat → List TlbEntry
  | 0, _, _ => []
  | fuel + 1, off, bytes =>
    if bytes = 0 then []
    else
      { va := Config.areaVa + off, log2 := pageAt off bytes, read := true, write := true, exec := false, tgt := .hbm, pa := Config.areaPa + off, fixed := true, page := 0 }
        :: areaPages fuel (off + 2 ^ pageAt off bytes) (bytes - 2 ^ pageAt off bytes)

/-- What the scheduler finds of a posted record. -/
inductive Judged where
  | wait
  | fail
  | admitted (l : Launch) (data const : List Byte) (queuePa : Nat)

/-- R359: the checks on a record's fields. -/
def recordOk (r : List Byte) (child : Bool) (k : Kernel) : Bool :=
  let groups := field r 4 0x0C
  decide (1 ≤ groups ∧ groups < 2 ^ 24) && (k.crew == 0 || groups % k.crew == 0) && decide (field r 2 0x18 ≤ 4096) && field r 4 0x3C == 0
    && decide (field r 2 0x1A ≤ 1) && (decide (field r 1 0x0B ≤ 23) || field r 1 0x0B == 0xFF)
    && (k.stage.isSome == (field r 8 0x28 != 0)) && (!child || field r 8 0 == 0) && k.sane

/-- R359, R392: the replica hardware for a strict launch. -/
def State.replicaOk (s : State) (k : Kernel) (groups : Nat) : Bool :=
  k.cls != 2 || (decide (groups ≤ 32) && Config.caps.getLsbD 3) || (Config.caps.getLsbD 4 && s.steps.sample)

/-- R359, R374: the priority that a launch gets. -/
def prioOf (r : List Byte) (k : Kernel) (p : Posted) : Nat :=
  let own := if field r 1 0x0B = 0xFF then k.prio else field r 1 0x0B
  if p.callg then p.prio else if p.host then own else min own p.prio

/-- R360: the constant space of a launch. -/
def constImage (args : List Byte) (dataVa : Word) (const : List Byte) : List Byte :=
  args ++ zeros (4096 - args.length) ++ bytes8 dataVa.toNat ++ zeros 56 ++ const

/-- R213, R361, R369: where a launch's data area, its constant image and its output queue lie; none until all have a place. -/
def State.places (s : State) (data const queue : Nat) : Option (Nat × Nat × Nat) := do
  let a ← if data = 0 then some 0 else s.findArea data
  let s1 := s.takeArea a data
  let c ← s1.findArea const
  let q ← if queue = 0 then some 0 else (s1.takeArea c const).findArea queue
  some (a, c, q)

/-- R357, R359: a posted record is judged. -/
def State.judge (s : State) (p : Posted) (r : List Byte) : Judged :=
  let deps := (List.range 4).map fun k => s.depHolds (fieldW r (0x40 + 16 * k)) (field r 8 (0x48 + 16 * k))
  if deps.any Option.isNone then .fail
  else if !(deps.all fun d => d == some true) then .wait
  else
    let obj := if p.callg then p.objVa else fieldW r 0
    match s.readCode obj (field r 2 0x08), s.devRead (fieldW r 0x10) (field r 2 0x18) with
    | some c, some args =>
      let k := c.kern
      let groups := field r 4 0x0C
      if !(recordOk r p.callg k) || !(s.replicaOk k groups) then .fail
      else
        let own := if p.callg then 0 else c.data.length
        let part := if k.manifest = 0 then none else s.findPartition (k.manifest / 4)
        match s.places own (4160 + c.const.length) (if k.stage.isSome then k.stageEntries * k.stageBytes else 0) with
        | none => .wait
        | some (a, constPa, queuePa) =>
          if k.manifest != 0 && part.isNone then .wait
          else
            let dataPa := if p.callg then p.dataPa else a
            let dataVa : Word := if p.callg then p.dataVa else if own = 0 then 0 else BitVec.ofNat 64 (Config.areaVa + (a - Config.areaPa))
            .admitted { ident := p.ident, recVa := p.recVa, kern := k, kidx := field r 2 0x08, objVa := obj, codeVa := c.codeVa, codeSize := c.codeSize, safes := c.safes
                        traps := c.traps, pats := c.pats, constPa := constPa, constSize := 4160 + c.const.length, dataVa := dataVa
                        dataPa := dataPa, dataSize := own, groups := groups, prio := prioOf r k p, lam := field r 4 0x1C
                        restartable := (field r 2 0x1A).testBit 0, compl := fieldW r 0x20, tag := fieldW r 0x28, queue := if p.callg then none else p.queue
                        parent := p.parent, poster := p.poster, status := 0, cause := 0, cancelled := false, order := s.sched.admitted, next := 0, retired := 0
                        frontier := 0, lastRelease := s.ns, waited := 0, runtimes := [], stepCount := none, counted := [], arrived := 0
                        hasArrived := false, stepping := false, commits := 0, held := false, peerDigest := none, target := 1, inQueue := none, outQueue := none
                        manifest := part, crewBars := [], resumes := [], flushed := [], solo := none, lastDone := s.ns }
              c.data (constImage args dataVa c.const) queuePa
    | _, _ => .fail

/-! ### The end of a launch (R362, R363) -/

/-- R362, R365: a completion object rises by 1, as a release RMW that carries the latest completion time of the launch's writes (R254). -/
def State.complete (s : State) (va : Word) (h : Nat) : State :=
  if va = 0 then s
  else
    match s.resolve va .write with
    | .error _ => s
    | .ok (t, pa) =>
      match s.peerFault t pa, s.lineBad t pa with
      | some 0x13, _ => s.linkErr t
      | some _, _ => s
      | none, bad =>
        let old := if bad.isSome then 0 else s.rawNat t pa 8
        (match bad with | some kind => s.noteBad (pa / 128) kind (sectorMask pa 8) | none => s).performWrite t pa (bytesOfNat 8 ((old + 1) % 2 ^ 64)) (.rmwRel h)

/-- R363: the code that a launch's end records in its slot. -/
def endCode (status : Nat) : Option (Nat × Nat × Word) := match status with | 1 => none | 4 => some (0x3E, 0, 0) | _ => some (0x3F, 0, 0)

/-- R362, R374: the object and the slot are told. -/
def State.tell (s : State) (compl : Word) (h : Nat) (poster : Option (Nat × Nat × Nat)) (status : Nat) : State :=
  match poster with
  | some (gid, widx, k) => (s.complete compl h).finishSlot gid widx k (endCode status)
  | none => s.complete compl h

/-- R361: an area is free once no launch uses it any more, and no `callg` that would use it is still to be admitted. -/
def State.freeArea (s : State) (pa : Nat) : State :=
  if pa = 0 ∨ s.launches.any (fun e => e.2.dataPa == pa) ∨ s.sched.posted.any (fun p => p.callg && p.dataPa == pa) then s
  else
    match Sparse.find s.sched.areas pa with
    | none => s
    | some n =>
      let s1 := s.dropArea pa
      { s1 with mem := { s1.mem with tlb := s1.mem.tlb.filter fun e => !(e.fixed && decide (pa ≤ e.pa) && decide (e.pa < pa + n)) } }

/-- R213, R371: the areas of a group that leaves. -/
def State.freeGroup (s : State) (gid : Nat) : State :=
  match s.group? gid with
  | none => s
  | some g =>
    match g.mode with
    | .retired | .discarded => s
    | _ =>
      let s1 := s.dropArea g.privPa
      match g.saveArea with
      | some a => s1.dropArea a.1
      | none => s1

/-- R257: the tickets that events still to be performed hold. -/
def State.liveTickets (s : State) : List Nat :=
  let fences := fun (w : Warp) => lanes.filterMap fun i => match w.threads[i].waits with | some (.fence _ _ t) => t | _ => none
  (s.mem.reqs.flatMap fun r => r.accs.filterMap fun a => a.ticket) ++ (s.groups.flatMap fun e => (e.2.staged.filterMap fun r => r.ticket) ++ e.2.savedWarps.flatMap fences)
    ++ s.warps.flatMap fun e => fences e.2

/-- R257: events that were to be performed have been discarded: their tickets hold up nothing any more. -/
def State.dropTicketsLost (s : State) : State :=
  let live := s.liveTickets
  { s with mem := { s.mem with ticketsOut := s.mem.ticketsOut.filter fun t => live.contains t
                               ticketsStaged := s.mem.ticketsStaged.filter fun e => live.contains e.1 } }

/-- The groups of a launch copy leave: their warps, what they staged and what is on its way for them. -/
def State.dropRun (s : State) (key : Nat) : State :=
  let gids := (s.groups.filter fun e => e.2.launch == key).map (·.1)
  let s1 := gids.foldl (fun s g => (s.freeGroup g).vacate g) (s.dropOps fun o => gids.contains o.gid)
  { s1 with launches := Sparse.erase s1.launches key
            groups := s1.groups.filter fun e => !(gids.contains e.1)
            images := Sparse.erase s1.images key
            qwait := s1.qwait.filter fun q => !(gids.contains q.gid)
            gantries := s1.gantries.map fun (e : Nat × Gantry) =>
              (e.1, { e.2 with table := e.2.table.filter (fun m => !(gids.contains m.gid)), streams := e.2.streams.filter (fun q => q.2.launch != key) })
            mem := { s1.mem with reqs := s1.mem.reqs.filter (fun r => r.sluice || !(gids.contains r.gid))
                                 watches := s1.mem.watches.filter fun w => !(gids.contains w.gid) } }.dropTicketsLost

/-- R258: the latest completion time of a launch's writes, in all its copies. -/
def State.runsDone (s : State) (lid : Nat) : Nat := ((s.runsOf lid).map fun k => match s.launch? k with | some l => l.lastDone | none => 0).foldl max 0

/-- R369: a stage queue is given up, with its area. -/
def State.dropQueue (s : State) (q : Nat) : State :=
  match s.stageQ? q with
  | none => s
  | some sq => let s1 := s.dropArea sq.pa; { s1 with sched := { s1.sched with stageQs := Sparse.erase s1.sched.stageQs q } }

/-- R369: a consumer of a queue has ended: the queue is given up once its producer has ended too. -/
def State.leaveStage (s : State) (q : Nat) : State :=
  match s.stageQ? q with
  | none => s
  | some sq =>
    if s.launches.any fun e => e.2.inQueue == some q then s
    else if (s.launch? sq.launch).isSome then s.setStageQ q { sq with used := true }
    else s.dropQueue q

/-- R369: the producer of a queue has ended: the queue stays for its consumers, those to come too. -/
def State.endProducer (s : State) (q : Nat) : State :=
  match s.stageQ? q with
  | none => s
  | some sq => if sq.used && s.launches.all fun e => e.2.inQueue != some q then s.dropQueue q else s.endStream q

/-- R362: a launch ends with a status: everything of it leaves, and its end is told. -/
def State.endLaunch (s : State) (lid status : Nat) : State :=
  match s.launch? lid with
  | none => s
  | some l =>
    let h := s.runsDone lid
    let s1 := s.setStatus lid status l.cause
    let s2 := (s.runsOf lid).foldl (fun s k => s.dropRun k) s1
    let s3 := ((match l.manifest with | some p => s2.clearPartition p | none => s2).dropArea l.constPa).freeArea l.dataPa
    let s4 := match l.outQueue with | some q => s3.endProducer q | none => s3
    let s5 := match l.inQueue with | some q => s4.leaveStage q | none => s4
    (s5.tell l.compl h l.poster status).wakeBuffer

/-- Every group of a launch copy has retired; of a cancelled one, every group that has been dispatched. -/
def State.runOver (s : State) (key : Nat) (l : Launch) : Bool :=
  s.groups.all (fun e => e.2.launch != key || e.2.mode == .retired || e.2.mode == .discarded)
    && (l.cancelled || decide (l.groups ≤ l.retired) || (match l.solo with | some g => (s.groupAt key g).isSome | none => false))

/-- R362: every write of a launch has completed, and its engine operations have ended. -/
def State.writesOut (s : State) (lid : Nat) : Bool :=
  let mine := fun (gid : Nat) => match s.group? gid with | some g => g.launch % 2 ^ 64 == lid | none => false
  s.mem.reqs.all (fun r => !(mine r.gid) || !r.writes) && s.ops.all (fun o => !(mine o.gid))
    && s.groups.all (fun e => e.2.launch % 2 ^ 64 != lid || e.2.staged == []) && s.timePasses (s.runsDone lid)

/-- R362: LAUNCH_END: a launch whose groups and copies are over, and whose writes have completed, ends. -/
def State.tryEnd (s : State) (lid : Nat) : State :=
  match s.launch? lid with
  | none => s
  | some l =>
    let ended := (s.runsOf lid).all fun k => match s.launch? k with | some q => s.runOver k q | none => true
    let inCommit := match s.steps.run with | some r => r.parts.contains lid | none => false
    if decide (lid < 2 ^ 64) && l.status == 0 && l.resumes.isEmpty && ended && s.writesOut lid && !inCommit then s.endLaunch lid (if l.cancelled then 4 else 1)
    else s

def execLaunchEnd (launch : Word) (s : State) : Out := .next (s.tryEnd launch.toNat)

/-! ### Posts reaching the scheduler (R357, R374) -/

/-- R258: the poster's earlier accesses let the scheduler read a posted record. -/
def State.postClear (s : State) (p : Posted) : Bool :=
  s.timePasses p.after && match p.lanes with
    | none => true
    | some (g, w, i) => s.mem.reqs.all fun r => !(decide (r.id < p.cut) && r.isOf g w i && ((r.reads && r.stage == .posted) || (r.writes && r.stage != .unacked)))

/-- R357: a post reaches the scheduler; a `launch` joins its record's queue at that moment (DEDUCED, log entry 82). -/
def State.arrivePost (s : State) (p : Posted) : State :=
  if p.arrived || !(s.postClear p) then s
  else
    let q := if p.callg then none else some (match s.devRead (p.recVa + 0x0A) 1 with | some bs => field bs 1 0 % 64 | none => 0)
    { s with sched := { s.sched with posted := s.sched.posted.filter (fun o => o.ident != p.ident) ++ [{ p with arrived := true, queue := q }] } }

def State.arrivePosts (s : State) : State := s.sched.posted.foldl (fun s p => s.arrivePost p) s

/-- R356: the doorbell (DEDUCED, log entry 67). -/
def State.ringDoorbell (s : State) (q : Nat) (tail : BitVec 32) : State :=
  let i := Fin.ofNat 64 q
  let lq := s.sched.lq[i]
  if 2 ^ lq.log2 < (tail - lq.head).toNat ∨ 2 ^ 31 ≤ (tail - lq.tail).toNat then
    { s with sched := { s.sched with lq := s.sched.lq.set i { lq with err := true } } }
  else
    let s1 := { s with sched := { s.sched with lq := s.sched.lq.set i { lq with tail := tail } } }
    (List.range (tail - lq.tail).toNat).foldl (fun s _ =>
      let r := s.nextIdent 0xFF
      { r.2 with sched := { r.2.sched with posted := r.2.sched.posted ++
          [{ ident := r.1, recVa := 0, host := true, callg := false, queue := some q, arrived := true, core := 0xFF, parent := none, poster := none
             prio := 23, objVa := 0, dataVa := 0, dataPa := 0, after := 0, cut := 0, lanes := none, cancelled := false }] } }) s1

def execLqTailDoorbell (q : Nat) (tail : BitVec 32) (s : State) : Out := .next (if s.firm.running then s.ringDoorbell q tail else s)

/-! ### Admission -/

/-- The scheduler has taken a post. -/
def State.takePost (s : State) (p : Posted) : State :=
  let s1 := { s with sched := { s.sched with posted := s.sched.posted.filter fun o => o.ident != p.ident } }
  match p.host, p.queue with
  | true, some q =>
    let i := Fin.ofNat 64 q
    { s1 with sched := { s1.sched with lq := s1.sched.lq.set i { s1.sched.lq[i] with head := s1.sched.lq[i].head + 1 } } }
  | _, _ => s1

/-- R356: the address of a post's record. -/
def State.recordVa (s : State) (p : Posted) : Word :=
  match p.host, p.queue with
  | true, some q => let lq := s.sched.lq[Fin.ofNat 64 q]; lq.base + BitVec.ofNat 64 (128 * (lq.head.toNat % 2 ^ lq.log2))
  | _, _ => p.recVa

/-- R362: a launch that ends before it was admitted (DEDUCED, log entry 45). -/
def State.endUnadmitted (s : State) (p : Posted) (va : Word) (r : List Byte) (status : Nat) : State :=
  let s1 := ((s.devWrite (va + 0x30) (bytesOfNat 8 p.ident.toNat)).statusWrite (va + 0x38) status).tell (fieldW r 0x20) s.ns p.poster status
  if p.callg then s1.freeArea p.dataPa else s1

/-- R369: the queues of a pipeline are linked: a stage's input is the output of the highest stage below it, of a launch that has ended too
while its queue is there; the latest of one index (DEDUCED, log entry 99). -/
def State.linkPipeline (s : State) (tag : Word) (queue : Option Nat) : State :=
  { s with launches := s.launches.map fun (e : Nat × Launch) =>
      if !(e.2.tag == tag && e.2.queue == queue && e.2.kern.stage.isSome) then e
      else
        let below := s.sched.stageQs.filter fun (p : Nat × StageQueue) => p.2.tag == tag && p.2.queue == queue && decide (p.2.stage < e.2.kern.stage.getD 0)
        match below.foldl (fun (b : Option (Nat × StageQueue)) p => match b with
            | some q => if q.2.stage ≤ p.2.stage then some p else some q
            | none => some p) none with
        | some q => (e.1, { e.2 with inQueue := some q.1 })
        | none => e }

/-- R369: the queues that a new launch of a stage replaces: those of its index whose producer has ended and that no launch reads. -/
def State.dropStale (s : State) (l : Launch) : State :=
  (s.sched.stageQs.filter fun (p : Nat × StageQueue) => p.2.tag == l.tag && p.2.queue == l.queue && some p.2.stage == l.kern.stage
    && (s.launch? p.2.launch).isNone && s.launches.all fun e => e.2.inQueue != some p.1).foldl (fun s p => s.dropQueue p.1) s

/-- R362, R369, R392: an admitted launch takes its place, with its areas, its output queue and, in dual execution, its shadow. -/
def State.enroll (s : State) (l : Launch) (data const : List Byte) (queuePa : Nat) (va : Word) : State :=
  let lid := l.ident.toNat
  let stage := l.kern.stage.isSome
  let s0 := if stage then s.dropStale l else s
  let l1 := { l with recVa := va, outQueue := if stage then some s0.fresh else none }
  let runs := Sparse.insert s0.launches lid l1
  let s1 := (((({ s0.bump with
    launches := if l1.dual then Sparse.insert runs (lid + 2 ^ 64) l1 else runs
    sched := { s0.sched with
      admitted := s0.sched.admitted + 1
      stageQs := if stage then
          Sparse.insert s0.sched.stageQs s0.fresh { tag := l.tag, queue := l.queue, stage := l.kern.stage.getD 0, launch := lid, entries := l.kern.stageEntries
                                                    bytes := l.kern.stageBytes, pa := queuePa, head := 0, count := 0, used := false }
        else s0.sched.stageQs } }).takeArea l.dataPa l.dataSize).takeArea l.constPa const.length).takeArea queuePa (if stage then l.kern.stageEntries * l.kern.stageBytes else 0))
  let size := (l.dataSize + 4095) / 4096 * 4096
  let s2 := if l.dataSize = 0 then s1
    else ({ s1 with mem := { s1.mem with tlb := areaPages 128 (l.dataPa - Config.areaPa) size ++ s1.mem.tlb } }).putArea l.dataPa data
  let s3 := if stage then s2.linkPipeline l.tag l.queue else s2
  ((s3.putArea l.constPa const).devWrite (va + 0x30) (bytesOfNat 8 lid)).setStatus lid 0 0

/-- R357, R359: the scheduler takes a post, or leaves it waiting. -/
def State.tryAdmit (s : State) (p : Posted) : State :=
  let va := s.recordVa p
  match s.devRead va 128 with
  | none =>
    let s1 := s.takePost p
    match p.host, p.queue with
    | true, some q =>
      let i := Fin.ofNat 64 q
      { s1 with sched := { s1.sched with lq := s1.sched.lq.set i { s1.sched.lq[i] with err := true } } }
    | _, _ => if p.callg then (s1.tell 0 s1.ns p.poster 2).freeArea p.dataPa else s1.tell 0 s1.ns p.poster 2
  | some r =>
    if p.cancelled then (s.takePost p).endUnadmitted p va r 4
    else
      let seen := fun (s : State) => (((va, 128) :: (fieldW r 0x10, field r 2 0x18) :: s.codeRanges (if p.callg then p.objVa else fieldW r 0)).foldl
        (fun s e => s.devNote (pieces e.2) e.1 e.2) s)
      match s.judge p r with
      | .wait => s
      | .fail => ((seen s).takePost p).endUnadmitted p va r 2
      | .admitted l data const queuePa => ((seen s).takePost p).enroll l data const queuePa va

/-- R357: the next post of a queue; of the children, the first whose record does not wait. -/
def State.nextPost (s : State) (src : Option Nat) : Option Posted :=
  match src with
  | some q => if (s.sched.lq[Fin.ofNat 64 q]).en then s.sched.posted.find? fun p => p.arrived && p.queue == some q else none
  | none => s.sched.posted.find? fun p => p.arrived && p.callg &&
      (p.cancelled || match s.devRead p.recVa 128 with | some r => (match s.judge p r with | .wait => false | _ => true) | none => true)

def execLaunchAdmission (src : Option Nat) (s : State) : Out :=
  .next (let s1 := s.arrivePosts
         match s1.nextPost src with
         | some p => s1.tryAdmit p
         | none => s1)

end Sys2Proof.Machine
end

