-- ==== Sys2Proof/Machine/BitAddr.lean ====
section
/-! DEFINITION. Class 0x3, bit and address instructions (spec 05, R133 to R137), and the compact forms among them (R30). -/

namespace Sys2Proof.Machine

/-- R133: `lop3`, bit by bit. -/
def lop3Word (tt : Nat) (a b c : Word) : Word :=
  BitVec.ofFnLE fun i : Fin 64 => tt.testBit (4 * (a.getLsbD i).toNat + 2 * (b.getLsbD i).toNat + (c.getLsbD i).toNat)

/-- R134: the shifts of one element. -/
def shlElem (w a k : Nat) : Nat := if w ≤ k then 0 else a * 2 ^ k
def shrElem (w a k : Nat) : Nat := if w ≤ k then 0 else a / 2 ^ k
def sarElem (w a k : Nat) : Nat :=
  let v := toSigned w a
  wrap w (if w ≤ k then (if v < 0 then -1 else 0) else v / (2 ^ k : Int))
def rotElem (right : Bool) (w a k : Nat) : Nat :=
  let j := if right then (w - k % w) % w else k % w
  a * 2 ^ j % 2 ^ w + a / 2 ^ (w - j)

/-- R135: pos and len of a field. -/
def fieldPos (w b : Nat) : Nat := min (b % 256) w
def fieldLen (w b : Nat) : Nat := min (b / 256 % 256) w

/-- R135: `bfx` of one element. -/
def bfxElem (ty a b : Nat) : Nat :=
  let w := tyWidth ty
  let len := fieldLen w b
  let f := a / 2 ^ fieldPos w b % 2 ^ len
  if len = 0 then 0 else if tySigned ty then wrap w (toSigned len f) else f

/-- R135: `bfi` of one element. -/
def bfiElem (w a b c : Nat) : Nat :=
  let pos := fieldPos w b
  let n := min (pos + fieldLen w b) w - pos
  c % 2 ^ pos + (a % 2 ^ n) * 2 ^ pos + (c / 2 ^ (pos + n)) * 2 ^ (pos + n)

/-- R136. -/
def popcElem (w a : Nat) : Nat := ((List.range w).filter fun i => a.testBit i).length
def clzElem (w a : Nat) : Nat := if a = 0 then w else w - 1 - Nat.log2 a
def ctzElem (w a : Nat) : Nat := (((List.range w).find? fun i => a.testBit i).getD w)
def brevElem (w a : Nat) : Nat := (List.range w).foldl (fun r i => 2 * r + (a.testBit i).toNat) 0

/-- R137: base, index scaled, offset. -/
def leaWord (n : Nat) (sx32 : Bool) (off a b : Word) : Word :=
  a + (if sx32 then (b.setWidth 32).signExtend 64 else b) <<< n + off

def bitOp2 (opc : Nat) (x : Ext) (f : Nat → Nat → Nat → Nat) (s : State) : State :=
  wordOp opc x x.srcA x.srcB .none_ (mapElems x.ty.toNat fun a b _ => f (tyWidth x.ty.toNat) a b) s

def bitOp1 (opc : Nat) (x : Ext) (f : Nat → Nat → Nat) (s : State) : State :=
  wordOp opc x x.srcA .none_ .none_ (mapElems x.ty.toNat fun a _ _ => f (tyWidth x.ty.toNat) a) s

def execAndB (x : Ext) (s : State) : Out := .next (wordOp 0x060 x x.srcA x.srcB .none_ (fun a b _ => a &&& b) s)
def execOrB (x : Ext) (s : State) : Out := .next (wordOp 0x061 x x.srcA x.srcB .none_ (fun a b _ => a ||| b) s)
def execXorB (x : Ext) (s : State) : Out := .next (wordOp 0x062 x x.srcA x.srcB .none_ (fun a b _ => a ^^^ b) s)
def execNotB (x : Ext) (s : State) : Out := .next (wordOp 0x063 x x.srcA .none_ .none_ (fun a _ _ => ~~~ a) s)
def execLop3 (x : Ext) (s : State) : Out := .next (wordOp 0x064 x x.srcA x.srcB x.srcC (lop3Word (x.m 23 8)) s)
def execShl (x : Ext) (s : State) : Out := .next (bitOp2 0x065 x shlElem s)
def execShr (x : Ext) (s : State) : Out := .next (bitOp2 0x066 x shrElem s)
def execSar (x : Ext) (s : State) : Out := .next (bitOp2 0x067 x sarElem s)
def execRot (x : Ext) (s : State) : Out := .next (bitOp2 0x068 x (rotElem (x.mb 23)) s)
def execBfx (x : Ext) (s : State) : Out :=
  .next (wordOp 0x069 x x.srcA x.srcB .none_ (mapElems x.ty.toNat fun a b _ => bfxElem x.ty.toNat a b) s)
def execBfi (x : Ext) (s : State) : Out :=
  .next (wordOp 0x06A x x.srcA x.srcB x.srcC (mapElems x.ty.toNat (bfiElem (tyWidth x.ty.toNat))) s)
def execPopc (x : Ext) (s : State) : Out := .next (bitOp1 0x06B x popcElem s)
def execClz (x : Ext) (s : State) : Out := .next (bitOp1 0x06C x clzElem s)
def execCtz (x : Ext) (s : State) : Out := .next (bitOp1 0x06D x ctzElem s)
def execBrev (x : Ext) (s : State) : Out := .next (bitOp1 0x06E x brevElem s)
def execLea (x : Ext) (s : State) : Out :=
  .next (wordOp 0x06F x x.srcA (.reg x.b) .none_ (fun a b _ => leaWord (x.m 23 3) (x.mb 26) x.offset a b) s)

/-! Compact forms (R30). -/

def execAndB64Compact (c : Compact) (s : State) : Out := .next (wordOp 0x060 (c.toExt 0) (.reg c.a) (.reg c.b) .none_ (fun a b _ => a &&& b) s)
def execOrB64Compact (c : Compact) (s : State) : Out := .next (wordOp 0x061 (c.toExt 0) (.reg c.a) (.reg c.b) .none_ (fun a b _ => a ||| b) s)
def execXorB64Compact (c : Compact) (s : State) : Out := .next (wordOp 0x062 (c.toExt 0) (.reg c.a) (.reg c.b) .none_ (fun a b _ => a ^^^ b) s)
def execShlB64Compact (c : Compact) (s : State) : Out := .next (bitOp2 0x065 (c.toExt 0) shlElem s)
def execShrB64Compact (c : Compact) (s : State) : Out := .next (bitOp2 0x066 (c.toExt 0) shrElem s)
def execSarI64Compact (c : Compact) (s : State) : Out := .next (bitOp2 0x067 (c.toExt 2) sarElem s)

end Sys2Proof.Machine
end

