-- ==== Sys2Proof/Machine/Placement.lean ====
section
/-! DEFINITION. Placement and dispatch of groups (spec 16, R366 to R368, R370; 01, R11, R14; 02, R61; 09, R207; 12, R279), the restoring
of saved groups (12, R293; 13, R309; 16, R372), and the copies of strict launches (17, R392, R393). -/

namespace Sys2Proof.Machine

/-! ### What is ready to place -/

/-- The indices of the groups that are placed together. -/
def Launch.unitAt (l : Launch) (i : Nat) : List Nat := if l.kern.crew ≤ 1 ∨ l.solo.isSome then [i] else (List.range l.kern.crew).map (i + ·)

/-! ### Where it fits (R11, R14, R367) -/

/-- What a group needs of a core. -/
structure Needs where
  warps   : Nat
  cells   : Nat
  scratch : Nat
  accFrom : Nat
  accTo   : Nat
  priv    : Nat                       -- R213: bytes of HBM for its private areas
  streams : List Nat
  reqs    : Nat                       -- R293, R309: what is reposted
  ops     : Nat

/-- R309: the operations of a group that a save has withdrawn. -/
def State.withdrawnOps (s : State) (gid : Nat) : List EngOp := s.ops.filter fun o => o.gid == gid && o.withdrawn

/-- What a group of a launch needs: a new one, or one that is restored; a group of a crew that is over needs nothing. -/
def State.needsOf (s : State) (key : Nat) (l : Launch) (i : Nat) : Needs :=
  let fresh : Needs :=
    { warps := l.kern.warps, cells := l.kern.warps * l.kern.quota + l.kern.reserve, scratch := l.kern.scratch, accFrom := l.kern.accFirst
      accTo := l.kern.accFirst + l.kern.accCount, priv := l.kern.warps * 32 * 65536, streams := [], reqs := 0, ops := 0 }
  match s.groupAt key i with
  | none => fresh
  | some (gid, g) =>
    match g.mode with
    | .saved _ =>
      { fresh with warps := g.savedWarps.length, cells := (g.savedWarps.map fun w => w.admitted).sum + l.kern.reserve, priv := 0
                   streams := g.savedStreams.map (·.1), reqs := g.savedReqs.length + ((s.withdrawnOps gid).filter EngOp.isAtt).length
                   ops := ((s.withdrawnOps gid).filter EngOp.isTender).length }
    | _ => { fresh with warps := 0, cells := 0, scratch := 0, accTo := l.kern.accFirst, priv := 0 }

/-- The free warp slots of a core. -/
def State.freeSlots (s : State) (core : Nat) : List Nat := (List.range 64).filter fun k => (s.warp? (core * 64 + k)).isNone

/-- R11, R14, R279, R293, R367: a group fits on a core beside those that stay there. What it reposts fits in the cluster's table and in the
engine's queue (DEDUCED, log entry 74). -/
def State.fits (s : State) (core : Nat) (n : Needs) : Bool :=
  let gs := s.groupsOn core
  let kern := fun (g : Group) => match s.launch? g.launch with | some l => l.kern | none => Kernel.blank
  let cells := s.cellPool core + n.cells
  n.warps == 0 ||
    decide (n.warps ≤ (s.freeSlots core).length) && decide (gs.length < 16) && decide (cells ≤ Config.cellPool)
    && decide (cellUnits cells + s.scratchHeld core + scratchUnits n.scratch + 16 ≤ Config.storeUnits)
    && gs.all (fun g => decide (n.accTo ≤ n.accFrom) || (kern g).accCount == 0 || decide ((kern g).accFirst + (kern g).accCount ≤ n.accFrom ∨ n.accTo ≤ (kern g).accFirst))
    && n.streams.all (fun k => (Sparse.find (s.gantry (core / 4)).streams k).isNone)
    && (n.ops == 0 || decide ((s.tenderQueue core).length + n.ops ≤ 32))

/-- R394: the host has not fenced a core off. -/
def State.fenced (s : State) (core : Nat) : Bool := if core < 64 then s.steps.fence0.getLsbD core else s.steps.fence1.getLsbD (core - 64)

/-- R371, R392 to R394: a core that a launch copy may use. -/
def State.openTo (s : State) (key : Nat) (l : Launch) (core : Nat) : Bool :=
  let others := s.groups.filter fun e => e.2.launch % 2 ^ 64 == key % 2 ^ 64 && e.2.launch != key
  !(s.fenced core) && (s.groupsOn core).all (fun g => g.mode != .draining)
    && others.all fun e =>
      match l.solo with
      | some i => e.2.index != i || e.2.core / 4 != core / 4
      | none => e.2.core != core

/-- R367: the cores in order of preference: those of the posting core's die first. -/
def coresFor (l : Launch) : List Nat :=
  let from_ := l.ident.toNat / 2 ^ 48 % 256
  let all := List.range Config.cores
  if from_ = 0xFF then all else all.filter (fun c => dieOf c == dieOf from_) ++ all.filter (fun c => dieOf c != dieOf from_)

/-- The first cores of a list that take groups one by one: the i-th takes the i-th. -/
def matchCores (ok : Nat → Needs → Bool) : List Nat → List Needs → Option (List Nat)
  | _, [] => some []
  | [], _ :: _ => none
  | c :: cs, n :: ns => if ok c n then (matchCores ok cs ns).map (c :: ·) else matchCores ok cs (n :: ns)

/-- R367: the cores for a unit of groups. -/
def State.placeFor (s : State) (key : Nat) (l : Launch) (i : Nat) : Option (List Nat) :=
  let needs := (l.unitAt i).map (s.needsOf key l)
  let reqs := (needs.map (·.reqs)).sum
  let table := fun (u : Nat) => reqs == 0 || decide (s.tableUse u + reqs ≤ 64)
  let ok := fun (c : Nat) (n : Needs) => s.openTo key l c && s.fits c n
  if (s.findArea (needs.map (·.priv)).sum).isNone then none
  else
    match needs with
    | [n] => ((coresFor l).find? fun c => table (c / 4) && ok c n).map fun c => [c]
    | _ => (((coresFor l).map (· / 4)).eraseDups).findSome? fun u => if table u then matchCores ok ((List.range 4).map (4 * u + ·)) needs else none

/-! ### Starting and restoring -/

/-- R11: the slots for the warps of a group: the lowest run of free slots that holds them, or else the lowest free ones. -/
def warpSlots (free : List Nat) (n : Nat) : List Nat :=
  match free.find? fun k => (List.range n).all fun j => free.contains (k + j) with
  | some k => (List.range n).map (k + ·)
  | none => free.take n

/-- R72, R207: the pattern tag that a reuse key holds. -/
def keyTag (key : List Word) : Option Nat := if (key.getD 0 0).toNat % 512 = 0x0E6 then some ((key.getD 2 0).toNat % 2 ^ 26) else none

/-- R207: the pattern tags in use: those of loaded tables, and those that live keys hold, of entries and of results that are outstanding. -/
def State.tagsInUse (s : State) : List Nat :=
  (s.groups.flatMap fun e => e.2.pats.map fun p => p.2.2) ++ (s.cores.flatMap fun c => c.2.reuse.filterMap fun e => keyTag e.key)
    ++ s.warps.flatMap fun e => e.2.pend.filterMap fun p => p.key.bind fun k => keyTag k.1

/-- The least number that a list does not hold. -/
def leastFree (used : List Nat) : Nat := ((List.range (used.length + 1)).find? fun n => !(used.contains n)).getD 0

/-- R207: the pattern tag of a table: that of an equal table that is loaded, or one that is not in use (DESIGN CHOICE, log entry 46). -/
def State.loadPats (s : State) (pats : Sparse (List Byte)) : Sparse (List Byte × Nat) :=
  pats.foldl (fun (r : Sparse (List Byte × Nat)) p =>
    let known := (s.groups.flatMap fun e => e.2.pats.map (·.2)) ++ r.map (·.2)
    match known.find? fun q => q.1 == p.2 with
    | some q => Sparse.insert r p.1 (p.2, q.2)
    | none => Sparse.insert r p.1 (p.2, leastFree (s.tagsInUse ++ r.map fun q => q.2.2))) []

/-- R234: a ring as its declaration sets it. -/
def RingDesc.fresh (d : RingDesc) : Ring :=
  { off := d.off, slots := d.slots, size := d.size, free := d.slots, full := 0, wr := 0, wc := 0, rd := 0, rc := 0, np := 0, nr := 0, done := [] }

/-- R95, R207, R213, R279: a group starts on a core. -/
def State.startGroup (s0 : State) (key : Nat) (l : Launch) (i pos core : Nat) : State :=
  let bytes := l.kern.warps * 32 * 65536
  let pa := (s0.findArea bytes).getD Config.areaPa
  let s := s0.takeArea pa bytes
  let gid := s.fresh
  let slots := warpSlots (s.freeSlots core) l.kern.warps
  let g : Group :=
    { launch := key, index := i, copy := key / 2 ^ 64, core := core, crewPos := pos, mode := .resident, since := s.ns, lend := l.kern.reserve
      scratch := [], scratchRel := [], privPa := pa, cells := l.kern.warps * l.kern.quota + l.kern.reserve
      rings := l.kern.rings.map fun e => (e.1, e.2.fresh), ringQ := [], bars := [], pats := s.loadPats l.pats
      staged := [], performed := [], released := false, warpsLeft := l.kern.warps, stepped := false, savedWarps := [], savedStreams := [], savedEnds := []
      savedReqs := [], stepGot := [], saveArea := none, accEpoch := s.fresh }
  let s1 := { s.bump with groups := Sparse.insert s.groups gid g }
  let s2 := s1.modCore core fun k => { k with acc := k.acc.filter fun e => !(decide (l.kern.accFirst * 16384 ≤ e.1 ∧ e.1 < (l.kern.accFirst + l.kern.accCount) * 16384)) }
  let s3 := slots.zipIdx.foldl (fun s e =>
    s.setWarp (core * 64 + e.1) (Warp.start gid e.2 l.kern.quota (l.codeVa + BitVec.ofNat 64 l.kern.entry))) s2
  (s3.modLaunch key fun l =>
    { l with next := if l.flushed.contains i ∨ l.solo.isSome then l.next else max l.next (i + 1), flushed := l.flushed.filter (· != i) }).trimL1 core

/-- R69, R70, R80: a restored warp's registers are named anew. -/
def State.restoreRegs (s : State) (wk : Nat) (w : Warp) : State :=
  (List.range 64).foldl (fun s n =>
    let r := w.regs[Fin.ofNat 64 n]
    if r.runs = VecReg.null.runs then s else s.writeRuns wk (BitVec.ofNat 6 n) r.runs) (s.setWarp wk { w with regs := Vector.replicate 64 VecReg.null })

/-- R293, R309: a restored group's streams are bound again, and its withdrawn Tender operations are as their records give them. Quarters that wait
for an entry wait at the new engines. -/
def State.rebind (s : State) (gid core : Nat) (r : Restored) : State :=
  let s1 := s.modGantry (core / 4) fun t => { t with streams := r.group.savedStreams.foldl (fun m e => Sparse.insert m e.1 e.2) t.streams }
  { s1 with
    ops := s1.ops.map fun (o : EngOp) => (r.ops.find? fun p => p.id == o.id).getD o
    qwait := s1.qwait.map fun (q : QWait) => if q.gid == gid then { q with unit := match q.res with | 0 => core / 4 | 1 => core | _ => q.unit } else q }

/-- R293, R309: what a save has withdrawn of the groups of a unit is posted again behind what the engines hold: the requests in record order, then
the operations, each on the core of its group and in the order in which they were posted (DEDUCED, log entry 117). -/
def State.repostUnit (s : State) (gids : List Nat) : State :=
  let coreOf := fun (gid : Nat) => match s.group? gid with | some g => g.core | none => 0
  let reqs := gids.flatMap fun i => match s.group? i with | some g => g.savedReqs | none => []
  let ops := s.ops.filter fun o => o.withdrawn && gids.contains o.gid
  let ids := reqs.map (·.id) ++ ops.map (·.id)
  let renew := fun (id : Nat) => s.fresh + (ids.filter fun k => decide (k < id)).length
  let hatch := fun (w : Warp) => w.modThreads (BitVec.allOnes 32) fun _ t =>
    match t.st with | .waiting (.hatch id) next => if ids.contains id then { t with st := .waiting (.hatch (renew id)) next } else t | _ => t
  let s1 := reqs.foldl (fun (s : State) m => s.modGantry (coreOf m.gid / 4) fun t =>
    { t with table := t.table ++ [{ m with id := renew m.id, core := coreOf m.gid, readyAt := none }] }) s
  let s2 := gids.foldl (fun s i => (s.warpsOf i).foldl (fun s e => s.modWarp e.1 hatch) (s.modGroup i fun g => { g with savedReqs := [] })) s1
  { s2 with
    fresh := s.fresh + ids.length
    ops := s2.ops.filter (fun o => !(o.withdrawn && gids.contains o.gid)) ++ ops.map fun (o : EngOp) => { o with id := renew o.id, core := coreOf o.gid, readyAt := none } }

/-- R385: of the threads of a restored group that wait for room in a buffer, those go on whose buffer has come to have some. -/
def State.wakeRoom (s : State) (gid : Nat) : State :=
  (s.warpsOf gid).foldl (fun s e =>
    let m := e.2.which fun t => match t.waits with | some (.buffer atom) => s.stageRoom gid (wkCore e.1) atom 1 | _ => false
    if m = 0 then s else s.release e.1 m) s

/-- R386: waits count anew after a restore. -/
def Warp.since (w : Warp) (now : Nat) : Warp := { w with threads := Vector.ofFn fun i => { w.threads[i] with since := now } }

/-- R80, R372: what a saved group's area holds; none where it cannot be read, or where a check fails. -/
def State.restored (s : State) (gid : Nat) (g : Group) (l : Launch) : Option Restored :=
  match g.saveArea with
  | none => none
  | some (a, n) =>
    (s.readArea a n).bind fun bs =>
      let ops := (s.withdrawnOps gid).filter EngOp.isTender
      let back := fun (w : Warp) (k : Nat) => (ops.filter fun o => o.widx == w.widx && o.slot == some k).length
        + ((s.unitOf gid).flatMap fun i => match s.group? i with | some h => h.savedReqs.filter fun m => m.gid == gid && m.widx == w.widx && m.slot == k | none => []).length
      g.fromArea l ops back (if s.leads gid && decide (1 < l.kern.crew) then (List.range 4).map (s.barrier gid true) else []) bs

/-- R80, R207, R293, R309, R372: a saved group takes its place again. -/
def State.restoreGroup (s : State) (gid core : Nat) : State :=
  match s.group? gid with
  | none => s
  | some g =>
    match s.launch? g.launch with
    | none => s
    | some l =>
      match s.restored gid g l with
      | none => s.haltLaunch g.launch 0x08
      | some r =>
        let slots := warpSlots (s.freeSlots core) r.group.savedWarps.length
        let wks := slots.map fun k => core * 64 + k
        let s1 := (wks.zip r.group.savedWarps).foldl (fun s e => s.restoreRegs e.1 (e.2.since s.ns)) s
        let s2 := g.stepGot.foldl (fun s e => match s.findWarp gid e.1 with | some wk => s.writeVec wk e.2.2.1 e.2.1 0 fun _ => e.2.2.2 | none => s) s1
        let lo := l.kern.accFirst * 16384
        let hi := lo + l.kern.accCount * 16384
        let s3 := (s2.modCore core fun k => { k with acc := (k.acc.filter fun e => decide (e.1 < lo)) ++ r.acc ++ k.acc.filter fun e => decide (hi ≤ e.1) }).rebind gid core r
        let s4 := { s3 with mem := { s3.mem with watches := s3.mem.watches.map fun (w : Watch) => if w.gid == gid then { w with notified := true } else w } }
        let s5 := (match g.saveArea with | some a => s4.dropArea a.1 | none => s4).modGroup gid fun _ =>
          { r.group with
            mode := .resident, core := core, since := s.ns, cells := (r.group.savedWarps.map Warp.admitted).sum + l.kern.reserve
            ringQ := r.group.ringQ.map fun (e : Nat × List RingWaiter) => (e.1, e.2.filter fun w => match w with | .tender _ => false | _ => true)
            savedWarps := [], savedStreams := [], stepGot := [], saveArea := none, pats := s.loadPats l.pats }
        let s6 := (r.crew.zipIdx.foldl (fun (s : State) e => s.setBarrier gid true e.2 e.1) s5).trimL1 core
        let s7 := wks.foldl (fun s wk => (List.range 8).foldl (fun s k => s.wakeSlot wk k 32) (s.parkHeld wk (BitVec.allOnes 32))) s6
        let s8 := match l.inQueue with | some q => (s7.serveStage q 64).endStream q | none => s7
        (match l.outQueue with | some q => s8.serveStage q 64 | none => s8).wakeRoom gid

/-- A unit of groups is placed on cores; those of a crew that are over stay so. -/
def State.placeUnit (s : State) (key : Nat) (l : Launch) (i : Nat) (cores : List Nat) : State :=
  let s1 := ((l.unitAt i).zip cores).zipIdx.foldl (fun s (e : (Nat × Nat) × Nat) =>
    match s.groupAt key e.1.1 with
    | some (gid, g) => (match g.mode with | .saved _ => s.restoreGroup gid e.1.2 | _ => s)
    | none => s.startGroup key l e.1.1 e.2 e.1.2) s
  (s1.repostUnit ((l.unitAt i).filterMap fun k => (s1.groupAt key k).bind fun e => if e.2.mode.present then some e.1 else none)).modLaunch key fun l => { l with waited := 0 }

/-! ### The choice (R366) -/

/-- R393, R394: the launch copy that runs one group again, from its entry. -/
def Launch.again (l : Launch) (g : Nat) : Launch :=
  { l with solo := some g, resumes := [], next := g, frontier := g, retired := 0, stepping := false, hasArrived := false, arrived := 0
           stepCount := none, counted := [], flushed := [], crewBars := [] }

/-- R393: the re-executions that are due become launch copies of their own. -/
def State.spawnSamples (s : State) : State :=
  s.launches.foldl (fun s e =>
    if e.2.resumes = [] then s
    else
      let s1 := s.modLaunch e.1 fun l => { l with resumes := [] }
      { s1 with launches := e.2.resumes.foldl (fun m g => Sparse.insert m (e.1 + (4 + 2 * g) * 2 ^ 64) (e.2.again g)) s1.launches }) s

/-- A launch that can be dispatched now: its number, record, next index and cores. -/
def State.choices (s : State) : List (Nat × Launch × Nat × List Nat) :=
  s.launches.filterMap fun e =>
    match s.nextIndex e.1 e.2 with
    | none => none
    | some i => (s.placeFor e.1 e.2 i).map fun cs => (e.1, e.2, i, cs)

/-- R366: `callg` children come before queued launches. -/
def Launch.child (l : Launch) : Bool := l.queue.isNone

/-- R366: the next of several in order of admission, after the one that was dispatched last. -/
def nextInTurn (last : Nat) (cs : List (Nat × Launch × Nat × List Nat)) : Option (Nat × Launch × Nat × List Nat) :=
  let first := fun (l : List (Nat × Launch × Nat × List Nat)) => l.foldl (fun (b : Option (Nat × Launch × Nat × List Nat)) c =>
    match b with | none => some c | some a => if c.2.1.order < a.2.1.order then some c else some a) none
  match first (cs.filter fun c => decide (last < c.2.1.order)) with
  | some c => some c
  | none => first cs

/-- R366: the choice among the launches that can be dispatched. -/
def State.choose (s : State) : Option (Nat × Launch × Nat × List Nat) :=
  let cs := s.choices
  let top := greatest (cs.map fun c => c.2.1.effPrio)
  let best := cs.filter fun c => c.2.1.effPrio == top
  let kids := best.filter fun c => c.2.1.child
  if kids.isEmpty then nextInTurn ((Sparse.find s.sched.turnQueue top).getD 0) best else nextInTurn ((Sparse.find s.sched.turnKid top).getD 0) kids

/-- R366: GROUP_DISPATCH. -/
def State.dispatch (s0 : State) : State :=
  let s := s0.spawnSamples
  match s.choose with
  | none => s
  | some (key, l, i, cores) =>
    let s1 := s.placeUnit key l i cores
    { s1 with sched := if l.child then { s1.sched with turnKid := Sparse.insert s1.sched.turnKid l.effPrio l.order }
                       else { s1.sched with turnQueue := Sparse.insert s1.sched.turnQueue l.effPrio l.order } }

def execGroupDispatch (s : State) : Out := .next (if s.firm.running then s.dispatch else s)

end Sys2Proof.Machine
end

