-- ==== Sys2Proof/Machine/Preempt.lean ====
section
/-! DEFINITION. Pre-emption (spec 16, R368, R371, R372; 01, R20) and the targets of stages (16, R370). -/

namespace Sys2Proof.Machine

/-! ### Methods (R371) -/

inductive Method where
  | drain | flush | save
  deriving DecidableEq, Repr

/-- The unit in which the times and costs of a launch's groups are counted: its parts of a nanosecond, in which all of them are whole. -/
def Launch.grain (l : Launch) : Nat := 2 * max 1 l.runtimes.length

/-- R388, R389: the launch takes part in the commit that is in progress. -/
def State.inCommit (s : State) (key : Nat) : Bool := match s.steps.run with | some r => r.parts.contains (key % 2 ^ 64) | none => false

/-- R371: what a method takes for one group: the time until its core is free and its cost; none where it is not available (DEDUCED, log
entry 76). -/
def State.methodOf (s : State) (m : Method) (gid : Nat) : Option (Nat × Nat) :=
  match s.group? gid with
  | none => none
  | some g =>
    match s.launch? g.launch with
    | none => none
    | some l =>
      let age := (s.ns - g.since) * l.grain
      match m with
      | .drain => if l.runtimes = [] then none else some (2 * l.runtimes.sum - age, 0)
      | .flush => if (if l.kern.cls = 0 then l.restartable else !g.released) then some (1000 * l.grain, age) else none
      | .save => let t := l.grain / 2 * (4000 + s.saveBytes gid / 64); some (t, 2 * t)

/-- R371: for a crew the time is the largest and the cost the sum. -/
def State.methodUnit (s : State) (m : Method) (unit : List Nat) : Option (Nat × Nat) :=
  unit.foldl (fun (r : Option (Nat × Nat)) gid =>
    match r, s.methodOf m gid with
    | some a, some b => some (max a.1 b.1, a.2 + b.2)
    | _, _ => none) (some (0, 0))

/-- R371: the cheapest method within a bound, drain before the others and save before flush where costs are equal; save where none
is within it. -/
def State.chooseMethod (s : State) (unit : List Nat) (lam : Option Nat) : Method :=
  let grain := match unit.head?.bind s.group? with | some g => (match s.launch? g.launch with | some l => l.grain | none => 1) | none => 1
  let ok := [Method.drain, .save, .flush].filterMap fun m =>
    match s.methodUnit m unit with
    | some (t, c) => if (match lam with | some b => decide (t ≤ b * grain) | none => true) then some (m, c) else none
    | none => none
  match ok.foldl (fun (b : Option (Method × Nat)) e => match b with | none => some e | some a => if e.2 < a.2 then some e else some a) none with
  | some (m, _) => m
  | none => .save

/-- R388: an open count no longer counts on what a flushed group's threads were; they begin again (DEDUCED, log entry 76). -/
def Launch.flushStep (l : Launch) (index live arrived warps : Nat) : Launch :=
  if !(l.counted.contains index) then l
  else
    { l with arrived := l.arrived - arrived, hasArrived := l.hasArrived && arrived == 0
             stepCount := match l.stepCount with | some (n, true) => some (n - live + warps * 32, true) | c => c }

/-- R371, R384: a group is discarded, to start again from its entry; what it has staged is discarded, and stores that it performed, or
has sent on their way, stand. The count that a commit in progress has taken stands (DEDUCED, log entry 76). -/
def State.flushGroup (s : State) (gid : Nat) : State :=
  match s.group? gid with
  | none => s
  | some g =>
    match s.launch? g.launch with
    | none => s
    | some l =>
      let s1 := (((s.dropOps fun o => o.gid == gid).freeGroup gid).vacate gid).unbindOwner g.launch g.copy (crewNumber l g)
      let s2 := s1.modLaunch g.launch fun l =>
        { (if s.inCommit g.launch then l else l.flushStep g.index (s.groupThreads gid) (s.groupArrived gid) l.kern.warps) with
          flushed := leastFirst (g.index :: l.flushed), crewBars := Sparse.erase l.crewBars (crewKey l g) }
      ({ s2 with
        groups := Sparse.erase s2.groups gid
        qwait := s2.qwait.filter fun q => q.gid != gid
        gantries := s2.gantries.map fun (e : Nat × Gantry) => (e.1, { e.2 with table := e.2.table.filter fun m => m.gid != gid })
        mem := { s2.mem with reqs := s2.mem.reqs.filter (fun r => r.gid != gid || r.sluice || r.writes)
                             watches := s2.mem.watches.filter fun w => w.gid != gid } }).dropTicketsLost.wakeBuffer
where
  /-- Numbers in rising order. -/
  leastFirst (ns : List Nat) : List Nat := ns.foldl (fun r n => (r.filter (· < n)) ++ n :: r.filter (n < ·)) []

/-- R371: a unit is pre-empted by a method. -/
def State.preempt (s : State) (m : Method) (unit : List Nat) : State :=
  match m, unit with
  | .drain, _ => unit.foldl (fun s gid => s.modGroup gid fun g => { g with mode := .draining }) s
  | .flush, _ => unit.foldl (fun s gid => s.flushGroup gid) s
  | .save, gid :: _ => s.beginSave gid false
  | .save, [] => s

/-! ### Victims (R371) -/

/-- The state without some groups, to see whether there would be room. -/
def State.without (s : State) (gids : List Nat) : State :=
  gids.foldl (fun s gid =>
    let s1 := match s.group? gid with
      | some g => (match s.launch? g.launch with
          | some l => { s with gantries := s.gantries.map fun (e : Nat × Gantry) =>
              (e.1, { e.2 with streams := e.2.streams.filter fun q => !(q.2.launch == g.launch && q.2.copy == g.copy && q.2.crew == crewNumber l g) }) }
          | none => s)
      | none => s
    { (s1.modGroup gid fun g => { g with mode := .discarded }) with warps := s1.warps.filter fun e => e.2.gid != gid }) s

/-- The groups that are leaving their cores already. -/
def State.going (s : State) : List Nat :=
  (s.groups.filter fun e => match e.2.mode with | .saving _ | .draining => true | _ => false).map (·.1)

/-- R371: what can be taken from some cores: units of running launches that satisfy a condition, those of lowest priority first, then
those most recently dispatched. -/
def State.victimsOn (s : State) (cores : List Nat) (ok : Nat → Group → Launch → Bool) : List (List Nat) :=
  let cands := s.groups.filterMap fun e =>
    match s.launch? e.2.launch with
    | some l => if cores.contains e.2.core && e.2.mode == .resident && l.status == 0 && ok e.1 e.2 l then some (e.1, l.prio, e.2.since) else none
    | none => none
  let before := fun (a b : Nat × Nat × Nat) => decide (a.2.1 < b.2.1) || (a.2.1 == b.2.1 && (decide (b.2.2 < a.2.2) || (a.2.2 == b.2.2 && decide (b.1 < a.1))))
  let sorted := cands.foldl (fun (r : List (Nat × Nat × Nat)) c => (r.filter fun x => before x c) ++ c :: r.filter fun x => !(before x c)) []
  (sorted.map fun c => s.presentUnit c.1).foldl (fun r u => if r.contains u then r else r ++ [u]) []

/-- The first n units of a list that make room, if any number does. -/
def State.fewest (s : State) (room : State → Bool) (units : List (List Nat)) : Option (List (List Nat)) :=
  ((List.range (units.length + 1)).map fun n => units.take n).find? fun us => room (s.without us.flatten)

/-- R371: the victims for a unit of groups that cannot be placed: on the core, or the cluster, that needs the fewest. -/
def State.victimsFor (s : State) (key : Nat) (l : Launch) (i : Nat) (ok : Nat → Group → Launch → Bool) : Option (List (List Nat)) :=
  let needs := (l.unitAt i).map (s.needsOf key l)
  let sites := match needs with | [_] => (List.range Config.cores).map fun c => [c] | _ => (List.range (Config.cores / 4)).map fun u => (List.range 4).map (4 * u + ·)
  let here := fun (cs : List Nat) => s.fewest (fun s => (matchCores (fun c n => s.openTo key l c && s.fits c n) cs needs).isSome) (s.victimsOn cs ok)
  (sites.filterMap here).foldl (fun (b : Option (List (List Nat))) v =>
    match b with | none => some v | some a => if v.length < a.length then some v else some a) none

/-- R368: a group all of whose threads wait at `waitc`. -/
def State.allAtSlots (s : State) (gid : Nat) : Bool :=
  (s.warpsOf gid).all fun e => (Mask.lanes (~~~ e.2.gone)).all fun i => match e.2.threads[i].waits with | some (.waitc _) => true | _ => false

/-- R368: the highest of the groups of a launch copy that are resident above an index. -/
def State.highestAbove (s : State) (key i : Nat) : Option Nat :=
  ((s.residentOf key).filter fun e => decide (i < e.2.index) && e.2.mode == .resident).foldl (fun (b : Option (Nat × Group)) e =>
    match b with | none => some e | some a => if a.2.index < e.2.index then some e else some a) none |>.map (·.1)

/-- R368, R371: a launch copy whose next groups no core can take asks for room. -/
def State.askRoom (s : State) (key : Nat) (l : Launch) (i : Nat) : State :=
  let saved := (l.unitAt i).any fun k => (s.savedIndices key).contains k
  match (if saved then s.highestAbove key i else none) with
  | some gid => s.preempt .save (s.presentUnit gid)
  | none =>
    match (if 0 < l.lam then s.victimsFor key l i fun _ _ v => decide (v.prio < l.prio) else none) with
    | some units => units.foldl (fun s u => s.preempt (s.chooseMethod u (some l.lam)) u) s
    | none =>
      if !l.child then s
      else
        match s.victimsFor key l i fun gid _ v => v.prio == l.prio && s.allAtSlots gid with
        | some units => units.foldl (fun s u => s.preempt .save u) s
        | none => s

/-- R371: PREEMPTION: saves that are under way end where they can; then the launches that cannot be placed ask for room, unless what
is leaving already makes it. -/
def State.preemption (s0 : State) : State :=
  let s := s0.going.foldl (fun s gid => s.saveUnit gid) s0
  s.launches.foldl (fun s e =>
    match s.launch? e.1 with
    | none => s
    | some l =>
      match s.nextIndex e.1 l with
      | none => s
      | some i =>
        if (s.placeFor e.1 l i).isSome || ((s.without s.going).placeFor e.1 l i).isSome then s else s.askRoom e.1 l i) s

def execPreemption (s : State) : Out := .next (if s.firm.running then s.preemption else s)

/-! ### Stages (R370) -/

/-- The fill of a queue: entries in it and entries it holds; a missing queue is half full. -/
def State.fill (s : State) (q : Option Nat) : Nat × Nat :=
  match q.bind s.stageQ? with
  | some sq => (sq.count, sq.entries)
  | none => (1, 2)

/-- R370: a stage's target, after its fills. -/
def State.newTarget (s : State) (l : Launch) : Nat :=
  let i := s.fill l.inQueue
  let o := s.fill l.outQueue
  if 3 * i.2 ≤ 4 * i.1 ∧ 4 * o.1 ≤ o.2 then min (l.target + 1) l.groups
  else if 4 * i.1 ≤ i.2 ∨ 3 * o.2 ≤ 4 * o.1 then max (l.target - 1) 1
  else l.target

/-- R370: one stage is adjusted: a fall pre-empts its highest resident group that is not leaving already. -/
def State.adjustStage (s : State) (key : Nat) (l : Launch) : State :=
  let t := s.newTarget l
  let s1 := s.modLaunch key fun l => { l with target := t }
  if l.target ≤ t then s1
  else
    match ((s.residentOf key).filter fun e => e.2.mode == .resident).foldl (fun (b : Option (Nat × Group)) e =>
        match b with | none => some e | some a => if a.2.index < e.2.index then some e else some a) none with
    | some (gid, _) => let u := s1.presentUnit gid; s1.preempt (s1.chooseMethod u none) u
    | none => s1

/-- R370: STAGE_TARGET_ADJUST: every 100 µs each stage is adjusted. -/
def State.adjustStages (s : State) : State :=
  if !s.firm.running ∨ s.ns < s.sched.lastAdjust + 100000 then s
  else
    s.launches.foldl (fun s e =>
      match s.launch? e.1 with
      | some l => if l.kern.stage.isSome && l.status == 0 then s.adjustStage e.1 l else s
      | none => s) { s with sched := { s.sched with lastAdjust := s.ns } }

def execStageTargetAdjust (s : State) : Out := .next s.adjustStages

end Sys2Proof.Machine
end

