-- ==== Sys2Proof/Machine/Commit.lean ====
section
/-! DEFINITION. The commit of a step (spec 17, R388 to R391), the replica checks (R392 to R394) and the exchange of digests between peers
(R395). Each COMMIT step takes the commit one part further: it begins, ends a phase, or performs one record (DEDUCED, log entry 17). -/

namespace Sys2Proof.Machine

/-! ### SHAKE256 (R391) -/

/-- The round constants of Keccak-f[1600]. -/
def keccakRc : List Word :=
  [0x0000000000000001, 0x0000000000008082, 0x800000000000808A, 0x8000000080008000, 0x000000000000808B, 0x0000000080000001,
   0x8000000080008081, 0x8000000000008009, 0x000000000000008A, 0x0000000000000088, 0x0000000080008009, 0x000000008000000A]
  ++ [0x000000008000808B, 0x800000000000008B, 0x8000000000008089, 0x8000000000008003, 0x8000000000008002, 0x8000000000000080,
   0x000000000000800A, 0x800000008000000A, 0x8000000080008081, 0x8000000000008080, 0x0000000080000001, 0x8000000080008008]

/-- The rotations of the lanes, lane x + 5 y. -/
def keccakRot : List Nat := [0, 1, 62, 28, 27, 36, 44, 6, 55, 20, 3, 10, 43, 25, 39, 41, 45, 15, 21, 8, 18, 2, 61, 56, 14]

/-- One round on 25 lanes. -/
def keccakRound (a : List Word) (rc : Word) : List Word :=
  let at_ := fun (l : List Word) (k : Nat) => l.getD k 0
  let c := (List.range 5).map fun x => at_ a x ^^^ at_ a (x + 5) ^^^ at_ a (x + 10) ^^^ at_ a (x + 15) ^^^ at_ a (x + 20)
  let d := (List.range 5).map fun x => at_ c ((x + 4) % 5) ^^^ (at_ c ((x + 1) % 5)).rotateLeft 1
  let t := (List.range 25).map fun k => at_ a k ^^^ at_ d (k % 5)
  let b := (List.range 25).map fun k =>
    let x := k % 5
    let y := k / 5
    let u := (x + 3 * y) % 5
    let src := u + 5 * x
    (at_ t src).rotateLeft (keccakRot.getD src 0)
  ((List.range 25).map fun k => at_ b k ^^^ (~~~ at_ b ((k + 1) % 5 + k / 5 * 5) &&& at_ b ((k + 2) % 5 + k / 5 * 5))).mapIdx fun k v => if k = 0 then v ^^^ rc else v

def keccakF (a : List Word) : List Word := keccakRc.foldl keccakRound a

/-- A block of 136 bytes is absorbed. -/
def absorb (a : List Word) (block : List Byte) : List Word :=
  keccakF (a.mapIdx fun k v => if k < 17 then v ^^^ BitVec.ofNat 64 (natOfBytes ((block.drop (8 * k)).take 8)) else v)

/-- The padding of SHAKE256 after n bytes. -/
def shakePad (n : Nat) : List Byte :=
  let m := 136 - n % 136
  if m = 1 then [0x9F] else 0x1F :: List.replicate (m - 2) 0 ++ [0x80]

def absorbAll (a : List Word) : Nat → List Byte → List Word
  | 0, _ => a
  | n + 1, bs => absorbAll (absorb a (bs.take 136)) n (bs.drop 136)

/-- The lanes of SHAKE256 after some bytes. -/
def shake256 (msg : List Byte) : List Word :=
  let p := msg ++ shakePad msg.length
  absorbAll (List.replicate 25 0) (p.length / 136) p

/-- The first 128 bits of SHAKE256 of some bytes, the first byte lowest. -/
def shake128of256 (msg : List Byte) : BitVec 128 :=
  let a := shake256 msg
  BitVec.ofNat 128 ((a.getD 0 0).toNat + (a.getD 1 0).toNat * 2 ^ 64)

/-! ### Streams (R390) -/

/-- Groups in rising order of their index. -/
def byIndex (gs : List (Nat × Group)) : List (Nat × Group) :=
  gs.foldl (fun (r : List (Nat × Group)) e => (r.filter fun x => decide (x.2.index ≤ e.2.index)) ++ e :: r.filter fun x => decide (e.2.index < x.2.index)) []

/-- What a launch copy staged before its arrival, with the groups that staged it, in stream order. -/
def State.copyStream (s : State) (key : Nat) : List (Nat × Staged) :=
  let c := match s.launch? key with | some l => l.commits | none => 0
  (byIndex (s.groups.filter fun e => e.2.launch == key)).flatMap fun e => (sortStaged (e.2.staged.filter fun r => decide (r.step ≤ c))).map fun r => (e.1, r)

/-- R393: the whole stream of a group of a launch copy: what commits have performed of it, and what it has staged since. -/
def State.groupStream (s : State) (key index : Nat) : List (Nat × Staged) :=
  match s.groupAt key index with
  | some (gid, g) => (sortStaged (g.performed ++ g.staged)).map fun r => (gid, r)
  | none => []

/-- Two records of copies of one group are the same record. -/
def Staged.same (a b : Staged) : Bool := a.warp == b.warp && a.lane == b.lane && a.seq == b.seq && a.va == b.va

/-- R394: of the whole stream of a group's re-execution, what no commit has performed. -/
def State.replStream (s : State) (lid key index : Nat) : List (Nat × Staged) :=
  let old := match s.groupAt lid index with | some (_, g) => g.performed | none => []
  (s.groupStream key index).filter fun e => !(old.any fun y => e.2.same y)

/-- R390: the kind byte of a record. -/
def StagedKind.code : StagedKind → Nat
  | .store => 1
  | .atom op _ _ => 0x10 + op

/-- R390: a record's bytes. -/
def State.recordBytes (s : State) (e : Nat × Staged) : List Byte :=
  let index := match s.group? e.1 with | some g => g.index | none => 0
  let r := e.2
  bytesOfNat 4 index ++ bytesOfNat 1 r.warp ++ bytesOfNat 1 r.lane ++ bytesOfNat 1 r.kind.code ++ [r.mask] ++ bytesOfNat 8 r.va.toNat
    ++ bytesOfNat 8 r.data.toNat ++ bytesOfNat 8 r.seq

/-- Streams are compared record by record. -/
def State.sameStream (s : State) (a b : List (Nat × Staged)) : Bool := a.map s.recordBytes == b.map s.recordBytes

/-! ### Who takes part (R388) -/

/-- The primary and the shadow of a launch. -/
def State.twins (s : State) (lid : Nat) : List (Nat × Launch) := s.launches.filter fun e => e.1 == lid || e.1 == lid + 2 ^ 64

/-- The re-executions of sampled groups of a launch: their keys and groups. -/
def State.samplesOf (s : State) (lid : Nat) : List (Nat × Nat) :=
  (s.launches.filter fun e => e.1 % 2 ^ 64 == lid && decide (4 ≤ e.1 / 2 ^ 64) && e.1 / 2 ^ 64 % 2 == 0).map fun e => (e.1, (e.1 / 2 ^ 64 - 4) / 2)

/-- R394: a launch that a replica mismatch has halted takes part no more. -/
def Launch.barred (l : Launch) : Bool := l.status == 3 && l.cause == 0x12

/-- R388: the launch is stepping, in one of its copies. -/
def State.isStepping (s : State) (lid : Nat) : Bool := (s.twins lid).any fun e => e.2.stepping && !(s.runOver e.1 e.2)

/-- R388: the launch has arrived in every copy. -/
def State.isArrived (s : State) (lid : Nat) : Bool := s.isStepping lid && (s.twins lid).all fun e => e.2.hasArrived || s.runOver e.1 e.2

/-- R388: a strict launch all of whose groups have retired holds a stream that no commit has performed. -/
def State.isEnded (s : State) (lid : Nat) : Bool :=
  (s.twins lid).all (fun e => e.2.kern.cls == 2 && s.runOver e.1 e.2)
    && (s.groups.any (fun e => e.2.launch % 2 ^ 64 == lid && e.2.staged != []) || !(s.samplesOf lid).isEmpty || (s.twins lid).any fun e => !e.2.resumes.isEmpty)

/-- R383: at a commit the writes that a launch's frontier group has staged up to the arrival are released, in each of its copies. -/
def State.commitRelease (s : State) (lid : Nat) : State :=
  (s.twins lid).foldl (fun s e =>
    match (if e.2.kern.cls = 0 then none else s.groupAt e.1 e.2.frontier) with
    | some (gid, _) => s.releaseStaged gid fun r => decide (r.step ≤ e.2.commits)
    | none => s) s

/-- R388: a commit begins. -/
def State.beginCommit (s : State) : State :=
  let lids := (s.launches.filter fun e => decide (e.1 < 2 ^ 64) && !e.2.barred).map (·.1)
  let parts := lids.filter fun k => s.isArrived k || s.isEnded k
  if parts = [] ∨ lids.any (fun k => s.isStepping k && !(s.isArrived k)) then s
  else
    let s1 := { s with steps := { s.steps with run := some { n := s.steps.stepNum.toNat + 1, phase := 1, parts := parts, checked := [], sampled := [], doneAt := 0 } } }
    parts.foldl (fun s k => s.commitRelease k) s1

def State.modRun (s : State) (f : CommitRun → CommitRun) : State := { s with steps := { s.steps with run := s.steps.run.map f } }

/-! ### Phase 1 -/

/-- R389: the released writes of the launches that take part have completed, and their re-executions have ended. -/
def State.phase1Over (s : State) (r : CommitRun) : Bool :=
  s.mem.reqs.all (fun q => !(q.sluice && match s.group? q.gid with | some g => r.parts.contains g.launch | none => false))
    && r.parts.all fun lid =>
      (match s.launch? lid with | some l => l.resumes.isEmpty | none => true)
        && (s.samplesOf lid).all fun e => match s.launch? e.1 with | some l => s.runOver e.1 l | none => true

/-! ### Phase 2: the checks (R392 to R395) -/

/-- R394: a run was outvoted. -/
def State.outvote (s : State) : State :=
  { s with steps := { s.steps with stat := if s.steps.stat = BitVec.allOnes 64 then s.steps.stat else s.steps.stat + 1 } }

/-- R394: cores are fenced. -/
def State.fence (s : State) (cores : List Nat) : State :=
  cores.foldl (fun s c => { s with steps :=
    if c < 64 then { s.steps with fence0 := s.steps.fence0 ||| (1#64 <<< c) } else { s.steps with fence1 := s.steps.fence1 ||| (1#64 <<< (c - 64)) } }) s

/-- The cores of a launch copy's groups; of the group of an index, where one is given. -/
def State.coresOf (s : State) (key : Nat) (index : Option Nat) : List Nat :=
  (s.groups.filter fun e => e.2.launch == key && (match index with | some i => e.2.index == i | none => true)).map fun e => e.2.core

/-- R394: no two of three runs agree. -/
def State.mismatch (s : State) (lid : Nat) (keys : List Nat) (index : Option Nat) : State :=
  let s1 := (s.fence (keys.flatMap fun k => s.coresOf k index)).haltLaunch lid 0x12
  s1.modRun fun r => { r with parts := r.parts.filter (· != lid) }

/-! The third run of a launch starts from its commit image: the model's own numbers are shifted, so that they are new. -/

def Wait.shift (off : Nat) : Wait → Wait
  | .value id => .value (id + off)
  | .acquire id u => .acquire (id + off) u
  | w => w

def Warp.shift (w : Warp) (off : Nat) : Warp :=
  { w with gid := w.gid + off
           pend := w.pend.map fun (p : Pending) => { p with id := p.id + off }
           threads := Vector.ofFn fun i => match w.threads[i].st with
             | .waiting a n => { w.threads[i] with st := .waiting (a.shift off) n }
             | _ => w.threads[i] }

def Group.shift (g : Group) (off key : Nat) : Group :=
  { g with launch := key, copy := key / 2 ^ 64, savedWarps := g.savedWarps.map fun w => w.shift off
           savedReqs := g.savedReqs.map fun (m : MmaReq) => { m with gid := m.gid + off }
           savedStreams := g.savedStreams.map fun (e : Nat × GStream) => (e.1, { e.2 with launch := key, copy := key / 2 ^ 64 })
           ringQ := g.ringQ.map fun (e : Nat × List RingWaiter) => (e.1, e.2.map fun w => match w with | .tender o => .tender (o + off) | w => w) }

/-- The bytes of a group's private areas, from offset 0. -/
def State.privOf (s : State) (g : Group) (l : Launch) : Memory :=
  (s.mem.hbm.filter fun (e : Nat × Byte) => decide (g.privPa ≤ e.1 ∧ e.1 < g.privPa + l.kern.warps * 32 * 65536)).map fun (e : Nat × Byte) => (e.1 - g.privPa, e.2)

/-- R394: the image of a launch: its record, and its groups as a save leaves them, with their save areas (DEDUCED, log entry 19), their
private areas and the results that are still to come. -/
def State.imageOf (s : State) (lid : Nat) (l : Launch) : Image :=
  let live := s.groups.filter fun e => e.2.launch == lid && e.2.mode != .retired && e.2.mode != .discarded
  let gids := live.map (·.1)
  let away := fun (g : Group) => match g.mode with | .saved _ => true | _ => false
  let saved := live.foldl (fun (s : State) e => if away e.2 then s else (s.saveGroup e.1 false).getD s) s
  let pendOf := fun (w : Warp) => match s.findWarp w.gid w.widx with | some wk => (match s.warp? wk with | some v => v.pend | none => []) | none => w.pend
  { launch := l
    groups := (saved.groups.filter fun e => gids.contains e.1).map fun (e : Nat × Group) =>
      (e.1, { e.2 with savedWarps := e.2.savedWarps.map fun (w : Warp) => { w with pend := pendOf w } })
    areas := live.map fun (e : Nat × Group) =>
      (e.1, if away e.2 then (match e.2.saveArea with | some a => (s.readArea a.1 a.2).getD [] | none => []) else s.saveImage e.1 false)
    privs := live.map fun (e : Nat × Group) => (e.1, s.privOf e.2 l)
    reqs := s.mem.reqs.filter fun r => gids.contains r.gid && !r.sluice
    watches := s.mem.watches.filter fun w => gids.contains w.gid
    ops := saved.ops.filter fun o => gids.contains o.gid }

/-- A group's image is put where a save area may lie. -/
def State.layImage (s : State) (gid : Nat) (bs : List Byte) : State :=
  match s.findArea bs.length with
  | none => s
  | some a => ((s.takeArea a bs.length).putArea a bs).modGroup gid fun g => { g with saveArea := some (a, bs.length) }

/-- A group of the third run gets private areas of its own, with what its image holds. -/
def State.layPriv (s : State) (gid bytes : Nat) (m : Memory) : State :=
  let a := (s.findArea bytes).getD Config.areaPa
  m.foldl (fun s e => s.rawWrite .hbm (a + e.1) [e.2]) ((((s.takeArea a bytes).rawWrite .hbm a (zeros bytes))).modGroup gid fun g => { g with privPa := a })

/-- R394: of an image, what belongs to one group; to all, where none is given. -/
def Image.only (im : Image) (solo : Option Nat) : Image :=
  match solo with
  | none => im
  | some i =>
    let gs := im.groups.filter fun (e : Nat × Group) => e.2.index == i
    let mine := fun (gid : Nat) => gs.any fun (e : Nat × Group) => e.1 == gid
    { im with
      launch := im.launch.again i, groups := gs, areas := im.areas.filter (fun (e : Nat × List Byte) => mine e.1), privs := im.privs.filter (fun (e : Nat × Memory) => mine e.1)
      reqs := im.reqs.filter (fun (r : Request) => mine r.gid), watches := im.watches.filter (fun (w : Watch) => mine w.gid), ops := im.ops.filter fun (o : EngOp) => mine o.gid }

/-- R394: the third run of a launch, or of one of its groups, is set up: from the image of the previous commit, or from the start of what was not
resident then. -/
def State.startThird (s : State) (lid key : Nat) (l : Launch) (solo : Option Nat) : State :=
  match ((Sparse.find s.images lid).map fun im => im.only solo).filter fun im => solo.isNone || !im.groups.isEmpty with
  | none => { s with launches := Sparse.insert s.launches key { l.again (solo.getD 0) with solo := solo } }
  | some im =>
    let off := s.fresh
    let s1 : State := { s with
      fresh := 2 * s.fresh + 1
      launches := Sparse.insert s.launches key { im.launch with resumes := [] }
      groups := im.groups.foldl (fun m e => Sparse.insert m (e.1 + off) (e.2.shift off key)) s.groups
      ops := s.ops ++ im.ops.map fun (o : EngOp) => { o with id := o.id + off, gid := o.gid + off }
      mem := { s.mem with
        reqs := s.mem.reqs ++ im.reqs.map fun (r : Request) => { r with id := r.id + off, grp := r.grp + off, gid := r.gid + off, pend := r.pend.map (· + off) }
        watches := s.mem.watches ++ im.watches.map fun (w : Watch) => { w with id := w.id + off, gid := w.gid + off, notified := true } } }
    im.privs.foldl (fun s e => s.layPriv (e.1 + off) (im.launch.kern.warps * 32 * 65536) e.2) (im.areas.foldl (fun s e => s.layImage (e.1 + off) e.2) s1)

/-- A launch copy has come as far as the commit needs. -/
def State.copyDone (s : State) (key : Nat) : Bool := match s.launch? key with | some l => l.hasArrived || s.runOver key l | none => false

/-- R392, R394: the check of a launch with two copies. -/
def State.checkDual (s : State) (lid : Nat) (l : Launch) : State :=
  let a := s.copyStream lid
  let b := s.copyStream (lid + 2 ^ 64)
  let third := lid + 2 * 2 ^ 64
  let pass := fun (s : State) (c : Nat) => s.modRun fun r => { r with checked := r.checked ++ [(lid, c)] }
  if s.sameStream a b then pass s 0
  else if (s.launch? third).isNone then s.startThird lid third l none
  else if !(s.copyDone third) then s
  else
    let c := s.copyStream third
    if s.sameStream a c then pass (s.outvote.dropRun third) 0
    else if s.sameStream b c then pass (s.outvote.dropRun third) 1
    else (s.mismatch lid [lid, lid + 2 ^ 64, third] none).dropRun third

/-- R393, R394: the check of a sampled group: `key` is its second run. -/
def State.checkSample (s : State) (lid key g : Nat) (l : Launch) : State :=
  let a := s.groupStream lid g
  let b := s.groupStream key g
  let third := key + 2 ^ 64
  let pass := fun (s : State) (c : Nat) => s.modRun fun r => { r with sampled := r.sampled ++ [(lid, g, c)] }
  if !(match s.launch? key with | some q => s.runOver key q | none => true) then s
  else if s.sameStream a b then pass s 0
  else if (s.launch? third).isNone then s.startThird lid third l (some g)
  else if !(s.copyDone third) then s
  else
    let c := s.groupStream third g
    if s.sameStream a c then pass (s.outvote.dropRun third) 0
    else if s.sameStream b c then pass (s.outvote.dropRun third) (key / 2 ^ 64)
    else (s.mismatch lid [lid, key, third] (some g)).dropRun third

/-- The stream that is committed for a launch, apart from its children's: that of the chosen copy, with those of outvoted groups
replaced. -/
def State.ownStream (s : State) (r : CommitRun) (lid : Nat) : List (Nat × Staged) :=
  let c := match r.checked.find? fun e => e.1 == lid with | some e => e.2 | none => 0
  let other := r.sampled.filter fun e => e.1 == lid && e.2.2 != 0
  let keep := (s.copyStream (lid + c * 2 ^ 64)).filter fun e => !(other.any fun o => match s.group? e.1 with | some g => g.index == o.2.1 | none => false)
  let repl := other.flatMap fun o => s.replStream lid (lid + o.2.2 * 2 ^ 64) o.2.1
  let index : Nat × Staged → Nat := fun e => match s.group? e.1 with | some g => g.index | none => 0
  repl.foldl (fun (l : List (Nat × Staged)) e =>
    l.takeWhile (fun (x : Nat × Staged) => decide (index x ≤ index e)) ++ e :: l.dropWhile fun (x : Nat × Staged) => decide (index x ≤ index e)) keep

/-- R390: a `callg` child that has ended gives its stream to its caller's. -/
def State.childOf (s : State) (r : CommitRun) (lid : Nat) : Option Nat :=
  match s.launch? lid with
  | none => none
  | some l =>
    match (if l.child && s.runOver lid l then l.parent else none) with
    | some p => if r.parts.contains p then (match s.launch? p with | some q => if q.kern.cls = 2 then some p else none | none => none) else none
    | none => none

/-- R390: the stream of a launch, with those of its children that have ended, in the order of their identifiers. -/
def State.fullStream (s : State) (r : CommitRun) : Nat → Nat → List (Nat × Staged)
  | 0, lid => s.ownStream r lid
  | fuel + 1, lid => s.ownStream r lid ++ (r.parts.filter fun k => s.childOf r k == some lid).flatMap fun k => s.fullStream r fuel k

/-- R391: the digest of a stream, with the launch's own count of commits (DEDUCED, log entry 70). -/
def State.digest (s : State) (commits : Nat) (es : List (Nat × Staged)) : BitVec 128 :=
  shake128of256 (bytesOfNat 8 commits ++ bytesOfNat 8 es.length ++ es.flatMap s.recordBytes)

def State.digestOf (s : State) (r : CommitRun) (lid : Nat) : BitVec 128 :=
  s.digest (match s.launch? lid with | some l => l.commits | none => 0) (s.fullStream r r.parts.length lid)

/-- R395: the launch exchanges digests with a peer; a child whose records are in its caller's stream does not (R390). -/
def State.exchanges (s : State) (l : Launch) : Bool := s.steps.peerEn && l.kern.cls == 2

/-- The launches that take part have streams: the strict ones. -/
def State.strictParts (s : State) (r : CommitRun) : List (Nat × Launch) :=
  r.parts.filterMap fun lid => match s.launch? lid with | some l => if l.kern.cls = 2 then some (lid, l) else none | none => none

/-- What a launch's copies staged before its arrival is dropped; the re-executions of its groups keep their streams for the next check. -/
def State.dropStream (s : State) (lid commits : Nat) : State :=
  { s with groups := s.groups.map fun (e : Nat × Group) =>
      (e.1, if e.2.launch % 2 ^ 64 == lid && decide (e.2.copy < 4) then { e.2 with staged := e.2.staged.filter fun r => decide (commits < r.step) }
        else e.2) }.dropTicketsLost

def State.setHeld (s : State) : State := { s with steps := { s.steps with held := s.launches.any fun e => e.2.held } }

/-- R395: the peer's digest is compared; a held commit of a cancelled launch is discarded. -/
def State.checkPeer (s : State) (r : CommitRun) (lid : Nat) (l : Launch) : State :=
  match (if s.exchanges l then l.peerDigest else none) with
  | none => s
  | some d =>
    let own := s.digestOf r lid
    if l.held && l.cancelled then
      let s1 := s.dropStream lid l.commits
      (s1.modLaunch lid fun l => { l with held := false, peerDigest := some (s1.digestOf r lid) }).setHeld
    else if d = own then (s.modLaunch lid fun l => { l with held := false }).setHeld
    else (s.modLaunch lid fun l => { l with held := true }).setHeld

/-- R389: phase 2 takes its checks further: first the copies and the sampled groups, then the peers. -/
def State.phase2 (s : State) (r : CommitRun) : State :=
  let strict := s.strictParts r
  let dual := strict.filter fun e => !(r.checked.any fun c => c.1 == e.1)
  let samples := strict.flatMap fun e => ((s.samplesOf e.1).filter fun k => !(r.sampled.any fun q => q.1 == e.1 && q.2.1 == k.2)).map fun k => (e.1, k, e.2)
  match dual, samples with
  | (lid, l) :: _, _ =>
    if (s.launch? (lid + 2 ^ 64)).isSome then s.checkDual lid l else s.modRun fun r => { r with checked := r.checked ++ [(lid, 0)] }
  | [], (lid, k, l) :: _ => s.checkSample lid k.1 k.2 l
  | [], [] =>
    let own := strict.filter fun e => (s.childOf r e.1).isNone
    let s1 := own.foldl (fun s e => s.checkPeer r e.1 e.2) s
    let ok := strict.all fun e => match s1.launch? e.1 with
      | some l => l.resumes.isEmpty && (!(s1.exchanges l) || (s.childOf r e.1).isSome || l.peerDigest == some (s1.digestOf r e.1))
      | none => true
    if ok then s1.modRun fun r => { r with phase := 3 } else s1

def execPeerDigestExchange (launch : Word) (digest : BitVec 128) (s : State) : Out :=
  .next (if s.steps.peerEn then s.modLaunch launch.toNat fun l => if l.peerDigest.isNone then { l with peerDigest := some digest } else l else s)

/-- R395: the held step is committed. -/
def State.resume (s : State) : State :=
  match s.steps.run with
  | none => s
  | some r =>
    (s.launches.foldl (fun s e => if e.2.held then s.modLaunch e.1 fun l => { l with held := false, peerDigest := some (s.digestOf r e.1) } else s) s).setHeld

def execReplResume (s : State) : Out := .next (if s.steps.held then s.resume else s)

/-! ### Phase 3: the streams are performed -/

/-- The next record, with its launch and its group. -/
def State.nextRecord (s : State) (r : CommitRun) : Option (Nat × Nat × Staged) :=
  ((s.strictParts r).filter fun e => (s.childOf r e.1).isNone).findSome? fun e =>
    (s.fullStream r r.parts.length e.1).head?.map fun q => ((match s.group? q.1 with | some g => g.launch % 2 ^ 64 | none => e.1), q.1, q.2)

/-- R239, R255, R465: a record can be performed: what comes before it in its thread has completed where it is a release or follows one, a
release's thread has no earlier read that is still to be performed, and no read of its launch is on its way back with the old line. -/
def State.recordClear (s : State) (r : CommitRun) (lid gid : Nat) (x : Staged) : Bool :=
  (decide (x.order < 2 ∧ x.epoch = 0) || s.timePasses r.doneAt) && s.releaseClear (x.request gid s.fresh)
    && s.mem.reqs.all fun q => q.sluice || q.stage == .posted || !(q.lines.contains (lineKey x.tgt x.pa))
      || (match s.group? q.gid with | some g => g.launch % 2 ^ 64 != lid | none => true)

/-- R389: a record acts at memory: a write completes, or meets a fault that its thread takes as far as it still runs (R263, R266). -/
def State.actRecord (s : State) (gid : Nat) (x : Staged) : State :=
  let h := max 1 (match s.steps.run with | some r => r.doneAt | none => 0)
  let q := let r := x.request gid s.fresh; { r with accs := r.accs.map fun a => { a with hz := h } }
  match s.refusal q with
  | some cause => s.refuse q cause
  | none =>
    let p := performAll (fun s a => s.writeOne q a) q.accs (s.noteRequest q)
    let c := s.completion x.tgt x.pa
    ((p.1.noteDone gid c).parkNr { q with accs := p.2 }).modRun fun r => { r with doneAt := max r.doneAt (max 1 c) }

/-- R384, R393: a record leaves the buffers of a group, which is flushable no longer; a sampled group keeps it for its check. -/
def Group.commit (g : Group) (x : Staged) (keep : Bool) : Group :=
  { g with staged := g.staged.eraseP fun y => x.same y
           performed := if keep then g.performed ++ [x] else g.performed, released := true }

/-- R389: a record is performed at memory, and leaves the buffers of every copy. It is a release of the launch (R386). -/
def State.performRecord (s : State) (lid gid : Nat) (x : Staged) : State :=
  let index := match s.group? gid with | some g => g.index | none => 0
  let line := lineKey x.tgt x.pa
  let keep := fun (g : Group) => match s.launch? g.launch with | some l => s.samples l g | none => false
  let s1 := (s.groups.filter fun e => e.2.launch % 2 ^ 64 == lid && e.2.mode.present).foldl (fun s e => (s.dropLines e.2.core [line]).barFills e.2.core [line])
    (s.actRecord gid x)
  let s2 := (s1.twins lid).foldl (fun s e => s.modLaunch e.1 fun l => { l with lastRelease := s.ns }) s1
  { s2 with groups := s2.groups.map fun (e : Nat × Group) =>
      (e.1, if e.2.launch % 2 ^ 64 == lid && e.2.index == index && decide (e.2.copy < 4) then e.2.commit x (keep e.2) else e.2) }.dropTicketsLost

/-- R467: the record that a commit performs next waits for raw storage of the image pool. -/
def State.recordHeld (s : State) : Bool :=
  match s.steps.run with
  | some r => r.phase == 3 && match s.nextRecord r with
    | some (lid, gid, x) => s.recordClear r lid gid x && s.poolShort (s.performRecord lid gid x)
    | none => false
  | none => false

/-- R467: HPOOL_PRESSURE_MOVE: while a write to the pool is held for raw storage, a page leaves the pool. -/
def State.pressure (s : State) : State :=
  if (s.mem.reqs.any fun r => s.canPerform r && s.poolHeld r) || s.ops.any s.opHeld || s.recordHeld then s.pressureMove else s

def execHpoolPressureMove (s : State) : Out := .next s.pressure

/-- R389: phase 3 performs the next record, unless the page pool holds its write (R467), or ends: what is left in the buffers of outvoted
copies is dropped, and so are the re-executions. -/
def State.phase3 (s : State) (r : CommitRun) : State :=
  match s.nextRecord r with
  | some (lid, gid, x) => if s.recordClear r lid gid x then s.poolGuard (s.performRecord lid gid x) else s
  | none =>
    if !(s.timePasses r.doneAt) then s
    else
      let s1 := (s.strictParts r).foldl (fun s e => s.dropStream e.1 e.2.commits) s
      let s2 := r.sampled.foldl (fun s e => s.dropRun (e.1 + (4 + 2 * e.2.1) * 2 ^ 64)) s1
      (s2.modRun fun r => { r with phase := 4 }).wakeBuffer

/-! ### Phase 7: the release (R388) -/

/-- The register number that a thread waits at `step` with. -/
def Thread.stepDst (t : Thread) : Option (BitVec 6) := match t.waits with | some (.step false _ d) => d | _ => none

/-- The threads of a warp that wait at `step`. -/
def Warp.atStep (w : Warp) (held : Bool) : Mask := w.which fun t => match t.waits with | some (.step h _ _) => h == held | _ => false

/-- R388: the arrived threads of a warp are released, and receive the commit number. -/
def State.releaseStep (s : State) (wk n : Nat) : State :=
  match s.warp? wk with
  | none => s
  | some w =>
    let m := w.atStep false
    if m = 0 then s
    else
      let s1 := (List.range 64).foldl (fun s k =>
        let d := BitVec.ofNat 6 k
        s.writeVec wk d (m &&& w.which fun t => t.stepDst == some d) 0 fun _ => BitVec.ofNat 64 n) s
      (s1.release wk m).noteSync wk

/-- A saved warp whose arrived threads are released. -/
def Warp.releaseStep (w : Warp) : Warp := w.modThreads (w.atStep false) fun _ t => t.wake

/-- What its threads receive, to be written when it is restored. -/
def Warp.stepGot (w : Warp) (n : Nat) : List (Nat × Mask × BitVec 6 × Word) :=
  (List.range 64).filterMap fun k =>
    let hit := w.atStep false &&& w.which fun t => t.stepDst == some (BitVec.ofNat 6 k)
    if hit = 0 then none else some (w.widx, hit, BitVec.ofNat 6 k, BitVec.ofNat 64 n)

/-- R388: the held threads of a warp arrive for the next count; those that mismatch are parked, or, in a saved warp, go back to the
instruction. -/
def State.rearrive (s : State) (lid gid widx : Nat) (w : Warp) : State :=
  (Mask.lanes (w.atStep true)).foldl (fun s (i : Fin 32) =>
    match w.threads[i].waits with
    | some (.step true n d) =>
      let bit := maskOf fun j => j == i
      let r := s.stepArrive lid gid n [i]
      let held := r.2.2.getLsbD i
      let set := fun (v : Warp) => v.modThreads bit fun _ t => match t.st with
        | .waiting _ next => { t with st := .waiting (.step held n d) next }
        | _ => t
      let back := fun (v : Warp) => v.modThreads bit fun _ t => { t with st := .ready }
      match s.findWarp gid widx with
      | some wk =>
        if r.2.1.getLsbD i then r.1.parkWaiting wk 0x0A bit 0 fun t => t.pc else r.1.modWarp wk set
      | none =>
        r.1.modGroup gid fun g => { g with savedWarps := g.savedWarps.map fun (v : Warp) =>
          if v.widx = widx then (if r.2.1.getLsbD i then back v else set v) else v }
    | _ => s) s

/-- R388: a launch copy's arrived threads are released, and its held threads arrive. -/
def State.releaseCopy (s : State) (key n : Nat) : State :=
  let gs := (s.groups.filter fun e => e.2.launch == key).map (·.1)
  let s1 := (s.warps.filter fun e => gs.contains e.2.gid).foldl (fun s e => s.releaseStep e.1 n) s
  let s2 := { s1 with groups := s1.groups.map fun (e : Nat × Group) =>
    (e.1, if e.2.launch == key then { e.2 with stepGot := e.2.stepGot ++ e.2.savedWarps.flatMap (fun (w : Warp) => w.stepGot n), savedWarps := e.2.savedWarps.map Warp.releaseStep }
      else e.2) }
  let s3 := s2.modLaunch key fun l =>
    { l with commits := l.commits + 1, arrived := 0, hasArrived := false, stepCount := none, counted := [], peerDigest := none, held := false }
  gs.foldl (fun s gid =>
    match s.group? gid with
    | none => s
    | some g => (((s.warpsOf gid).map (·.2)) ++ g.savedWarps).foldl (fun s w => s.rearrive key gid w.widx w) s) s3

/-- R394: a strict launch has an image written at each commit. -/
def keepsImage (e : Nat × Launch) : Bool := decide (e.1 < 2 ^ 64) && e.2.kern.cls == 2

/-- R293, R309, R394: what the engines still do for a launch that keeps images has come to where a save may stop it: an operation that
cannot go on, for want of room in a buffer, is kept by the image as it stands (DEDUCED, log entry 119). -/
def State.imageReady (s : State) (lid : Nat) : Bool :=
  (s.groups.filter fun e => e.2.launch == lid && e.2.mode.present).all fun e =>
    let t := s.gantry (e.2.core / 4)
    let stuck := s.stuckIds (e.2.core / 4)
    t.passes.all (fun p => p.reqs.all fun (q : MmaReq × List (List (BitVec 32))) => q.1.gid != e.1)
      && t.table.all (fun m => m.gid != e.1 || stuck.contains m.id || !(s.mmaReady (e.2.core / 4) m))
      && s.ops.all (fun o => o.gid != e.1 || o.done || s.opBlocked o || stuck.contains o.id || (o.pages == [] && s.advanceOp o == s))

/-- R394: the images are written anew. -/
def State.takeImages (s : State) : State :=
  { s with images := s.launches.filterMap fun e => if keepsImage e then some (e.1, s.imageOf e.1 e.2) else none }

/-- R389, phase 7: STEP_NUM rises, the arrived threads go on, and images are written. -/
def State.phase7 (s : State) (r : CommitRun) : State :=
  if !(s.launches.all fun e => !(keepsImage e) || s.imageReady e.1) then s
  else
    let keys := r.parts.flatMap fun lid => (s.twins lid).map (·.1)
    let s1 := { s with steps := { s.steps with stepNum := s.steps.stepNum + 1, run := none } }
    (keys.foldl (fun s k => s.releaseCopy k r.n) s1).setHeld.takeImages

/-- R389: a COMMIT step. -/
def State.commitStep (s : State) : State :=
  match s.steps.run with
  | none => s.beginCommit
  | some r =>
    match r.phase with
    | 1 => if s.phase1Over r then s.modRun fun r => { r with phase := 2 } else s
    | 2 => s.phase2 r
    | 3 => s.phase3 r
    | 4 => (match s.commitSwaps with | some s1 => s1.modRun fun r => { r with phase := 5 } | none => s)
    | 5 => s.commitPages.modRun fun r => { r with phase := 7 }
    | _ => s.phase7 r

def execCommit (s : State) : Out := .next (if s.firm.running then s.commitStep else s)

end Sys2Proof.Machine
end

