-- ==== Sys2Proof/Machine/CrossLane.lean ====
section
/-! DEFINITION. Class 0x7, cross-lane instructions (spec 09, R194 to R210). -/

namespace Sys2Proof.Machine

/-! ### Member masks (R195, R196) -/

/-- The guard bits that arrived threads of a mask read. -/
def Warp.arrivedAct (w : Warp) (m : Mask) : Mask :=
  maskOf fun i => m.getLsbD i && (match w.threads[i].waits with | some (.member _ a) => a | _ => false)

/-- A thread that is released to issue its `.m` instruction. -/
def Thread.unhold (t : Thread) : Thread := { t with st := .ready, wait := 0 }

/-- The issue of released members: one thread set, with the guards read at arrival. -/
def Ctx.members (c : Ctx) (w : Warp) (rel : Mask) (z : Bool) : Ctx :=
  let act := w.arrivedAct rel
  { c with w := w.modThreads rel fun _ t => t.unhold, set := rel, act := act, zero := if z then rel &&& ~~~ act else 0 }

/-- What an instruction of the class does once it issues: its bound is 32 (R193). -/
def Ctx.crossOp (c : Ctx) (x : Ext) (o : Ctx → VOp) (s : State) : State :=
  let op := { o c with bound := some 32 }
  match op.dst with
  | .vec d => c.charged s d 32 (c.results x op)
  | _ => c.results x op s

/-- The shared operation of the class, for what the instruction does once it issues: issue at once, or arrive, and issue with the
last member. -/
def crossWith (x : Ext) (go : Ctx → State → State) (s : State) : State :=
  issuing x s fun c s1 =>
    if !x.mb 31 then go c s1
    else
      let s2 := c.hold s1 c.set fun i => .member (x.l32 ||| (1#32 <<< i.val)) (c.act.getLsbD i)
      let s3 := match s2.warp? c.wk with | some w => s2.parkWaiting c.wk 0x0B w.incomplete 0 fun t => t.pc | none => s2
      match s3.warp? c.wk with
      | none => s3
      | some w =>
        let rel := w.membersReady c.pc
        if rel = 0 then (c.executed s3).settle c.wk
        else
          let c1 := c.members w rel x.z
          ((go c1 (s3.setWarp c.wk c1.w)).parkHeld c.wk rel).settle c.wk

/-- The shared operation of the instructions that give results. -/
def crossLane (x : Ext) (o : Ctx → VOp) (s : State) : State := crossWith x (fun c s1 => c.crossOp x o s1) s

/-! ### Moving values (R198 to R200, R208) -/

/-- R198: the source lane. -/
def shflLane (mode width t b : Nat) : Nat :=
  let base := t / width * width
  match mode with
  | 0 => base + b % width
  | 1 => if base + b ≤ t then t - b else t
  | 2 => if t + b < base + width then t + b else t
  | _ => base + ((t - base) ^^^ (b % width))

/-- A lane's value, by number. -/
def Ctx.laneReg (c : Ctx) (r : BitVec 6) (l : Nat) : Word := runsGet c.w.regs[r.toFin].runs l

def execShfl (x : Ext) (s : State) : Out :=
  .next (crossLane x (fun c =>
    { key := { opc := 0x0E0, a := x.srcA, b := x.srcB, dst := some x.d }, dst := .vec x.d, long := true
      out := fun i => plain (c.laneReg x.a (shflLane (x.m 23 2) (32 / 2 ^ x.m 25 3) i (c.src x.srcB i).toNat)) }) s)

/-- R199: the lane that `bcast` names. -/
def Ctx.bcastLane (c : Ctx) (x : Ext) : Nat := match Mask.lowest c.act with | some i => (c.src x.srcB i).toNat % 32 | none => 0

def execBcast (x : Ext) (s : State) : Out :=
  .next (crossLane x (fun c =>
    { key := { opc := 0x0E1, a := x.srcA, b := x.srcB, dst := some x.d }, dst := .vec x.d, long := true
      out := fun _ => plain (c.laneReg x.a (c.bcastLane x)) }) s)

/-- R200: one element of a table spread over the warp. -/
def Ctx.tableEntry (c : Ctx) (r : BitVec 6) (w k : Nat) : Nat := if 32 * (64 / w) ≤ k then 0 else elem w (c.laneReg r (k / (64 / w))) (k % (64 / w))

def execXtab (x : Ext) (s : State) : Out :=
  .next (crossLane x (fun c =>
    { key := { opc := 0x0E7, a := x.srcA, b := x.srcB, dst := some x.d }, dst := .vec x.d, long := true
      out := fun i => plain (ofElems (tyWidth x.ty.toNat) ((elems (tyWidth x.ty.toNat) (c.src x.srcB i)).map (c.tableEntry x.a (tyWidth x.ty.toNat)))) }) s)

/-- R206: the element width of a pattern table body. Admission rejects a body that breaks the layout (R57; DEDUCED, log entry 66). -/
def patWidth (body : List Byte) : Nat := 8 * 2 ^ (body.getD 0 0).toNat

/-- R206: entry `n` of a body. -/
def patEntry (body : List Byte) (n : Nat) : Nat := natOfBytes ((body.drop (8 + 2 * n)).take 2)

/-- R208: one element. -/
def Ctx.patElem (c : Ctx) (x : Ext) (w p : Nat) : Nat :=
  if p.testBit 9 then 0 else elem w (c.laneReg (if p.testBit 8 then x.b else x.a) (p % 32)) (p / 32 % 8)

/-- R207: the table in a slot of the warp's group. -/
def State.patternOf (s : State) (w : Warp) (k : Nat) : Option (List Byte × Nat) :=
  match s.groupOf w with | some g => Sparse.find g.pats k | none => none

/-- R208: a lane's value through a pattern. -/
def Ctx.patValue (c : Ctx) (x : Ext) (body : List Byte) (i : Fin 32) : Word :=
  let w := patWidth body
  ofElems w ((List.range (64 / w)).map fun e => c.patElem x w (patEntry body (8 * i + e)))

/-- R208: an unloaded slot parks the active lanes, and the instruction has no other effect. -/
def xpatGo (x : Ext) (c : Ctx) (s : State) : State :=
  match s.patternOf c.w x.c.toNat, decide (c.act = 0) with
  | none, false => c.charged s x.d 32 fun s1 => c.fault (c.advance (c.executed s1) c.act) 0x08 c.act fun _ => 0
  | pat, _ =>
    let body := match pat with | some p => p.1 | none => []
    let tag := match pat with | some p => p.2 | none => 0
    c.crossOp x (fun c =>
      { key := { opc := 0x0E6, a := x.srcA, b := x.srcB, cTag := some (BitVec.ofNat 26 tag), dst := some x.d }
        dst := .vec x.d, long := true, out := fun i => plain (c.patValue x body i) }) s

def execXpat (x : Ext) (s : State) : Out := .next (crossWith x (xpatGo x) s)

/-! ### Votes and matches (R201, R202) -/

/-- R201. -/
def voteBit (mode : Nat) (act g : Mask) : Bool :=
  match mode with
  | 0 => act &&& ~~~ g == 0
  | 1 => act &&& g != 0
  | _ => act &&& ~~~ g == 0 || act &&& g == 0

def execVote (x : Ext) (s : State) : Out :=
  .next (crossLane x (fun c =>
    let g := c.guard x.a.toNat
    { key := { opc := 0x0E2, guards := [x.a.toNat], dst := if x.m 23 2 = 3 then some x.d else none }
      dst := if x.m 23 2 = 3 then .vec x.d else .guard x.d.toNat, long := true
      out := fun _ => .value ((c.act &&& g).setWidth 64) (voteBit (x.m 23 2) c.act g) 0 0 }) s)

/-- R202: two elements are equal. -/
def matchElem (f : FFmt) (a b : Nat) : Bool := !f.isNan a && !f.isNan b && (a == b || (f.isZero a && f.isZero b))

/-- R202: two keys are equal. -/
def matchKey (ty : Nat) (a b : Word) : Bool :=
  if ty < 9 then a == b else (List.range (64 / tyWidth ty)).all fun e => matchElem (tyFmt ty) (elem (tyWidth ty) a e) (elem (tyWidth ty) b e)

/-- R202: what a lane receives: its own bit is always in its mask. -/
def Ctx.matched (c : Ctx) (x : Ext) (i : Fin 32) : Mask :=
  let eq := fun (j k : Fin 32) => j == k || matchKey x.ty.toNat (c.reg x.a j) (c.reg x.a k)
  if x.mb 23 then
    (if (Mask.lanes c.act).all fun j => (Mask.lanes c.act).all fun k => eq j k then c.act else 0)
  else maskOf fun j => c.act.getLsbD j && eq i j

def execMatchLanes (x : Ext) (s : State) : Out :=
  .next (crossLane x (fun c =>
    { key := { opc := 0x0E3, a := x.srcA, dst := some x.d }, dst := .vec x.d, long := true
      out := fun i => plain ((c.matched x i).setWidth 64) }) s)

/-! ### Reductions and scans (R203 to R205) -/

/-- A node of a tree: absent, or a pattern with the flags raised below and at it. -/
abbrev Node := Option (Nat × BitVec 5)

/-- R203: two nodes combined. -/
def combine (op : Nat → Nat → Nat × BitVec 5) (p q : Node) : Node :=
  match p, q with
  | none, q => q
  | p, none => p
  | some (a, f), some (b, g) => some ((op a b).1, f ||| g ||| (op a b).2)

/-- One level of a tree. -/
def pairUp (op : Nat → Nat → Nat × BitVec 5) : List Node → List Node
  | p :: q :: rest => combine op p q :: pairUp op rest
  | rest => rest

/-- The root over 2^m leaves. -/
def treeRoot (op : Nat → Nat → Nat × BitVec 5) : Nat → List Node → Node
  | 0, ls => ls.headD none
  | m + 1, ls => treeRoot op m (pairUp op ls)

/-- R205: the prefix of the first `c` leaves, by blocks of 2^k, the largest first, combined left to right:
`acc` is what the blocks before these leaves gave. -/
def treePrefix (op : Nat → Nat → Nat × BitVec 5) : Nat → Nat → List Node → Node → Node
  | 0, c, ls, acc => if c % 2 = 1 then combine op acc (ls.headD none) else acc
  | k + 1, c, ls, acc =>
    if c / 2 ^ (k + 1) % 2 = 1 then
      treePrefix op k c (ls.drop (2 ^ (k + 1))) (combine op acc (treeRoot op (k + 1) (ls.take (2 ^ (k + 1)))))
    else treePrefix op k c ls acc

/-- R203: an op on two elements, in a rounding mode and FTZ. -/
def redOp (ty op mode : Nat) (ftz : Bool) (a b : Nat) : Nat × BitVec 5 :=
  let f := tyFmt ty
  let w := tyWidth ty
  if 9 ≤ ty then
    match op with
    | 0 => fpAdd f mode ftz (f.read ftz a) (f.read ftz b)
    | 1 => fpMinNum f false a b
    | _ => fpMinNum f true a b
  else
    match op with
    | 0 => ((a + b) % 2 ^ w, 0)
    | 1 => (if tyVal ty b < tyVal ty a then b else a, 0)
    | 2 => (if tyVal ty a < tyVal ty b then b else a, 0)
    | 3 => (a &&& b, 0)
    | 4 => (a ||| b, 0)
    | _ => (a ^^^ b, 0)

/-- A leaf: an active lane's element, flushed where FTZ says so. -/
def Ctx.leafOf (c : Ctx) (x : Ext) (ftz : Bool) (i : Fin 32) (e : Nat) : Node :=
  let ty := x.ty.toNat
  let v := elem (tyWidth ty) (c.reg x.a i) e
  if c.act.getLsbD i then some (if 9 ≤ ty then (tyFmt ty).read ftz v else v, 0) else none

/-- A lane's pair of rounding mode and FTZ. -/
def Ctx.roundPair (c : Ctx) (x : Ext) (i : Fin 32) : Nat × Bool :=
  if 9 ≤ x.ty.toNat then (c.w.threads[i].rounding x.rm, c.w.threads[i].flushes x.ty.toNat) else (0, false)

/-- R204: the result and flags of one pair's trees. -/
def Ctx.reduce (c : Ctx) (x : Ext) (p : Nat × Bool) : Nat × BitVec 5 :=
  let ty := x.ty.toNat
  let n := 64 / tyWidth ty
  let op := redOp ty (x.m 23 3) p.1 p.2
  if x.mb 26 then
    ((treeRoot op (5 + Nat.log2 n) (lanes.flatMap fun i => (List.range n).map (c.leafOf x p.2 i))).getD (0, 0))
  else
    let roots := (List.range n).map fun e => (treeRoot op 5 (lanes.map fun i => c.leafOf x p.2 i e)).getD (0, 0)
    (packElems (tyWidth ty) (roots.map (·.1)), roots.foldl (fun f r => f ||| r.2) 0)

/-- The values of a function on the pairs that the active lanes hold, each computed once. -/
def Ctx.perPair {α : Type} (c : Ctx) (x : Ext) (f : Nat × Bool → α) : List ((Nat × Bool) × α) :=
  ((Mask.lanes c.act).map (c.roundPair x)).dedup.map fun p => (p, f p)

def execVred (x : Ext) (s : State) : Out :=
  .next (crossLane x (fun c =>
    let table := c.perPair x (c.reduce x)
    { key := { opc := 0x0E4, a := x.srcA, dst := some x.d }, dst := .vec x.d, long := true
      out := fun i => match table.find? fun e => e.1 == c.roundPair x i with
        | some (_, v, f) => .value (BitVec.ofNat 64 v) false f 0
        | none => plain 0 }) s)

/-- R205: the value of an empty prefix. -/
def scanEmpty (ty op : Nat) : Nat :=
  let f := tyFmt ty
  if 9 ≤ ty then (match op with | 0 => 0 | 1 => f.inf false | _ => f.inf true)
  else
    match op with
    | 1 => wrap (tyWidth ty) (tyMax ty)
    | 2 => wrap (tyWidth ty) (tyMin ty)
    | 3 => 2 ^ tyWidth ty - 1
    | _ => 0

/-- R205: what a lane receives. -/
def Ctx.scan (c : Ctx) (x : Ext) (i : Fin 32) : LaneOut :=
  let ty := x.ty.toNat
  let p := c.roundPair x i
  let op := redOp ty (x.m 23 3) p.1 p.2
  let count := if x.mb 27 then i.val else i.val + 1
  let rs := (List.range (64 / tyWidth ty)).map fun e =>
    (treePrefix op 5 count (lanes.map fun j => c.leafOf x p.2 j e) none).getD (scanEmpty ty (x.m 23 3), 0)
  .value (BitVec.ofNat 64 (packElems (tyWidth ty) (rs.map (·.1)))) false (rs.foldl (fun f r => f ||| r.2) 0) 0

def execVscan (x : Ext) (s : State) : Out :=
  .next (crossLane x (fun c =>
    { key := { opc := 0x0E5, a := x.srcA, dst := some x.d }, dst := .vec x.d, long := true, out := c.scan x }) s)

/-! ### Election and the active set (R209, R210) -/

def execElect (x : Ext) (s : State) : Out :=
  .next (crossLane x (fun c =>
    { key := { opc := 0x0E8 }, dst := .guard x.d.toNat, long := true, reuse := false
      out := fun i => .value 0 (Mask.lowest c.act == some i) 0 0 }) s)

/-- R210. -/
def lanesValue (q : Nat) (act : Mask) (i : Fin 32) : Word :=
  match q with
  | 0 => act.setWidth 64
  | 1 => BitVec.ofNat 64 (Mask.count act)
  | 2 => BitVec.ofNat 64 ((Mask.lanes act).filter fun j => decide (j < i)).length
  | _ => match Mask.lowest act with | some j => BitVec.ofNat 64 j | none => 0

def execLanes (x : Ext) (s : State) : Out :=
  .next (vectorOp x (fun c =>
    { key := { opc := 0x0E9, dst := some x.d }, dst := .vec x.d, bound := some 32, long := true
      out := fun i => plain (lanesValue (x.m 23 2) c.act i) }) s)

end Sys2Proof.Machine
end

