-- ==== Sys2Proof/Machine/Firmware.lean ====
section
/-! DEFINITION. The Harbourmaster, the Breakwater and the Portcullis (spec 19, R432 to R436, R440, R466; 01, R8): boot and reset, the
arithmetic clock under limits, alarms, and the mailbox commands. -/

namespace Sys2Proof.Machine

/-! ### Reset (R432, R436) -/

/-- Real time in ns since power-on. -/
def State.wallNs (s : State) : Nat := s.firm.wall + s.ns

/-- R436: the home cache is cleared: of a line that it has written and not written back, memory still holds what lies beneath it. -/
def State.clearHome (s : State) : State :=
  s.mem.lines.foldl (fun s e =>
    match (Sparse.find s.mem.lines e.1).bind (·.below) with
    | none => s
    | some (bs, raw) =>
      let old := (List.range 128).map fun k => bs.getD k 0
      let line := e.1 % 2 ^ 64
      match e.1 / 2 ^ 64, raw with
      | 0, none => s.write .hbm (128 * line) old
      | 0, some r => let s1 := s.write .hbm (128 * line) old; { s1 with mem := { s1.mem with raw := Sparse.insert s1.mem.raw line r, failed := line :: s1.mem.failed } }
      | 1, _ => s.rawWrite .lp (128 * line) old
      | _, _ => s) s

/-- The device after a reset in which firmware runs or not. HBM, the LP tier, flash, and what the host and other modules hold, keep
their contents, and with HBM the descriptors and summaries that stand in it; the protected store keeps its own (DESIGN CHOICE, log entry 5) (DEDUCED, log entry 71). -/
def State.restart (s0 : State) (runs : Bool) : State :=
  let s := s0.clearHome
  let r := State.reset
  { r with
    mem := { r.mem with hbm := s.mem.hbm, lp := s.mem.lp, host := s.mem.host, peers := s.mem.peers, raw := s.mem.raw, failed := s.mem.failed }
    pages := { r.pages with descs := s.pages.descs, sums := s.pages.sums, flash := s.pages.flash }
    firm := { s.firm with running := runs, wall := s.wallNs, staged := none, signing := false, rateCap := r.firm.rateCap, resetCap := r.firm.resetCap
                          stepFloor := r.firm.stepFloor, unlocks := 0, cmd := 0, status := 0, args := Vector.replicate 8 0, ptIdx := 0, hsSel := 0 }
    turns := s.turns, fresh := s.fresh }

/-- R436: an alarm is logged; the log keeps the latest 256. -/
def State.logAlarm (s : State) (level source : Nat) : State :=
  let log := s.firm.log ++ [{ time := s.ns, level := level, source := source }]
  { s with firm := { s.firm with log := log.drop (log.length - 256) } }

/-- R432: an accepted image may ask for blown bits up to its own version: the fuse's 64 bits are never mended. -/
def raisedFuse (old new : Nat) : Nat := max old (min 64 new)

/-- R432: a reset whose boot check accepts the image of the boot flash, or not; a failure is an alarm of level 1 (DEDUCED, log entry 87). -/
def State.boot (s : State) (accepted : Bool) : State :=
  let s1 := s.restart accepted
  let s2 := { s1 with firm := { s1.firm with image := 0, code := none, fuse := if accepted then raisedFuse s1.firm.fuse (Config.bootFuse s1.firm.fuse) else s1.firm.fuse } }
  if accepted then s2 else s2.logAlarm 1 1

/-- R432: a reset that an alarm or a trip makes: the boot ROM checks the image again. -/
def State.reboot (s : State) : State := s.boot (Config.bootAccepted s.firm.fuse)

def execDeviceReset (accepted : Bool) (s : State) : Out := .next (s.boot accepted)

/-! ### The clock (R8, R435, R440) -/

/-- The step of the clock under its limits, and firmware's (R435): each power limit lowers it by one (DEDUCED, log entry 75). -/
def clockStep (floor : Nat) (ls : List ClockLimit) : Nat := if ls.any (· != .power) then 3 else min 3 (max floor ls.length)

def State.setLimits (s : State) (ls : List ClockLimit) : State := { s with clock := { s.clock with limits := ls, step := clockStep s.firm.stepFloor ls } }

/-- A limit is reached: a power limit lowers the clock a step further, while it can. -/
def State.limit (s : State) (l : ClockLimit) : State :=
  let ls := s.clock.limits
  if l = .power then (if (ls.filter (· == .power)).length < 3 then s.setLimits (ls ++ [l]) else s)
  else if ls.contains l then s else s.setLimits (ls ++ [l])

def execBreakwaterPowerLimit (s : State) : Out := .next (s.limit .power)
def execRailCurrentLimit (s : State) : Out := .next (s.limit .current)
def execThermalThrottle (s : State) : Out := .next (s.limit .thermal)
def execCoolantFlowLow (s : State) : Out := .next (s.limit .coolant)

/-- R8: a limit has cleared. -/
def execClockLimitClears (limit : ClockLimit) (s : State) : Out := .next (s.setLimits (s.clock.limits.filter (· != limit)))

/-- R435: the rails go off, and the device is reset: HBM loses its contents (DESIGN CHOICE, log entry 4). -/
def State.trip (s : State) : State :=
  let s1 := s.reboot
  { s1 with mem := { s1.mem with hbm := [], raw := [], failed := [] }, pages := { s1.pages with descs := [], sums := [] } }

def execThermalTrip (s : State) : Out := .next s.trip

/-! ### The Portcullis (R436) -/

/-- R434, R436: the identity key, its counter and what derives from it are erased. -/
def State.eraseKeys (s : State) : State := { s with firm := { s.firm with erased := true, index := 0 } }

/-- R436: what an alarm of a level does. -/
def State.alarm (s : State) (level source : Nat) : State :=
  let s1 := s.logAlarm level source
  match level with
  | 1 => s1
  | 2 => s1.reboot
  | _ => s1.eraseKeys.reboot

/-- R436: a debug unlock without a signed token. -/
def State.unlockAttempt (s : State) : State :=
  let n := s.firm.unlocks + 1
  ({ s with firm := { s.firm with unlocks := n } }).alarm (if 3 ≤ n then 3 else 1) 2

def execDebugUnlockAttempt (s : State) : Out := .next s.unlockAttempt

/-- R436: the sources, in the order of the table. -/
def State.sensorAlarm (s : State) (source : Nat) : State :=
  match source with
  | 1 => s.alarm 1 1
  | 2 => s.unlockAttempt
  | 3 => s.alarm 2 3
  | 4 => s.alarm 3 4
  | 5 => s.alarm 3 5
  | 6 => s.alarm 3 6
  | _ => s

def execPortcullisAlarm (source : Nat) (s : State) : Out := .next (s.sensorAlarm source)

/-! ### The mailbox (R433, R466) -/

/-- A command ends with a status and a result. -/
def State.answer (s : State) (status result : Nat) : State :=
  { s with firm := { s.firm with cmd := 0, status := BitVec.ofNat 64 (status + result * 2 ^ 32) } }

/-- A command acts when it is the one that MB_CMD holds. -/
def onCommand (code : Nat) (s : State) (f : State → State) : Out := .next (if s.firm.cmd = code then f s else s)

/-- R435: a write of host memory by DMA; what lies outside the ranges that the host grants is discarded. -/
def State.dmaWrite (s : State) (pa : Nat) (bs : List Byte) : State :=
  bs.zipIdx.foldl (fun s e => if Config.dmaGranted (pa + e.2) then s.rawWrite .host (pa + e.2) [e.1] else s) s

/-- R435: a read of host memory by DMA; none where some of it lies outside those ranges. -/
def State.dmaRead (s : State) (pa n : Nat) : Option (List Byte) :=
  if (List.range n).all fun k => Config.dmaGranted (pa + k) then some (s.mem.host.bytes pa n) else none

/-- R434, R466: the digest of the image that runs. -/
def Firm.digest (f : Firm) : List Byte :=
  match f.code with
  | some bs => ((shake256 bs).take 4).flatMap fun w => bytesOfNat 8 w.toNat
  | none => (List.range 32).map (Config.imageDigest 1 0)

/-- R434, R466: the attestation report. -/
def State.report (s : State) : List Byte :=
  let f := s.firm
  (List.range 4).flatMap (fun i => bytesOfNat 8 (f.args[Fin.ofNat 8 i]).toNat)
    ++ (List.range 32).map (Config.imageDigest 0 0) ++ f.digest
    ++ bytesOfNat 8 Config.caps.toNat ++ bytesOfNat 8 f.fuse ++ bytesOfNat 8 f.index
    ++ (List.range 2692).map (Config.signature (f.key * 2 ^ 16 + f.index))

/-- R434: command 0x01: the index is consumed; then, in a step of its own, before which an alarm may strike, the report goes to the host
(DEDUCED, log entry 77). -/
def State.attestation (s : State) : State :=
  if s.firm.signing then
    let s1 := { s with firm := { s.firm with signing := false } }
    (s1.dmaWrite (s.firm.args[4]).toNat s.report).answer 0 2812
  else if s.firm.erased ∨ 2 ^ 16 ≤ s.firm.index then s.answer 1 0
  else { s with firm := { s.firm with index := s.firm.index + 1, signing := true } }

def execAttest (s : State) : Out := onCommand 1 s State.attestation

/-- R466: command 0x02. An image larger than the firmware region is a bad argument, and one that DMA cannot read fails (R435; DESIGN CHOICE, log
entry 120). -/
def State.stageImage (s : State) : State :=
  let n := (s.firm.args[1]).toNat
  if n = 0 ∨ 2 ^ 28 < n then s.answer 2 0
  else
    match s.dmaRead (s.firm.args[0]).toNat n with
    | some bs => ({ s with firm := { s.firm with staged := some bs, count := s.firm.count + 1 } }).answer 0 0
    | none => s.answer 3 0

def execStageFirmwareImage (s : State) : Out := onCommand 2 s State.stageImage

/-- R435: the resets that firmware asked for within the last 60 s. -/
def State.recentResets (s : State) : List Nat := s.firm.resets.filter fun t => decide (s.wallNs < t + 60 * 10 ^ 9)

/-- R432, R435, R466: command 0x03. An image that the boot ROM does not accept is not run: an alarm of level 1, and status 3. -/
def State.activate (s : State) : State :=
  match s.firm.staged with
  | none => s.answer 3 0
  | some img =>
    if min 4 s.firm.resetCap ≤ s.recentResets.length then s.answer 1 0
    else
      let ok := Config.imageAccepted img s.firm.fuse
      let f := { s.firm with resets := s.recentResets ++ [s.wallNs], fuse := if ok then raisedFuse s.firm.fuse (Config.imageFuse img s.firm.fuse) else s.firm.fuse
                             image := if ok then s.firm.count else s.firm.image, code := if ok then some img else s.firm.code }
      let s1 := ({ s with firm := f }).restart ok
      if ok then s1.answer 0 0 else (s1.logAlarm 1 1).answer 3 0

def execActivateFirmwareImage (s : State) : Out := onCommand 3 s State.activate

/-- R466: a log entry. -/
def AlarmRec.bytes (a : AlarmRec) : List Byte := bytesOfNat 8 a.time ++ bytesOfNat 1 a.level ++ bytesOfNat 1 a.source ++ List.replicate 22 0

/-- R466: command 0x04. -/
def State.readLog (s : State) : State := (s.dmaWrite (s.firm.args[0]).toNat (s.firm.log.flatMap AlarmRec.bytes)).answer 0 s.firm.log.length

def execReadPortcullisLog (s : State) : Out := onCommand 4 s State.readLog

/-- R362: what the Sluice still holds of a launch is discarded. -/
def State.dropHeld (s : State) (lid : Nat) : State :=
  let mine := fun (gid : Nat) => match s.group? gid with | some g => g.launch % 2 ^ 64 == lid | none => false
  { s with groups := s.groups.map fun (e : Nat × Group) => (e.1, if e.2.launch % 2 ^ 64 == lid then { e.2 with staged := [] } else e.2)
           mem := { s.mem with reqs := s.mem.reqs.filter fun r => !(r.frontier && mine r.gid) } }.dropTicketsLost

/-- R362, R466: command 0x05: what is held of the launch is discarded, and it takes part in a commit no more; it ends once the writes that it has
released, and those that a commit has performed, have completed. -/
def State.clearHalted (s : State) : State :=
  let lid := (s.firm.args[0]).toNat
  match s.launch? lid with
  | none => s.answer 2 0
  | some l =>
    if l.status ≠ 3 ∨ 2 ^ 64 ≤ lid then s.answer 2 0
    else
      let s1 := ((s.dropHeld lid).modRun fun r => { r with parts := r.parts.filter (· != lid) }).wakeBuffer
      let mine := fun (gid : Nat) => match s1.group? gid with | some g => g.launch % 2 ^ 64 == lid | none => false
      if (s1.mem.reqs.any fun r => mine r.gid && r.writes) || !(s1.timePasses (s1.runsDone lid)) then s1 else ((s1.endLaunch lid 3).setHeld).answer 0 0

def execClearHaltedLaunch (s : State) : Out := onCommand 5 s State.clearHalted

/-- R434, R466: command 0x06. -/
def State.provision (s : State) : State := ({ s with firm := { s.firm with erased := false, index := 0, key := s.firm.key + 1 } }).answer 0 0

def execProvisionIdentityKey (s : State) : Out := onCommand 6 s State.provision

/-- R466: an unassigned command. -/
def execMailboxUnassignedCommand (s : State) : Out := .next (if s.firm.cmd = 0 ∨ s.firm.cmd ≤ 6 then s else s.answer 2 0)

end Sys2Proof.Machine
end

