-- ==== Sys2Proof/Machine/Host.lean ====
section
/-! DEFINITION. The management window (spec 19, R424, R425, R427, R430; 14, R312, R318, R467; 16, R356; 17, R395; 18, R420), accesses of
the host and of peers to memory (19, R426, R430, R431), and the writing of trace records (18, R420, R421). -/

namespace Sys2Proof.Machine

/-- Until an image runs, the device exposes the mailbox only (R432). -/
def whenRunning (s : State) (f : State → State) : Out := .next (if s.firm.running then f s else s)

/-! ### The windows onto a warp and a descriptor (R425) -/

/-- R399: a record's bytes. -/
def FaultRec.bytes (r : FaultRec) : List Byte := (List.range 4).flatMap fun n => bytesOfNat 8 (r.word n).toNat

/-- R425: a byte of the halted-state aperture. -/
def State.apertureByte (s : State) (off : Nat) : Byte :=
  let sel := s.firm.hsSel.toNat
  let core := sel / 2 ^ 8 % 2 ^ 7
  let wk := core * 64 + sel % 64
  match s.warp? wk with
  | none => 0
  | some w =>
    if !(match s.launchOf w with | some l => l.status == 3 | none => false) then 0
    else if 0x7000 ≤ off then
      match w.threads[Fin.ofNat 32 ((off - 0x7000) / 32)].frec with
      | some r => if off < 0x7400 then r.bytes.getD ((off - 0x7000) % 32) 0 else 0
      | none => 0
    else (w.block (s.slotBytes core w) w.admitted w.held w.borrowed).getD off 0

/-! ### Reading the management window (R424) -/

def b2n (b : Bool) : Nat := b.toNat

/-- The registers of a launch queue (R356). -/
def LaunchQueue.reg (q : LaunchQueue) (k : Nat) : Word :=
  match k with
  | 0 => q.base
  | 1 => BitVec.ofNat 64 (q.log2 + q.en.toNat * 2 ^ 32 + q.err.toNat * 2 ^ 33)
  | 2 => q.head.setWidth 64
  | _ => 0

/-- The registers of a peer link (R430). -/
def Link.reg (l : Link) (k : Nat) : Word :=
  match k with
  | 0 => BitVec.ofNat 64 (l.en.toNat + l.up.toNat * 2 + l.err.toNat * 4 + l.rate * 2 ^ 32)
  | 1 => BitVec.ofNat 64 (l.base * 2 ^ 30)
  | 2 => BitVec.ofNat 64 (l.size * 2 ^ 30)
  | _ => 0

/-- The page engines' registers (R318, R467). -/
def PageSys.reg (p : PageSys) (k : Nat) : Word :=
  match k with
  | 0 => p.thr | 1 => p.ctl | 2 => p.wm | 3 => BitVec.ofNat 64 p.base | 4 => BitVec.ofNat 64 p.count | 5 => BitVec.ofNat 64 p.sumBase
  | 6 => BitVec.ofNat 64 p.poolBase | 7 => BitVec.ofNat 64 p.poolSize | 8 => BitVec.ofNat 64 p.poolBack | _ => 0

/-- The replica registers (R395). -/
def Steps.reg (p : Steps) (k : Nat) : Word :=
  match k with
  | 0 => BitVec.ofNat 64 (p.peerEn.toNat + p.sample.toNat * 2 + p.held.toNat * 8 + p.link * 2 ^ 8)
  | 1 => p.seed | 2 => p.stepNum | 3 => p.stat | 4 => p.fence0 | 5 => p.fence1 | _ => 0

/-- The trace registers (R420); without the unit they read as zero (R439). -/
def Trace.reg (t : Trace) (k : Nat) : Word :=
  if !Config.hasTrace then 0
  else match k with
  | 0 => BitVec.ofNat 64 (t.en.toNat + t.flt.toNat * 2 + t.wrap.toNat * 4 + t.npg * 2 ^ 8)
  | 1 => t.list | 2 => BitVec.ofNat 64 (t.slot + t.page * 2 ^ 16) | 3 => t.lost | _ => 0

/-- R424, R432: what a host read of the window returns; unassigned offsets read as zero, and until an image runs, all but the mailbox. -/
def State.readWindow (s : State) (off : Nat) : Word :=
  let k := fun (base : Nat) => (off - base) / 8
  if !s.firm.running ∧ ¬(0x017000 ≤ off ∧ off < 0x017050) then 0
  else if off = 0 then Config.caps
  else if off = 8 then Config.serial
  else if 0x010000 ≤ off ∧ off < 0x010800 then (s.sched.lq[Fin.ofNat 64 ((off - 0x010000) / 32)]).reg (off % 32 / 8)
  else if 0x011000 ≤ off ∧ off < 0x012000 then s.pages.reg (k 0x011000)
  else if 0x012000 ≤ off ∧ off < 0x013000 then s.steps.reg (k 0x012000)
  else if 0x013000 ≤ off ∧ off < 0x014000 then s.trace.reg (k 0x013000)
  else if off = 0x014000 then BitVec.ofNat 64 s.mem.bcTail
  else if off = 0x014008 then BitVec.ofNat 64 s.mem.bcHead
  else if off = 0x014010 then BitVec.ofNat 64 s.mem.bcLost
  else if off = 0x015000 then BitVec.ofNat 64 (s.mem.ttBase + s.mem.ttLog2)
  else if 0x016000 ≤ off ∧ off < 0x016100 then (s.links[Fin.ofNat 8 ((off - 0x016000) / 32)]).reg (off % 32 / 8)
  else if off = 0x017000 then BitVec.ofNat 64 s.firm.cmd
  else if off = 0x017008 then s.firm.status
  else if 0x017010 ≤ off ∧ off < 0x017050 then s.firm.args[Fin.ofNat 8 (k 0x017010)]
  else if off = 0x018000 then s.firm.hsSel
  else if off = 0x100000 then s.firm.ptIdx
  else if 0x100020 ≤ off ∧ off < 0x100040 then
    (if s.firm.ptIdx.toNat < s.pages.count then (s.desc s.firm.ptIdx.toNat).word (s.comp s.firm.ptIdx.toNat) (k 0x100020) else 0)
  else if 0x1000000 ≤ off ∧ off < 0x1008000 then BitVec.ofNat 64 (natOfBytes ((List.range 8).map fun j => s.apertureByte (off - 0x1000000 + j)))
  else 0

/-! ### Writing it -/

/-- R356. -/
def LaunchQueue.write (q : LaunchQueue) (k : Nat) (v : Word) : LaunchQueue :=
  match k with
  | 0 => if q.en then q else { q with base := v &&& ~~~ 0xFFF#64 }
  | 1 =>
    let lg := v.toNat % 32
    { q with log2 := if q.en ∨ lg < 4 ∨ 16 < lg then q.log2 else lg, en := v.getLsbD 32, err := q.err && !(v.getLsbD 33) }
  | _ => q

/-- R430, R435: a rate above the cap is clamped. -/
def Link.write (l : Link) (cap k : Nat) (v : Word) : Link :=
  match k with
  | 0 => { l with rate := min (min 200 cap) (max 1 (v.toNat / 2 ^ 32 % 2 ^ 16)), err := l.err && !(v.getLsbD 2), en := v.getLsbD 0 }
  | 1 => { l with base := v.toNat / 2 ^ 30 }
  | 2 => { l with size := v.toNat / 2 ^ 30 }
  | _ => l

/-- R318: what the host may write. -/
def PageSys.write (p : PageSys) (k : Nat) (v : Word) : PageSys :=
  match k with
  | 0 => { p with thr := v }
  | 1 => { p with ctl := v &&& 0x1FFFFFFFF#64 }
  | 2 => { p with wm := v &&& 0xFFFF#64 }
  | _ => p

/-- R395 (DEDUCED, log entry 74). -/
def Steps.write (p : Steps) (k : Nat) (v : Word) : Steps :=
  match k with
  | 0 => { p with link := v.toNat / 2 ^ 8 % 2 ^ 4, sample := v.getLsbD 1, peerEn := v.getLsbD 0 }
  | 1 => { p with seed := v }
  | 3 => { p with stat := p.stat &&& ~~~ v }
  | 4 => { p with fence0 := p.fence0 &&& ~~~ v }
  | 5 => { p with fence1 := p.fence1 &&& ~~~ v }
  | _ => p

/-- R420: TRC_CTL (DEDUCED, log entry 69). -/
def Trace.control (t : Trace) (v : Word) : Trace :=
  if !Config.hasTrace then t
  else
    let t1 := { t with wrap := v.getLsbD 2, flt := v.getLsbD 1 }
    if t.en && v.getLsbD 0 then t1
    else
      let t2 := { t1 with npg := if t.en then t.npg else v.toNat / 2 ^ 8 % 2 ^ 8, en := v.getLsbD 0 }
      if v.getLsbD 0 then { t2 with page := 0, slot := 0, cur := none } else { t2 with cur := none }

def execTrcCtlWrite (value : Word) (s : State) : Out := whenRunning s fun s => { s with trace := s.trace.control value }

/-- R425: a write of a word that holds MASS. -/
def State.writeAperture (s : State) (word : Nat) (v : Word) : State :=
  let lpn := s.firm.ptIdx.toNat
  if word = 1 ∧ lpn < s.pages.count then s.setDesc lpn { s.desc lpn with mass := v.toNat / 2 ^ 24 % 2 ^ 16 } else s

def execDescriptorApertureWrite (word : Nat) (value : Word) (s : State) : Out := whenRunning s fun s => s.writeAperture word value

/-- R466: a command is taken when none is under way. -/
def Firm.write (f : Firm) (k : Nat) (v : Word) : Firm :=
  match k with
  | 0 => if f.cmd = 0 then { f with cmd := v.toNat % 2 ^ 8 } else f
  | 1 => f
  | _ => if k < 10 then { f with args := f.args.set (Fin.ofNat 8 (k - 2)) v } else f

/-- R427: TT_CFG. -/
def MemSys.ttConfig (m : MemSys) (v : Word) : MemSys :=
  let lg := v.toNat % 32
  { m with ttBase := v.toNat / 2 ^ 12 * 2 ^ 12, ttLog2 := if 12 ≤ lg ∧ lg ≤ 28 then lg else m.ttLog2 }

/-- R424: a host write of a register of the window, but for the mailbox. -/
def State.writeRunning (s : State) (off : Nat) (v : Word) : State :=
  let k := fun (base : Nat) => (off - base) / 8
  if 0x010000 ≤ off ∧ off < 0x010800 then
    let q := (off - 0x010000) / 32
    if off % 32 = 24 then s.ringDoorbell q (v.setWidth 32)
    else { s with sched := { s.sched with lq := s.sched.lq.set (Fin.ofNat 64 q) ((s.sched.lq[Fin.ofNat 64 q]).write (off % 32 / 8) v) } }
  else if 0x011000 ≤ off ∧ off < 0x012000 then { s with pages := s.pages.write (k 0x011000) v }
  else if 0x012000 ≤ off ∧ off < 0x013000 then
    let s1 := { s with steps := s.steps.write (k 0x012000) v }
    if off = 0x012000 ∧ v.getLsbD 2 ∧ s.steps.held then s1.resume else s1
  else if off = 0x013000 then { s with trace := s.trace.control v }
  else if 0x013000 ≤ off ∧ off < 0x014000 ∧ !Config.hasTrace then s
  else if off = 0x013008 then (if s.trace.en then s else { s with trace := { s.trace with list := v &&& ~~~ 7#64 } })
  else if off = 0x013018 then { s with trace := { s.trace with lost := v } }
  else if off = 0x014008 then { s with mem := { s.mem with bcHead := v.toNat } }
  else if off = 0x014010 then { s with mem := { s.mem with bcLost := (BitVec.ofNat 64 s.mem.bcLost &&& ~~~ v).toNat } }
  else if off = 0x015000 then { s with mem := s.mem.ttConfig v }
  else if off = 0x015008 then s.invalidate fun _ => true
  else if 0x016000 ≤ off ∧ off < 0x016100 then s.modLink ((off - 0x016000) / 32) fun l => l.write s.firm.rateCap (off % 32 / 8) v
  else if off = 0x018000 then { s with firm := { s.firm with hsSel := v &&& 0x7F3F#64 } }
  else if off = 0x100000 then { s with firm := { s.firm with ptIdx := v } }
  else if 0x100020 ≤ off ∧ off < 0x100040 then s.writeAperture (k 0x100020) v
  else s

/-- R424, R432: a host write of eight bytes at an offset that is a multiple of 8. -/
def State.writeWindow (s : State) (off : Nat) (v : Word) : State :=
  if off % 8 ≠ 0 then s
  else if 0x017000 ≤ off ∧ off < 0x017050 then { s with firm := s.firm.write ((off - 0x017000) / 8) v }
  else if s.firm.running then s.writeRunning off v
  else s

def execManagementRegisterWrite (off : Nat) (value : Word) (s : State) : Out := .next (s.writeWindow off value)

/-! ### The host's accesses to device memory (R426) -/

/-- The tier of HBM or the LP tier, and its bytes. -/
def tierOf (lp : Bool) : Target := if lp then .lp else .hbm
def capOf (lp : Bool) : Nat := if lp then Config.lpBytes else Config.hbmBytes

/-- The parts of a range in each line: address and bytes. -/
def linePieces : Nat → Nat → Nat → List (Nat × Nat)
  | 0, _, _ => []
  | k + 1, pa, n => if n = 0 then [] else let m := min n (128 - pa % 128); (pa, m) :: linePieces k (pa + m) (n - m)

/-! What comes from outside the cores is a request of no group: it is performed as it arrives, unless it writes a pool line and has to wait
for raw storage (R467; DEDUCED, log entry 79). -/

/-- An arriving access, as a request of its own. -/
def outsideReq (kind : ReqKind) (lp : Bool) (pa n : Nat) (data : List Byte) (b cmp : Word) : Request :=
  { id := 0, core := 4096, gid := outsideGid, widx := 0, kind := kind, grp := 0, space := 0, unit := 0, tgt := tierOf lp
    accs := [{ lane := 0, va := 0, pa := pa, n := n, data := data, b := b, cmp := cmp, mode := 0, ticket := none, hz := 0 }]
    act := 0, pc := 0, order := 0, scope := 6, hint := 0, fresh := true, noAlloc := true, lease := 0, sluice := true, epoch := 0, frontier := false
    pend := none, weight := 0, stage := .posted }

/-- R426: what comes from outside and acquires is answered once device time has passed the release time that it found; until then it is kept
as a read that has been performed. -/
def State.awaitAnswer (s : State) (lp : Bool) (pa n rel : Nat) : State :=
  if s.timePasses rel then s
  else { s.bump with mem := { s.mem with reqs := s.mem.reqs ++
    [{ outsideReq (.load .zx) lp pa n [] 0 0 with id := s.fresh, grp := s.fresh, sluice := false, stage := .performed s.ns s.ns [] [rel] 0 }] } }

/-- R216, R222, R426: one line is read at its home slice, as a fresh load. -/
def State.hostReadLine (s : State) (lp : Bool) (pa n : Nat) : State :=
  let s1 := s.touchHome (tierOf lp) pa 0
  let s2 := match s1.lineBad (tierOf lp) pa with
    | some k => s1.noteBad (pa / 128) k (sectorMask pa n)
    | none => s1
  s2.awaitAnswer lp pa n (s1.relAt (tierOf lp) pa n)

def State.hostRead (s : State) (lp : Bool) (pa n : Nat) : State :=
  if capOf lp < pa + n then s else (linePieces (n + 1) pa n).foldl (fun s p => s.hostReadLine lp p.1 p.2) s

def execHostCxlRead (lp : Bool) (pa n : Nat) (s : State) : Out := whenRunning s fun s => s.hostRead lp pa n

/-- It has to wait: for raw storage, or behind a write to its line that waits already. -/
def State.outsideHeld (s s1 : State) (r : Request) : Bool :=
  (s.toPool r && decide (s.pages.poolBack < s1.poolCharge)) || s.mem.reqs.any fun q => q.gid == outsideGid && q.stage == .posted && q.lines.any fun l => r.lines.contains l

/-- It is performed at its home slice, or waits there. -/
def State.arriveOutside (s : State) (r : Request) : State :=
  let s1 := r.accs.foldl (fun s a => (s.writeOne r a).1) s
  if s.outsideHeld s1 r then { s.bump with mem := { s.mem with reqs := s.mem.reqs ++ [{ r with id := s.fresh, grp := s.fresh }] } } else s1

/-- R254, R426: a write is performed in its lines, and resets their release times. -/
def State.outsideWrite (s : State) (lp : Bool) (pa : Nat) (bs : List Byte) : State :=
  (linePieces (bs.length + 1) pa bs.length).foldl (fun s p => s.arriveOutside (outsideReq .store lp p.1 p.2 ((bs.drop (p.1 - pa)).take p.2) 0 0)) s

def State.hostWrite (s : State) (lp : Bool) (pa : Nat) (bs : List Byte) : State := if capOf lp < pa + bs.length then s else s.outsideWrite lp pa bs

def execHostCxlWrite (lp : Bool) (pa : Nat) (bytes : List Byte) (s : State) : Out := whenRunning s fun s => s.hostWrite lp pa bytes

/-! ### Peers (R430, R431) -/

/-- R430: the range of an arriving access lies in the inbound window of a link that carries traffic, and in the memory it names. -/
def State.inbound (s : State) (link : Nat) (lp : Bool) (pa n : Nat) : Bool :=
  let l := s.links[Fin.ofNat 8 link]
  l.en && l.up && decide (l.base * 2 ^ 30 ≤ pa ∧ pa + n ≤ (l.base + l.size) * 2 ^ 30 ∧ pa + n ≤ capOf lp)

/-- R426, R431: an access that arrives is performed at the home slice. What reads is taken as an acquire or a fresh load, which is answered only
once device time allows (DEDUCED, log entry 79). A release leaves its location without a release time, as every plain write
does: the other device's horizon means nothing here (R254). -/
def State.inboundAccess (s : State) (link : Nat) (acc : PeerAccess) : State :=
  match acc with
  | .load lp pa n => if s.inbound link lp pa n then s.hostRead lp pa n else s
  | .store lp pa bs _ => if s.inbound link lp pa bs.length then s.outsideWrite lp pa bs else s
  | .atom lp pa n op flt sgn b =>
    if s.inbound link lp pa n then (s.arriveOutside (outsideReq (.atom op flt sgn false) lp pa n [] b 0)).awaitAnswer lp pa n (s.relAt (tierOf lp) pa n) else s
  | .cas lp pa n new old =>
    if s.inbound link lp pa n then (s.arriveOutside (outsideReq .cas lp pa n [] new old)).awaitAnswer lp pa n (s.relAt (tierOf lp) pa n) else s

def execPeerInboundAccess (link : Nat) (acc : PeerAccess) (s : State) : Out := whenRunning s fun s => s.inboundAccess link acc

/-- R431: a link goes down: what is outstanding on it fails. -/
def State.linkDown (s : State) (link : Nat) : State :=
  let out := s.mem.reqs.filter fun r => r.space == 0 && r.tgt == .peer (link % 8)
  out.foldl (fun s r => s.refuse r 0x13) (s.modLink link fun l => { l with up := false })

def execPeerLinkDown (link : Nat) (s : State) : Out := .next (s.linkDown link)

def execPeerLinkTrained (link : Nat) (s : State) : Out := .next (s.modLink link fun l => { l with up := true })

/-! ### Trace records (R420, R421) -/

/-- R420: a record's bytes. -/
def TraceRec.bytes (r : TraceRec) : List Byte :=
  bytesOfNat 1 r.kind ++ [0] ++ bytesOfNat 2 r.tag ++ bytesOfNat 1 r.core ++ bytesOfNat 1 r.warp ++ bytesOfNat 2 r.group ++ bytesOfNat 8 r.time
    ++ bytesOfNat 8 r.d0.toNat ++ bytesOfNat 8 r.d1.toNat

/-- The gap record (R421). -/
def gapRec (n t now : Nat) : TraceRec :=
  { kind := 3, tag := 0, core := 0, warp := 0, group := 0, time := now, d0 := BitVec.ofNat 64 n, d1 := BitVec.ofNat 64 t }

/-- R421: the unit has tried every page without success: what it has queued is lost. -/
def State.discardTrace (s : State) : State :=
  let t := s.trace
  let n := t.queue.length
  let first := match t.gap, t.queue with | some (_, t0), _ => t0 | none, r :: _ => r.time | none, [] => s.ns
  { s with trace := { t with queue := [], cur := none, lost := if t.lost.toNat + n < 2 ^ 64 then t.lost + BitVec.ofNat 64 n else BitVec.allOnes 64
                             gap := match t.gap with | some (m, t0) => some (m + n, t0) | none => some (n, first) } }

/-- R421: the page of the present number, as the list gives it: where it is written, and its address; it is translated now. -/
def State.tracePage (s : State) : Option (Target × Nat × Nat) :=
  match s.devRead (s.trace.list + BitVec.ofNat 64 (8 * s.trace.page)) 8 with
  | none => none
  | some bs =>
    let va := BitVec.ofNat 64 (natOfBytes bs)
    match s.resolve va .write with
    | .ok (t, pa) => if va.toNat % 65536 = 0 ∧ (s.peerFault t pa).isNone then some (t, pa, va.toNat) else none
    | .error _ => none

/-- R421: the unit enters the next page that it can write, trying each page of the list once. -/
def State.enterTrace (s : State) : Nat → State
  | 0 => s.discardTrace
  | k + 1 =>
    if !s.trace.en ∨ s.trace.cur.isSome then s
    else
      match s.tracePage with
      | some (t, pa, va) => { (s.useTlb (BitVec.ofNat 64 va)) with trace := { s.trace with cur := some (t, pa), curVa := va } }
      | none => ({ s with trace := s.trace.leavePage }).enterTrace k

/-- A record is written at the unit's place, and the place moves on. -/
def State.putTrace (s : State) (r : TraceRec) (f : Trace → Trace) : State :=
  match s.trace.cur with
  | none => s
  | some (t, pa) =>
    let s1 := s.performWrite t (pa + 32 * s.trace.slot) r.bytes .plain
    let t1 := f s1.trace
    { s1 with trace := if t1.slot < 2047 then { t1 with slot := t1.slot + 1 } else t1.leavePage }

/-- R421: the next record is written; after a loss a gap record comes first, at the start of a page. -/
def State.writeTrace (s : State) : State :=
  if !s.trace.en ∨ (s.trace.queue = []) then s
  else
    let s0 := if s.trace.gap.isSome ∧ s.trace.slot ≠ 0 then { s with trace := s.trace.leavePage } else s
    let s1 := s0.enterTrace (s0.trace.npg + 1)
    match s1.trace.cur, s1.trace.gap, s1.trace.queue with
    | none, _, _ => s1
    | some _, some (n, t), _ => s1.putTrace (gapRec n t s1.ns) fun tr => { tr with gap := none }
    | some _, none, r :: rs => s1.putTrace r fun tr => { tr with queue := rs }
    | some _, none, [] => s1

def execTraceRecordWrite (s : State) : Out := whenRunning s State.writeTrace

end Sys2Proof.Machine
end

