-- ==== Sys2Proof/Machine/Special.lean ====
section
/-! DEFINITION. Class 0x5, special-function, conversion and random-number instructions (spec 08, R182 to R192). -/

namespace Sys2Proof.Machine

/-- A special function: long-latency in every type (R181). -/
def specOp (opc : Nat) (x : Ext) (f : FFmt → Nat → Bool → Nat → Nat × BitVec 5) (s : State) : State := fpOp1 opc x f s true

def execFrcp (x : Ext) (s : State) : Out := .next (specOp 0x0A0 x fpRcp s)
def execFrsq (x : Ext) (s : State) : Out := .next (specOp 0x0A1 x fpRsq s)
def execFexp2 (x : Ext) (s : State) : Out := .next (specOp 0x0A2 x (fun g _ z a => if g = f64 then fpExp2 g z a else fpDexp2 g z a) s)
def execFlog2 (x : Ext) (s : State) : Out := .next (specOp 0x0A3 x (fun g _ z a => fpLog2 g z a) s)
def execFsin (x : Ext) (s : State) : Out := .next (specOp 0x0A4 x (fun g _ z a => fpTrig false g z a) s)
def execFcos (x : Ext) (s : State) : Out := .next (specOp 0x0A5 x (fun g _ z a => fpTrig true g z a) s)
def execFtanh (x : Ext) (s : State) : Out := .next (specOp 0x0A6 x (fun g _ z a => fpTanh g z a) s)
def execFsigm (x : Ext) (s : State) : Out := .next (specOp 0x0A7 x (fun g _ z a => fpSigm g z a) s)

/-- A thread's result from the conversion of elements, with the flags of all of them. -/
def convLane (dt : Nat) (rs : List (Nat × BitVec 5)) : LaneOut :=
  .value (ofElems (tyWidth dt) (rs.map (·.1))) false (rs.foldl (fun f r => f ||| r.2) 0) 0

/-- R186: the destination elements of `cvt`: which source element each takes, if any. -/
def cvtPick (nd ns part e : Nat) : Option Nat :=
  if ns = nd then some e
  else if nd < ns then some (part * nd + e)
  else if part * ns ≤ e ∧ e < part * ns + ns then some (e - part * ns) else none

/-- R186, R187. -/
def cvtLane (dt st part mode : Nat) (ftz sat : Bool) (a : Word) : LaneOut :=
  let nd := 64 / tyWidth dt
  let ns := 64 / tyWidth st
  convLane dt ((List.range nd).map fun e =>
    match cvtPick nd ns part e with
    | some k => cvtElem dt st mode ftz sat (elem (tyWidth st) a k)
    | none => (0, 0))

def execCvt (x : Ext) (s : State) : Out :=
  .next (vectorOp x (fun q =>
    { key := { opc := 0x0A8, a := x.srcA, dst := some x.d }, dst := .vec x.d
      out := fun i => cvtLane x.ty.toNat (x.m 23 4) (x.m 27 3) (q.w.threads[i].rounding x.rm) (fsrFtz q.w.threads[i].fsr) x.sat (q.src x.srcA i) }) s)

/-- R188: the elements of A, then those of B. -/
def packLane (dt st mode : Nat) (ftz sat : Bool) (a b : Word) : LaneOut :=
  convLane dt ((elems (tyWidth st) a ++ elems (tyWidth st) b).map fun u => cvtElem dt st mode ftz sat u)

def execPack (x : Ext) (s : State) : Out :=
  .next (vectorOp x (fun q =>
    { key := { opc := 0x0A9, a := x.srcA, b := x.srcB, dst := some x.d }, dst := .vec x.d
      out := fun i => packLane x.ty.toNat (x.m 23 4) (q.w.threads[i].rounding x.rm) (fsrFtz q.w.threads[i].fsr) x.sat (q.src x.srcA i) (q.src x.srcB i) }) s)

/-- R189: the low or high half of A, widened. -/
def unpackLane (dt st : Nat) (hi ftz : Bool) (a : Word) : LaneOut :=
  let nd := 64 / tyWidth dt
  convLane dt (((elems (tyWidth st) a).drop (if hi then nd else 0)).take nd |>.map fun u => cvtElem dt st 0 ftz false u)

def execUnpack (x : Ext) (s : State) : Out :=
  .next (vectorOp x (fun q =>
    { key := { opc := 0x0AA, a := x.srcA, dst := some x.d }, dst := .vec x.d
      out := fun i => unpackLane x.ty.toNat (x.m 23 4) (x.mb 27) (fsrFtz q.w.threads[i].fsr) (q.src x.srcA i) }) s)

/-- R192. -/
def execRng (x : Ext) (s : State) : Out :=
  .next (vectorOp x (fun q =>
    { key := { opc := 0x0AB, a := x.srcA, b := x.srcB, dst := some x.d }, dst := .vec x.d, bound := some 32
      out := fun i => plain (rngDraw x.ty.toNat (x.m 23 6) (x.mb 29) (q.src x.srcA i) (q.src x.srcB i)) }) s)

/-- R191. -/
def execRngk (x : Ext) (s : State) : Out :=
  .next (vectorOp x (fun q =>
    { key := { opc := 0x0AC, a := x.srcA, b := x.srcB, dst := some x.d }, dst := .vec x.d
      out := fun i => plain (BitVec.ofNat 64 (rngBlock (q.src x.srcA i).toNat (q.src x.srcB i).toNat / 2 ^ 64)) }) s)

end Sys2Proof.Machine
end

