-- ==== Sys2Proof/Machine/Dispatch.lean ====
section
/-! DEFINITION. Dispatch: one arm per constructor of Instr, each a direct call of its meaning. -/

namespace Sys2Proof.Machine

/-- The meaning of an instruction, or of one of the device's own steps. -/
def exec (i : Instr) (s : State) : Host.Outcome State Fault Refusal :=
  match i with
  | .nopCompact c => Sys2Proof.Machine.execNopCompact c s
  | .vmovCompact c => Sys2Proof.Machine.execVmovCompact c s
  | .iaddU64Compact c => Sys2Proof.Machine.execIaddU64Compact c s
  | .isubU64Compact c => Sys2Proof.Machine.execIsubU64Compact c s
  | .imulU64Compact c => Sys2Proof.Machine.execImulU64Compact c s
  | .imadU64Compact c => Sys2Proof.Machine.execImadU64Compact c s
  | .iminI64Compact c => Sys2Proof.Machine.execIminI64Compact c s
  | .imaxI64Compact c => Sys2Proof.Machine.execImaxI64Compact c s
  | .iaddU32x2Compact c => Sys2Proof.Machine.execIaddU32x2Compact c s
  | .andB64Compact c => Sys2Proof.Machine.execAndB64Compact c s
  | .orB64Compact c => Sys2Proof.Machine.execOrB64Compact c s
  | .xorB64Compact c => Sys2Proof.Machine.execXorB64Compact c s
  | .shlB64Compact c => Sys2Proof.Machine.execShlB64Compact c s
  | .shrB64Compact c => Sys2Proof.Machine.execShrB64Compact c s
  | .sarI64Compact c => Sys2Proof.Machine.execSarI64Compact c s
  | .faddF64Compact c => Sys2Proof.Machine.execFaddF64Compact c s
  | .fsubF64Compact c => Sys2Proof.Machine.execFsubF64Compact c s
  | .fmulF64Compact c => Sys2Proof.Machine.execFmulF64Compact c s
  | .ffmaF64Compact c => Sys2Proof.Machine.execFfmaF64Compact c s
  | .fminF64Compact c => Sys2Proof.Machine.execFminF64Compact c s
  | .fmaxF64Compact c => Sys2Proof.Machine.execFmaxF64Compact c s
  | .faddF32x2Compact c => Sys2Proof.Machine.execFaddF32x2Compact c s
  | .fsubF32x2Compact c => Sys2Proof.Machine.execFsubF32x2Compact c s
  | .fmulF32x2Compact c => Sys2Proof.Machine.execFmulF32x2Compact c s
  | .ffmaF32x2Compact c => Sys2Proof.Machine.execFfmaF32x2Compact c s
  | .faddBf16x4Compact c => Sys2Proof.Machine.execFaddBf16x4Compact c s
  | .fmulBf16x4Compact c => Sys2Proof.Machine.execFmulBf16x4Compact c s
  | .ffmaBf16x4Compact c => Sys2Proof.Machine.execFfmaBf16x4Compact c s
  | .ldGlobalCompact c => Sys2Proof.Machine.execLdGlobalCompact c s
  | .stGlobalCompact c => Sys2Proof.Machine.execStGlobalCompact c s
  | .ldScratchCompact c => Sys2Proof.Machine.execLdScratchCompact c s
  | .stScratchCompact c => Sys2Proof.Machine.execStScratchCompact c s
  | .bra x => Sys2Proof.Machine.execBra x s
  | .brx x => Sys2Proof.Machine.execBrx x s
  | .call x => Sys2Proof.Machine.execCall x s
  | .callx x => Sys2Proof.Machine.execCallx x s
  | .ret x => Sys2Proof.Machine.execRet x s
  | .loopSetO x => Sys2Proof.Machine.execLoopSetO x s
  | .loopSetI x => Sys2Proof.Machine.execLoopSetI x s
  | .loopI x => Sys2Proof.Machine.execLoopI x s
  | .loopO x => Sys2Proof.Machine.execLoopO x s
  | .loopIo x => Sys2Proof.Machine.execLoopIo x s
  | .lbrk x => Sys2Proof.Machine.execLbrk x s
  | .lbrkZ x => Sys2Proof.Machine.execLbrkZ x s
  | .rejoin x => Sys2Proof.Machine.execRejoin x s
  | .yield x => Sys2Proof.Machine.execYield x s
  | .exit x => Sys2Proof.Machine.execExit x s
  | .exitTo x => Sys2Proof.Machine.execExitTo x s
  | .sleep x => Sys2Proof.Machine.execSleep x s
  | .sleepWake wk => Sys2Proof.Machine.execSleepWake wk s
  | .nop x => Sys2Proof.Machine.execNop x s
  | .launch x => Sys2Proof.Machine.execLaunch x s
  | .callg x => Sys2Proof.Machine.execCallg x s
  | .signal x => Sys2Proof.Machine.execSignal x s
  | .waitc x => Sys2Proof.Machine.execWaitc x s
  | .testc x => Sys2Proof.Machine.execTestc x s
  | .karm x => Sys2Proof.Machine.execKarm x s
  | .karmWatchCheck id => Sys2Proof.Machine.execKarmWatchCheck id s
  | .stagePut x => Sys2Proof.Machine.execStagePut x s
  | .stageGet x => Sys2Proof.Machine.execStageGet x s
  | .step x => Sys2Proof.Machine.execStep x s
  | .cancel x => Sys2Proof.Machine.execCancel x s
  | .iadd x => Sys2Proof.Machine.execIadd x s
  | .isub x => Sys2Proof.Machine.execIsub x s
  | .iaddc x => Sys2Proof.Machine.execIaddc x s
  | .isubb x => Sys2Proof.Machine.execIsubb x s
  | .imul x => Sys2Proof.Machine.execImul x s
  | .imulh x => Sys2Proof.Machine.execImulh x s
  | .imad x => Sys2Proof.Machine.execImad x s
  | .idiv x => Sys2Proof.Machine.execIdiv x s
  | .irem x => Sys2Proof.Machine.execIrem x s
  | .imin x => Sys2Proof.Machine.execImin x s
  | .imax x => Sys2Proof.Machine.execImax x s
  | .iabs x => Sys2Proof.Machine.execIabs x s
  | .ineg x => Sys2Proof.Machine.execIneg x s
  | .iclamp x => Sys2Proof.Machine.execIclamp x s
  | .sadd x => Sys2Proof.Machine.execSadd x s
  | .icmp x => Sys2Proof.Machine.execIcmp x s
  | .andB x => Sys2Proof.Machine.execAndB x s
  | .orB x => Sys2Proof.Machine.execOrB x s
  | .xorB x => Sys2Proof.Machine.execXorB x s
  | .notB x => Sys2Proof.Machine.execNotB x s
  | .lop3 x => Sys2Proof.Machine.execLop3 x s
  | .shl x => Sys2Proof.Machine.execShl x s
  | .shr x => Sys2Proof.Machine.execShr x s
  | .sar x => Sys2Proof.Machine.execSar x s
  | .rot x => Sys2Proof.Machine.execRot x s
  | .bfx x => Sys2Proof.Machine.execBfx x s
  | .bfi x => Sys2Proof.Machine.execBfi x s
  | .popc x => Sys2Proof.Machine.execPopc x s
  | .clz x => Sys2Proof.Machine.execClz x s
  | .ctz x => Sys2Proof.Machine.execCtz x s
  | .brev x => Sys2Proof.Machine.execBrev x s
  | .lea x => Sys2Proof.Machine.execLea x s
  | .fadd x => Sys2Proof.Machine.execFadd x s
  | .fsub x => Sys2Proof.Machine.execFsub x s
  | .fmul x => Sys2Proof.Machine.execFmul x s
  | .ffma x => Sys2Proof.Machine.execFfma x s
  | .fdiv x => Sys2Proof.Machine.execFdiv x s
  | .fsqrt x => Sys2Proof.Machine.execFsqrt x s
  | .fmin x => Sys2Proof.Machine.execFmin x s
  | .fmax x => Sys2Proof.Machine.execFmax x s
  | .fminm x => Sys2Proof.Machine.execFminm x s
  | .fmaxm x => Sys2Proof.Machine.execFmaxm x s
  | .fcmp x => Sys2Proof.Machine.execFcmp x s
  | .fclass x => Sys2Proof.Machine.execFclass x s
  | .fabs x => Sys2Proof.Machine.execFabs x s
  | .fneg x => Sys2Proof.Machine.execFneg x s
  | .fcopys x => Sys2Proof.Machine.execFcopys x s
  | .frint x => Sys2Proof.Machine.execFrint x s
  | .fscale x => Sys2Proof.Machine.execFscale x s
  | .fgetexp x => Sys2Proof.Machine.execFgetexp x s
  | .fgetman x => Sys2Proof.Machine.execFgetman x s
  | .frem x => Sys2Proof.Machine.execFrem x s
  | .fdot2 x => Sys2Proof.Machine.execFdot2 x s
  | .fpmodeGet x => Sys2Proof.Machine.execFpmodeGet x s
  | .fpmodeRm x => Sys2Proof.Machine.execFpmodeRm x s
  | .fpmodeFtz x => Sys2Proof.Machine.execFpmodeFtz x s
  | .fflagsGet x => Sys2Proof.Machine.execFflagsGet x s
  | .fflagsClr x => Sys2Proof.Machine.execFflagsClr x s
  | .fflagsSet x => Sys2Proof.Machine.execFflagsSet x s
  | .fflagsTe x => Sys2Proof.Machine.execFflagsTe x s
  | .frcp x => Sys2Proof.Machine.execFrcp x s
  | .frsq x => Sys2Proof.Machine.execFrsq x s
  | .fexp2 x => Sys2Proof.Machine.execFexp2 x s
  | .flog2 x => Sys2Proof.Machine.execFlog2 x s
  | .fsin x => Sys2Proof.Machine.execFsin x s
  | .fcos x => Sys2Proof.Machine.execFcos x s
  | .ftanh x => Sys2Proof.Machine.execFtanh x s
  | .fsigm x => Sys2Proof.Machine.execFsigm x s
  | .cvt x => Sys2Proof.Machine.execCvt x s
  | .pack x => Sys2Proof.Machine.execPack x s
  | .unpack x => Sys2Proof.Machine.execUnpack x s
  | .rng x => Sys2Proof.Machine.execRng x s
  | .rngk x => Sys2Proof.Machine.execRngk x s
  | .vmov x => Sys2Proof.Machine.execVmov x s
  | .vset x => Sys2Proof.Machine.execVset x s
  | .vsel x => Sys2Proof.Machine.execVsel x s
  | .vcoal x => Sys2Proof.Machine.execVcoal x s
  | .vruns x => Sys2Proof.Machine.execVruns x s
  | .vname x => Sys2Proof.Machine.execVname x s
  | .vquotaGet x => Sys2Proof.Machine.execVquotaGet x s
  | .vquotaSet x => Sys2Proof.Machine.execVquotaSet x s
  | .vfree x => Sys2Proof.Machine.execVfree x s
  | .glop x => Sys2Proof.Machine.execGlop x s
  | .gtov x => Sys2Proof.Machine.execGtov x s
  | .vtog x => Sys2Proof.Machine.execVtog x s
  | .gcnt x => Sys2Proof.Machine.execGcnt x s
  | .shfl x => Sys2Proof.Machine.execShfl x s
  | .bcast x => Sys2Proof.Machine.execBcast x s
  | .vote x => Sys2Proof.Machine.execVote x s
  | .matchLanes x => Sys2Proof.Machine.execMatchLanes x s
  | .vred x => Sys2Proof.Machine.execVred x s
  | .vscan x => Sys2Proof.Machine.execVscan x s
  | .xpat x => Sys2Proof.Machine.execXpat x s
  | .xtab x => Sys2Proof.Machine.execXtab x s
  | .elect x => Sys2Proof.Machine.execElect x s
  | .lanes x => Sys2Proof.Machine.execLanes x s
  | .ld x => Sys2Proof.Machine.execLd x s
  | .st x => Sys2Proof.Machine.execSt x s
  | .ldmx x => Sys2Proof.Machine.execLdmx x s
  | .stmx x => Sys2Proof.Machine.execStmx x s
  | .ldc x => Sys2Proof.Machine.execLdc x s
  | .stc x => Sys2Proof.Machine.execStc x s
  | .pref x => Sys2Proof.Machine.execPref x s
  | .cctlInv x => Sys2Proof.Machine.execCctlInv x s
  | .cctlDemote x => Sys2Proof.Machine.execCctlDemote x s
  | .cctlClean x => Sys2Proof.Machine.execCctlClean x s
  | .cctlInvall x => Sys2Proof.Machine.execCctlInvall x s
  | .rinit x => Sys2Proof.Machine.execRinit x s
  | .rpushGet x => Sys2Proof.Machine.execRpushGet x s
  | .rpushPut x => Sys2Proof.Machine.execRpushPut x s
  | .rpopGet x => Sys2Proof.Machine.execRpopGet x s
  | .rpopPut x => Sys2Proof.Machine.execRpopPut x s
  | .rstat x => Sys2Proof.Machine.execRstat x s
  | .atom x => Sys2Proof.Machine.execAtom x s
  | .cas x => Sys2Proof.Machine.execCas x s
  | .ldacq x => Sys2Proof.Machine.execLdacq x s
  | .strel x => Sys2Proof.Machine.execStrel x s
  | .fence x => Sys2Proof.Machine.execFence x s
  | .bar x => Sys2Proof.Machine.execBar x s
  | .barr x => Sys2Proof.Machine.execBarr x s
  | .barw x => Sys2Proof.Machine.execBarw x s
  | .waitv x => Sys2Proof.Machine.execWaitv x s
  | .waitvNotify wk lane => Sys2Proof.Machine.execWaitvNotify wk lane s
  | .mma x => Sys2Proof.Machine.execMma x s
  | .accz x => Sys2Proof.Machine.execAccz x s
  | .accld x => Sys2Proof.Machine.execAccld x s
  | .accst x => Sys2Proof.Machine.execAccst x s
  | .acccp x => Sys2Proof.Machine.execAcccp x s
  | .accrd x => Sys2Proof.Machine.execAccrd x s
  | .accwr x => Sys2Proof.Machine.execAccwr x s
  | .mstat x => Sys2Proof.Machine.execMstat x s
  | .mbind x => Sys2Proof.Machine.execMbind x s
  | .mbindFree x => Sys2Proof.Machine.execMbindFree x s
  | .tcopy x => Sys2Proof.Machine.execTcopy x s
  | .tgather x => Sys2Proof.Machine.execTgather x s
  | .tscatter x => Sys2Proof.Machine.execTscatter x s
  | .tfeed x => Sys2Proof.Machine.execTfeed x s
  | .tfill x => Sys2Proof.Machine.execTfill x s
  | .tconv x => Sys2Proof.Machine.execTconv x s
  | .tring x => Sys2Proof.Machine.execTring x s
  | .tstat x => Sys2Proof.Machine.execTstat x s
  | .pgnew x => Sys2Proof.Machine.execPgnew x s
  | .pgapp x => Sys2Proof.Machine.execPgapp x s
  | .pgappRef x => Sys2Proof.Machine.execPgappRef x s
  | .pgfree x => Sys2Proof.Machine.execPgfree x s
  | .pgpin x => Sys2Proof.Machine.execPgpin x s
  | .pgpinHold x => Sys2Proof.Machine.execPgpinHold x s
  | .pgunpin x => Sys2Proof.Machine.execPgunpin x s
  | .pgunpinHold x => Sys2Proof.Machine.execPgunpinHold x s
  | .pgtrunc x => Sys2Proof.Machine.execPgtrunc x s
  | .pgdemote x => Sys2Proof.Machine.execPgdemote x s
  | .pginfo x => Sys2Proof.Machine.execPginfo x s
  | .pglook x => Sys2Proof.Machine.execPglook x s
  | .pgsum x => Sys2Proof.Machine.execPgsum x s
  | .pgmassGet x => Sys2Proof.Machine.execPgmassGet x s
  | .pgmassSet x => Sys2Proof.Machine.execPgmassSet x s
  | .psel x => Sys2Proof.Machine.execPsel x s
  | .atts x => Sys2Proof.Machine.execAtts x s
  | .attv x => Sys2Proof.Machine.execAttv x s
  | .attf x => Sys2Proof.Machine.execAttf x s
  | .pfxh x => Sys2Proof.Machine.execPfxh x s
  | .pfxl x => Sys2Proof.Machine.execPfxl x s
  | .pfxi x => Sys2Proof.Machine.execPfxi x s
  | .pfxd x => Sys2Proof.Machine.execPfxd x s
  | .pfxdUnpin x => Sys2Proof.Machine.execPfxdUnpin x s
  | .trap x => Sys2Proof.Machine.execTrap x s
  | .rte x => Sys2Proof.Machine.execRte x s
  | .movsRead x => Sys2Proof.Machine.execMovsRead x s
  | .movsWrite x => Sys2Proof.Machine.execMovsWrite x s
  | .movsp x => Sys2Proof.Machine.execMovsp x s
  | .logrec x => Sys2Proof.Machine.execLogrec x s
  | .cntrd x => Sys2Proof.Machine.execCntrd x s
  | .cntcfgSel x => Sys2Proof.Machine.execCntcfgSel x s
  | .cntcfgClr x => Sys2Proof.Machine.execCntcfgClr x s
  | .cntcfgFrz x => Sys2Proof.Machine.execCntcfgFrz x s
  | .cntcfgRun x => Sys2Proof.Machine.execCntcfgRun x s
  | .bkpt x => Sys2Proof.Machine.execBkpt x s
  | .tlbinvVa x => Sys2Proof.Machine.execTlbinvVa x s
  | .tlbinvAll x => Sys2Proof.Machine.execTlbinvAll x s
  | .longLatencyResultWrite wk id lanes => Sys2Proof.Machine.execLongLatencyResultWrite wk id lanes s
  | .warpTrapAction wk => Sys2Proof.Machine.execWarpTrapAction wk s
  | .timerExpiry wk => Sys2Proof.Machine.execTimerExpiry wk s
  | .l1Fill id => Sys2Proof.Machine.execL1Fill id s
  | .l1LeaseExpiry core line => Sys2Proof.Machine.execL1LeaseExpiry core line s
  | .homeSliceRead id => Sys2Proof.Machine.execHomeSliceRead id s
  | .homeSliceWrite id => Sys2Proof.Machine.execHomeSliceWrite id s
  | .heldPoolWriteProceed => Sys2Proof.Machine.execHeldPoolWriteProceed s
  | .hpoolPressureMove => Sys2Proof.Machine.execHpoolPressureMove s
  | .vaultAccess id => Sys2Proof.Machine.execVaultAccess id s
  | .storeCompletionReturn id => Sys2Proof.Machine.execStoreCompletionReturn id s
  | .acquireComplete wk => Sys2Proof.Machine.execAcquireComplete wk s
  | .fenceComplete wk => Sys2Proof.Machine.execFenceComplete wk s
  | .beaconTicket id => Sys2Proof.Machine.execBeaconTicket id s
  | .frontierAtomicPerform id => Sys2Proof.Machine.execFrontierAtomicPerform id s
  | .orderingWaitDeadlock launch => Sys2Proof.Machine.execOrderingWaitDeadlock launch s
  | .commit => Sys2Proof.Machine.execCommit s
  | .peerDigestExchange launch digest => Sys2Proof.Machine.execPeerDigestExchange launch digest s
  | .ebbVisit lpn => Sys2Proof.Machine.execEbbVisit lpn s
  | .ebbSwap lpn => Sys2Proof.Machine.execEbbSwap lpn s
  | .hatchSweepVisit => Sys2Proof.Machine.execHatchSweepVisit s
  | .hatchFetch lpn ok => Sys2Proof.Machine.execHatchFetch lpn ok s
  | .gantryPassStart g => Sys2Proof.Machine.execGantryPassStart g s
  | .gantryPassDrain g => Sys2Proof.Machine.execGantryPassDrain g s
  | .tenderOpStart id => Sys2Proof.Machine.execTenderOpStart id s
  | .engineOpFinish id => Sys2Proof.Machine.execEngineOpFinish id s
  | .lqTailDoorbell q tail => Sys2Proof.Machine.execLqTailDoorbell q tail s
  | .launchAdmission src => Sys2Proof.Machine.execLaunchAdmission src s
  | .groupDispatch => Sys2Proof.Machine.execGroupDispatch s
  | .launchEnd launch => Sys2Proof.Machine.execLaunchEnd launch s
  | .preemption => Sys2Proof.Machine.execPreemption s
  | .stageTargetAdjust => Sys2Proof.Machine.execStageTargetAdjust s
  | .deviceReset accepted => Sys2Proof.Machine.execDeviceReset accepted s
  | .breakwaterPowerLimit => Sys2Proof.Machine.execBreakwaterPowerLimit s
  | .railCurrentLimit => Sys2Proof.Machine.execRailCurrentLimit s
  | .thermalThrottle => Sys2Proof.Machine.execThermalThrottle s
  | .thermalTrip => Sys2Proof.Machine.execThermalTrip s
  | .coolantFlowLow => Sys2Proof.Machine.execCoolantFlowLow s
  | .portcullisAlarm source => Sys2Proof.Machine.execPortcullisAlarm source s
  | .debugUnlockAttempt => Sys2Proof.Machine.execDebugUnlockAttempt s
  | .attest => Sys2Proof.Machine.execAttest s
  | .stageFirmwareImage => Sys2Proof.Machine.execStageFirmwareImage s
  | .activateFirmwareImage => Sys2Proof.Machine.execActivateFirmwareImage s
  | .readPortcullisLog => Sys2Proof.Machine.execReadPortcullisLog s
  | .clearHaltedLaunch => Sys2Proof.Machine.execClearHaltedLaunch s
  | .provisionIdentityKey => Sys2Proof.Machine.execProvisionIdentityKey s
  | .mailboxUnassignedCommand => Sys2Proof.Machine.execMailboxUnassignedCommand s
  | .ttInv => Sys2Proof.Machine.execTtInv s
  | .descriptorApertureWrite word value => Sys2Proof.Machine.execDescriptorApertureWrite word value s
  | .trcCtlWrite value => Sys2Proof.Machine.execTrcCtlWrite value s
  | .replResume => Sys2Proof.Machine.execReplResume s
  | .managementRegisterWrite off value => Sys2Proof.Machine.execManagementRegisterWrite off value s
  | .hostCxlRead lp pa n => Sys2Proof.Machine.execHostCxlRead lp pa n s
  | .hostCxlWrite lp pa bytes => Sys2Proof.Machine.execHostCxlWrite lp pa bytes s
  | .peerInboundAccess link acc => Sys2Proof.Machine.execPeerInboundAccess link acc s
  | .peerWriteAck id => Sys2Proof.Machine.execPeerWriteAck id s
  | .peerLinkDown link => Sys2Proof.Machine.execPeerLinkDown link s
  | .traceRecordWrite => Sys2Proof.Machine.execTraceRecordWrite s
  | .clockLimitClears limit => Sys2Proof.Machine.execClockLimitClears limit s
  | .peerLinkTrained link => Sys2Proof.Machine.execPeerLinkTrained link s
  | .hatchSpillComplete lpn => Sys2Proof.Machine.execHatchSpillComplete lpn s

end Sys2Proof.Machine
end

