-- ==== Sys2Proof/Machine/Turns.lean ====
section
/-! DEFINITION. What stands around a turn: the charging of issue positions (spec 18, R417, R418), the bays' pointers (04, R97), and the
turn that is taken where the tape is empty (log entries 1, 2, 3 and 14). -/

namespace Sys2Proof.Machine

/-! ### Leaves (R417, R418) -/

/-- Some thread of a warp waits for something of a kind. -/
def Warp.someWait (w : Warp) (p : Fin 32 → Wait → Bool) : Bool :=
  (Mask.lanes (BitVec.allOnes 32)).any fun i => match w.threads[i].waits with | some a => p i a | none => false

/-- The quarters of a warp that wait for an engine's entry. -/
def State.queuedOf (s : State) (w : Warp) (res : Nat) : Mask :=
  (s.qwait.filter fun q => q.gid == w.gid && q.widx == w.widx && q.res == res && s.stillWaits q).foldl (fun m q => m ||| quarterMask q.quarter) 0

/-- R418: the set that issues next is held at a marker. -/
def State.markerHeld (s : State) (w : Warp) : Bool :=
  match w.upNext with
  | none => false
  | some (pc, set) =>
    match s.fetch pc with
    | .error _ => false
    | .ok ws =>
      match decodeWords ((Mask.lanes set).all fun i => w.threads[i].privl) (ws.getD 0 0) (ws.getD 1 0) (ws.getD 2 0) (ws.getD 3 0) (ws.getD 4 0) with
      | .ok i => Instr.marked i && !w.pend.isEmpty
      | .error _ => false

/-- An issue turn issued an instruction. -/
def issuedBy (wk : Nat) (s1 s2 : State) : Bool :=
  match s1.warp? wk, s2.warp? wk with
  | some a, some b => a.beat != b.beat
  | _, _ => true

/-- R418: the held set of a warp would issue in another state. -/
def State.wouldGo (s : State) (wk : Nat) : Bool :=
  match pickIssue (wkCore wk) (wk % 64) s with
  | .done _ => false
  | .run i s1 => match exec i s1 with | .next s2 => issuedBy wk s1 s2 | _ => false

/-- R418: a held set waits for what a state would have free. -/
def State.holdFrom (s : State) (wk : Nat) (w : Warp) (free : State) : Bool := w.latch.isSome && !(s.wouldGo wk) && free.wouldGo wk

/-- The state with room in the slots of a warp; with none of the requests that are outstanding counted (R219); with nothing under way in a
Gantry. -/
def State.withSlots (s : State) (wk : Nat) : State := s.modWarp wk fun w => { w with slots := Vector.replicate 8 Slot.init }
def State.withRequests (s : State) : State :=
  { s with ops := s.ops.map (fun o => { o with busy := 0 })
           mem := { s.mem with reqs := s.mem.reqs.map (fun r => { r with core := Config.cores })
                               watches := s.mem.watches.map fun w => { w with notified := false } } }
def State.withGantry (s : State) (u : Nat) : State := { s with gantries := Sparse.erase s.gantries u, ops := [] }

/-- R418: the leaf that a warp which did not issue is charged to. The leaves 0x0F to 0x11 are those of waits whose length is timing: such a
warp is charged to 0x12 (DESIGN CHOICE, log entry 14). -/
def State.leafFor (s : State) (wk : Nat) (w : Warp) : Nat :=
  let halted := match s.launchOf w with | some l => l.status == 3 | none => false
  let table := s.queuedOf w 0
  let engine := s.queuedOf w 1
  let lists := s.queuedOf w 2
  let collective := fun (i : Fin 32) (a : Wait) => !((table ||| engine ||| lists).getLsbD i) && match a with
    | .collective _ | .member _ _ | .rejoin _ | .bar _ _ _ => true
    | _ => false
  let marker := s.markerHeld w
  if w.anyParked || w.stopping || w.stopped != 0 || halted then 0x02
  else if w.gone != BitVec.allOnes 32 && (Mask.lanes (~~~ w.gone)).all (fun i => match w.threads[i].waits with | some (.sleep _) => true | _ => false) then 0x03
  else if w.someWait collective then 0x04
  else if w.someWait fun _ a => match a with | .waitc _ | .value _ | .step _ _ _ => true | _ => false then 0x05
  else if w.someWait fun _ a => match a with | .acquire _ _ | .fence _ _ _ => true | _ => false then 0x06
  else if w.someWait fun _ a => match a with | .ring _ _ _ | .stage _ _ _ _ => true | _ => false then 0x07
  else if w.someWait fun _ a => match a with | .buffer _ | .hatch _ => true | _ => false then 0x08
  else if table != 0 then 0x09
  else if engine ||| lists != 0 || (!marker && s.holdFrom wk w (s.withSlots wk)) then 0x0A
  else if !marker && s.holdFrom wk w s.withRequests then 0x0B
  else if marker then (if w.pend.any (·.isLoad) then 0x0C else 0x0D)
  else if s.holdFrom wk w (s.withGantry (wkCore wk / 4)) then 0x0E
  else 0x12

/-- R97: the warps of a bay in picker order. -/
def State.bayWarps (s : State) (core bay : Nat) : List (Nat × Warp) :=
  let p := ((s.coreOf core).bayPtr)[Fin.ofNat 4 bay]
  (List.range 16).filterMap fun k =>
    let wk := core * 64 + 4 * ((p + k) % 16) + bay
    (s.warp? wk).map fun w => (wk, w)

/-- R417: the positions of a core in some cycles in which at most one of its warps issues. -/
def State.chargeCore (s : State) (core cycles : Nat) (issued : Option Nat) : State :=
  (List.range 4).foldl (fun s bay =>
    let mine := match issued with | some wk => wk % 4 == bay | none => false
    let idle := (s.bayWarps core bay).filter fun e => !(issued == some e.1)
    (idle.take (if mine then 3 else 4)).foldl (fun s e => s.leaf core (s.leafFor e.1 e.2) cycles) s) s

/-- R417: the positions of every core that holds warps. -/
def State.charge (s : State) (cycles : Nat) (issued : Option Nat) : State :=
  if cycles = 0 then s
  else ((s.warps.map fun e => wkCore e.1).eraseDups).foldl (fun s core =>
    s.chargeCore core cycles (match issued with | some wk => if wkCore wk = core then issued else none | none => none)) s

/-! ### After a turn -/

/-- R97: the bay's pointer moves to the slot that follows the warp that issued. -/
def State.moveBay (s : State) (core slot : Nat) : State :=
  s.modCore core fun k => { k with bayPtr := k.bayPtr.set (Fin.ofNat 4 slot) ((slot / 4 + 1) % 16) }

/-- R404: timers that have not expired when their warps have stopped for a save are disarmed, before time passes. -/
def State.disarmAll (s : State) : State := s.warps.foldl (fun s e => s.disarm e.1) s

/-- What follows an issue: the pick is over, the bay's pointer moves, positions are charged, and a cycle passes. -/
def afterIssue (core slot : Nat) (s : State) : State := ((({ s with issue := none }).moveBay core slot).charge 1 (some (core * 64 + slot))).disarmAll.tick

/-- An issue turn that ended before an instruction's own effect. -/
def afterPick (s : State) : State := (s.charge 1 none).disarmAll.tick

/-- Device time passes. -/
def State.elapse (s : State) (ns : Nat) : State := (s.charge ((s.pass (21 * ns)).clock.cycles - s.clock.cycles) none).disarmAll.pass (21 * ns)

/-! ### The default turn (DESIGN CHOICE, log entry 2) -/

/-- One of the device's own steps. -/
abbrev Own := State → Out

/-- The steps that a memory request may take. -/
def Request.events (r : Request) : List Own :=
  [execBeaconTicket r.id, execFrontierAtomicPerform r.id, execHomeSliceRead r.id, execHomeSliceWrite r.id, execVaultAccess r.id, execL1Fill r.id,
   execStoreCompletionReturn r.id, execPeerWriteAck r.id]

/-- The steps that a warp may take by itself. -/
def Warp.events (w : Warp) (wk : Nat) : List Own :=
  (w.pend.map fun p => execLongLatencyResultWrite wk p.id (maskOf fun i => p.left.getLsbD i && (Sparse.find p.outs i.val).isSome))
    ++ [execSleepWake wk, execAcquireComplete wk, execFenceComplete wk, execWarpTrapAction wk, execTimerExpiry wk]

/-- The steps of the page engines. -/
def State.pageEvents (s : State) : List Own :=
  [execHeldPoolWriteProceed, execHpoolPressureMove]
    ++ s.pages.rewrites.flatMap (fun r => [execEbbSwap r.lpn, execHatchSpillComplete r.lpn])
    ++ (s.pages.wanted ++ s.lookahead.toList).map (fun p => execHatchFetch p true)
    ++ (if s.pages.passes.toList.any Option.isSome then s.pages.descs.map fun e => execEbbVisit e.1 else [])
    ++ (if s.hatchSweep.pages.sweeping then [execHatchSweepVisit] else [])

/-- The steps of the scheduler. -/
def State.schedEvents (s : State) : List Own :=
  (none :: (List.range 64).map some).map execLaunchAdmission
    ++ s.launches.flatMap (fun e => [execLaunchEnd (BitVec.ofNat 64 e.1), execOrderingWaitDeadlock (BitVec.ofNat 64 e.1)])
    ++ [execGroupDispatch, execPreemption, execStageTargetAdjust, execCommit]

/-- The steps of the firmware, on a mailbox command. -/
def firmEvents : List Own :=
  [execAttest, execStageFirmwareImage, execActivateFirmwareImage, execReadPortcullisLog, execClearHaltedLaunch, execProvisionIdentityKey,
   execMailboxUnassignedCommand]

/-- The steps of the device's own that may be due, oldest first. What comes from the host, a peer or a sensor is not among them. -/
def State.ownEvents (s : State) : List Own :=
  s.mem.reqs.flatMap Request.events
    ++ s.warps.flatMap (fun e => e.2.events e.1)
    ++ s.mem.watches.flatMap (fun w => match w.slot, s.findWarp w.gid w.widx with
        | some _, _ => [execKarmWatchCheck w.id]
        | none, some wk => [execWaitvNotify wk w.lane]
        | none, none => [])
    ++ s.ops.flatMap (fun o => [execTenderOpStart o.id, execEngineOpFinish o.id])
    ++ s.gantries.flatMap (fun e => [execGantryPassStart e.1, execGantryPassDrain e.1])
    ++ s.pageEvents ++ s.schedEvents
    ++ firmEvents ++ [execTraceRecordWrite]
    ++ s.cores.flatMap (fun e => e.2.l1.map fun l => execL1LeaseExpiry e.1 l.line)

/-- A step is due: it would change the state. -/
def State.due (s : State) (f : Own) : Bool :=
  match f s with
  | .next t => t != s
  | _ => false

/-- The warp in a slot would issue, or take a fault at its fetch or its decoding, or stop. -/
def State.wouldIssue (s : State) (wk : Nat) (w : Warp) : Bool :=
  match w.upNext with
  | none => false
  | some c =>
    match pickIssue (wkCore wk) (wk % 64) s with
    | .done s1 => s1.warp? wk != s.warp? wk && s1.warp? wk != (s.holdSet wk c.1 true).warp? wk
    | .run i s1 => (match exec i s1 with | .next s2 => issuedBy wk s1 s2 | _ => true)

/-- The cores that hold warps, beginning with one that turns with the cycles. -/
def State.coresInTurn (s : State) : List Nat :=
  let cs := (s.warps.map fun e => wkCore e.1).eraseDups
  cs.drop (s.clock.cycles % max 1 cs.length) ++ cs.take (s.clock.cycles % max 1 cs.length)

/-- The bays, in an order that turns with the cycles and in which each of two bays comes before the other equally often. -/
def baysInTurn (cycles : Nat) : List Nat := (List.range 4).map fun b => (if cycles % 2 = 0 then cycles + 4 - b else cycles + b) % 4

/-- What the default turn does. -/
inductive Default where
  | own (f : Own)
  | issue (core slot : Nat)
  | pass

/-- The turn where the tape is empty: the first step that is due; or else the first warp in picker order that can issue; or else a
nanosecond passes. -/
def State.defaultTurn (s : State) : Default :=
  match s.ownEvents.find? s.due with
  | some f => .own f
  | none =>
    let order := s.coresInTurn.flatMap fun core => (baysInTurn s.clock.cycles).flatMap fun b => s.bayWarps core b
    match order.find? fun e => s.wouldIssue e.1 e.2 with
    | some e => .issue (wkCore e.1) (e.1 % 64)
    | none => .pass

/-! ### Running a turn -/

/-- R43, R98: an issue turn whose instruction a resource held: nothing is done, and the set keeps its place. -/
def State.heldBack (s : State) (core slot : Nat) : State :=
  match (s.warp? (core * 64 + slot)).bind Warp.upNext with
  | some c => s.holdSet (core * 64 + slot) c.1 false
  | none => s

/-- A warp's turn to issue. -/
def issueTurn (core slot : Nat) (s : State) : Host.Outcome State Fault Refusal :=
  match pickIssue core slot s with
  | .done s1 => .next (afterPick s1)
  | .run i s1 =>
    match exec i s1 with
    | .next s2 => .next (if issuedBy (core * 64 + slot) s1 s2 then afterIssue core slot s2 else afterPick (s.heldBack core slot))
    | .fault r => .fault r
    | .refused r => .refused r

/-- What happens at a turn. -/
def runTurn (t : Turn) (s : State) : Host.Outcome State Fault Refusal :=
  match t with
  | .elapse ns => .next (s.elapse ns)
  | .event i => exec i s
  | .evict slice => .next (s.evictFrom slice)
  | .upset line raw => .next (s.upset line raw)
  | .issue core slot => issueTurn core slot s

/-- The turn where the tape is empty (DESIGN CHOICE, log entry 2). -/
def runDefault (s : State) : Host.Outcome State Fault Refusal :=
  match s.defaultTurn with
  | .own f => f s
  | .issue core slot => issueTurn core slot s
  | .pass => .next (s.elapse 1)

end Sys2Proof.Machine
end

