-- ==== Sys2Proof/Machine/Step.lean ====
section
/-! DEFINITION. One step of the machine: the next element of the tape, or the default turn where the tape is empty (log entries 1
to 3), and the placing of a single instruction where the next step fetches it. -/

namespace Sys2Proof.Machine

/-- One step. -/
def step (s : State) : Host.Outcome State Fault Refusal :=
  match s.turns with
  | t :: rest => runTurn t { s with turns := rest }
  | [] => runDefault s

/-- The state with an instruction, given as the opcode table numbers its bits, stored where the next step fetches it; one that needs
privileged mode (R409) stands in a trap handler of its warp. -/
def State.withFetchWord (s : State) (nbits w : Nat) : State :=
  let t := s.withProgram (tableBytes nbits w)
  match decodeBytes false (tableBytes nbits w) with
  | .error .privilege => t.modWarp 0 fun w => { w with handler := BitVec.allOnes 32, threads := Vector.ofFn fun i => { w.threads[i] with privl := true } }
  | _ => t

end Sys2Proof.Machine
end

