-- ==== Sys2Proof/Safety.lean ====
section
/-! DEFINITION. The terms in which statements are made: what an instruction sees as it issues, what an instruction leaves alone, what
a written result looks like, and the invariants of the machine. -/

namespace Sys2Proof.Machine

/-! ### Issue -/

/-- What an instruction sees as it issues (R28, R98): the picked set, its warp with the wait counts of the issue, the active mask and the
threads that Z zeroes. None where no set stands at an instruction. -/
def standing (x : Ext) (s : State) : Option Ctx :=
  match s.issue with
  | none => none
  | some iss =>
    match s.warp? (iss.core * 64 + iss.slot) with
    | none => none
    | some w0 =>
      let w := w0.noteIssue iss.set
      let act := activeMask w iss.set x.ge x.gn x.gp
      some { wk := iss.core * 64 + iss.slot, w := w, set := iss.set, act := act, zero := if x.z then iss.set &&& ~~~ act else 0
             pc := iss.pc, next := iss.pc + BitVec.ofNat 64 x.len.bytes }

/-- R66: the charge bound of a vector destination, beside the cells of the warp's mapped runs and what its outstanding results have borrowed
(R65), fits into what the warp may hold. A write under an empty active mask is not charged. -/
def Fits (c : Ctx) (s : State) (d : BitVec 6) (bound : Nat) : Prop :=
  c.act = 0 ∨ c.w.charged - c.w.cellsOf d + bound ≤ c.w.quota + s.lendableTo c.w c.wk

/-- No active thread's flags meet an enabled trap (R126, R147), and no active thread faults. -/
def Untrapped (c : Ctx) (out : Fin 32 → LaneOut) : Prop :=
  ∀ i : Fin 32, c.act.getLsbD i = true → (out i).trap c.w.threads[i] = none

/-! ### What stays -/

/-- Everything but one warp is as before: only that warp's entry, the reuse table and the counters of its core, and the counter of free
values may differ. So every other warp, every byte of every memory, and every register of the device is as before. -/
structure Elsewhere (wk : Nat) (s t : State) : Prop where
  device : t = { s with warps := t.warps, cores := t.cores, fresh := t.fresh }
  warps  : ∀ k, k ≠ wk → t.warp? k = s.warp? k
  cores  : ∀ n, n ≠ wkCore wk → t.coreOf n = s.coreOf n
  core   : t.coreOf (wkCore wk) =
    { s.coreOf (wkCore wk) with
      reuse := (t.coreOf (wkCore wk)).reuse, leaves := (t.coreOf (wkCore wk)).leaves, evCount := (t.coreOf (wkCore wk)).evCount }

/-! ### Results -/

/-- A thread of the set after its instruction: flags raised if it is active, and on at the next instruction. -/
def Ctx.threadAfter (c : Ctx) (out : Fin 32 → LaneOut) (i : Fin 32) : Thread :=
  let t := if c.act.getLsbD i then (c.w.threads[i]).raise (out i).fflags (out i).iflags else c.w.threads[i]
  if c.set.getLsbD i then { t with pc := c.next } else t

/-- R63: what thread `i` holds in a register that has been written. -/
def Ctx.regAfter (c : Ctx) (d : BitVec 6) (val : Fin 32 → Word) (i : Fin 32) : Word :=
  if c.act.getLsbD i then val i else if c.zero.getLsbD i then 0 else c.reg d i

/-- R81: what thread `i` holds in a guard that has been written. -/
def Ctx.guardAfter (c : Ctx) (g : Nat) (bit : Fin 32 → Bool) (i : Fin 32) : Bool :=
  if c.act.getLsbD i then bit i else if c.zero.getLsbD i then false else (c.guard g).getLsbD i

/-- The warp after results have been written to a vector register, a guard, or both, in every active thread. -/
structure Wrote (c : Ctx) (w : Warp) (dst : Dst) (dst2 : Option Nat) (out : Fin 32 → LaneOut) : Prop where
  reg     : ∀ d, dst = .vec d → ∀ i, w.regs[d.toFin].get i = c.regAfter d (fun i => (out i).word) i
  regs    : ∀ r : BitVec 6, dst ≠ .vec r → w.regs[r.toFin] = c.w.regs[r.toFin]
  guard   : ∀ g : Nat, (dst = .guard g ∨ dst2 = some g) → ∀ i : Fin 32, w.guards[guardIdx g].getLsbD i = c.guardAfter g (fun i => (out i).bit) i
  guards  : ∀ n : Fin 16, (∀ g, dst = .guard g ∨ dst2 = some g → guardIdx g ≠ n) → w.guards[n] = c.w.guards[n]
  threads : ∀ i : Fin 32, w.threads[i] = c.threadAfter out i
  rest    : w = { c.w with regs := w.regs, guards := w.guards, threads := w.threads }

/-- An instruction has completed: results in every active thread, everything else as before. -/
def Completed (c : Ctx) (s t : State) (dst : Dst) (dst2 : Option Nat) (out : Fin 32 → LaneOut) : Prop :=
  Elsewhere c.wk s t ∧ ∃ w, t.warp? c.wk = some w ∧ Wrote c w dst dst2 out

/-- A thread of the set after an instruction that has only gone on. -/
def Ctx.gone (c : Ctx) : Vector Thread 32 :=
  Vector.ofFn fun i : Fin 32 => if c.set.getLsbD i then { c.w.threads[i] with pc := c.next } else c.w.threads[i]

/-- The threads after an instruction that has gone on and changed its active threads. -/
def Ctx.goneWith (c : Ctx) (f : Fin 32 → Thread → Thread) : Vector Thread 32 :=
  Vector.ofFn fun i : Fin 32 => if c.act.getLsbD i then f i c.gone[i] else c.gone[i]

/-- The threads after an instruction whose active threads do not simply go on. -/
def Ctx.branched (c : Ctx) (f : Fin 32 → Thread → Thread) : Vector Thread 32 :=
  Vector.ofFn fun i : Fin 32 =>
    if c.act.getLsbD i then f i c.w.threads[i] else if c.set.getLsbD i then { c.w.threads[i] with pc := c.next } else c.w.threads[i]

/-- R42: an instruction has left a result outstanding: the set has gone on, nothing is written yet, and everything else is as before. -/
def LeftOutstanding (c : Ctx) (s t : State) (p : Pending) : Prop :=
  Elsewhere c.wk s t ∧ t.warp? c.wk = some { c.w with threads := c.gone, pend := c.w.pend ++ [p] }

/-- An instruction gives results to a vector register, a guard, or both: where its set stands, its charge bound over these sources fits
(R66) and no lane traps, it answers the next state in which they are written. -/
def Gives (i : Instr) (x : Ext) (s : State) (bound : Ctx → BitVec 6 → Nat) (dst : Dst) (dst2 : Option Nat) (out : Ctx → Fin 32 → LaneOut) : Prop :=
  ∀ c, standing x s = some c → (∀ d, dst = .vec d → Fits c s d (bound c d)) → Untrapped c (out c) →
    ∃ t, exec i s = .next t ∧ Completed c s t dst dst2 (out c)

/-- The elementwise charge bound (R66) over some sources. -/
def chargeOver (x : Ext) (srcs : List Src) (c : Ctx) (d : BitVec 6) : Nat := c.elemBound x srcs d

/-- An instruction gives one thread value in its destination register, and raises nothing. -/
def GivesWord (i : Instr) (x : Ext) (s : State) (srcs : List Src) (f : Ctx → Fin 32 → Word) : Prop :=
  Gives i x s (chargeOver x srcs) (.vec x.d) none fun c i => plain (f c i)

/-- An instruction gives one guard bit in a guard, and raises nothing. -/
def GivesBit (i : Instr) (x : Ext) (s : State) (g : Nat) (f : Ctx → Fin 32 → Bool) : Prop :=
  Gives i x s (fun _ _ => 0) (.guard g) none fun c i => .value 0 (f c i) 0 0

/-- A long-latency instruction (R42): where it stands, its charge fits and no lane traps, its result is left outstanding, with what each
lane is to receive; or, where the active mask is empty or the reuse table serves it (R75), written at once. -/
def GivesLater (i : Instr) (x : Ext) (s : State) (bound : Ctx → BitVec 6 → Nat) (dst : Dst) (out : Ctx → Fin 32 → LaneOut) : Prop :=
  ∀ c, standing x s = some c → (∀ d, dst = .vec d → Fits c s d (bound c d)) → Untrapped c (out c) →
    ∃ t, exec i s = .next t ∧
      ((c.act = 0 ∨ (s.coreOf c.core).reuse ≠ []) ∧ Completed c s t dst none (out c) ∨
        c.act ≠ 0 ∧ ∃ p, LeftOutstanding c s t p ∧ p.id = s.fresh ∧ p.pc = c.pc ∧ p.dst = dst ∧ p.act = c.act ∧ p.zero = c.zero ∧ p.left = c.act ∧
          ∀ i : Fin 32, Sparse.find p.outs i = some (out c i))

/-- An instruction that changes the active threads of its set and nothing else: the others of the set go on to the next instruction. -/
def Steers (i : Instr) (x : Ext) (s : State) (f : Ctx → Fin 32 → Thread → Thread) : Prop :=
  ∀ c, standing x s = some c → ∃ t, exec i s = .next t ∧ Elsewhere c.wk s t ∧ t.warp? c.wk = some { c.w with threads := c.branched (f c) }

/-- The place that an access of a request goes to. -/
def Request.placeOf (r : Request) (a : Access) : Place :=
  match r.space with
  | 0 => .glob r.tgt a.pa
  | 1 => .vault r.unit a.pa
  | _ => .scratch a.pa

/-- The place that a watch reads. -/
def Watch.placeOf (v : Watch) : Place :=
  match v.space with
  | 0 => .glob v.tgt v.pa
  | 1 => .vault v.unit v.pa
  | _ => .scratch v.pa

/-- An access of thread `i` is on its way to memory, as part of a request. -/
def OnItsWay (c : Ctx) (t : State) (i : Fin 32) (p : Request → Access → Prop) : Prop :=
  ∃ r ∈ t.mem.reqs, r.stage = .posted ∧ r.core = c.core ∧ r.gid = c.w.gid ∧ r.widx = c.w.widx ∧ ∃ a ∈ r.accs, a.lane = i.val ∧ p r a

/-- A warp, but for the reuse entries that its outstanding loads would make, which a store to one of their lines forgoes (R76). -/
def Warp.shorn (w : Warp) : Warp := { w with pend := w.pend.map fun p => { p with key := none } }

/-- Every warp is as before, but for the entries that outstanding loads would make. -/
def WarpsKept (s t : State) : Prop := ∀ k, (t.warp? k).map Warp.shorn = (s.warp? k).map Warp.shorn

/-- No byte of HBM, in which the private areas and constant images lie (R213), of the LP tier, of host memory, of a peer, of a scratchpad or of a
vault differs. -/
structure BytesKept (s t : State) : Prop where
  hbm    : t.mem.hbm = s.mem.hbm
  lp     : t.mem.lp = s.mem.lp
  host   : t.mem.host = s.mem.host
  peers  : t.mem.peers = s.mem.peers
  groups : ∀ g, (t.group? g).map (·.scratch) = (s.group? g).map (·.scratch)
  vaults : ∀ n, (t.coreOf n).vault = (s.coreOf n).vault

/-- Bytes stored by the active threads of an issue, each `n` bytes at its own address: every byte outside them stays, and a thread's bytes stand
where no higher thread has stored over them. -/
def StoredBy (act : Mask) (n : Nat) (addr : Fin 32 → Nat) (data : Fin 32 → List Byte) (before after : Memory) : Prop :=
  (∀ b, (∀ i : Fin 32, act.getLsbD i = true → b < addr i ∨ addr i + n ≤ b) → after.byte b = before.byte b) ∧
  ∀ i : Fin 32, act.getLsbD i = true → (∀ j : Fin 32, act.getLsbD j = true → i < j → addr j + n ≤ addr i ∨ addr i + n ≤ addr j) →
    after.bytes (addr i) n = data i

/-- R66, R67, R399: the cells that are missing park every active thread at the instruction with run overflow (0x0C); no register and no guard
changes, and the other threads of the set go on, but for those that Z has still to give zeros (log entry 35). -/
def ParksForCells (c : Ctx) (s : State) (i : Instr) (missing : Nat) : Prop :=
  ∃ t w, exec i s = .next t ∧ BytesKept s t ∧ t.warp? c.wk = some w ∧ w.regs = c.w.regs ∧ w.guards = c.w.guards ∧
    ∀ k : Fin 32,
      (c.act.getLsbD k = true → c.w.threads[k].st ≠ .parked →
        w.threads[k].st = .parked ∧ w.threads[k].resume = c.pc ∧
        ∃ r, w.threads[k].frec = some r ∧ r.cause = 0x0C ∧ r.mask = c.act ∧ r.addr = BitVec.ofNat 64 missing) ∧
      (c.act.getLsbD k = false → w.threads[k] = if c.zero.getLsbD k then c.w.threads[k] else c.gone[k])

/-- An instruction whose charge bound over some sources does not fit parks its active threads for the cells that are missing (R66, R67). -/
def Overflows (i : Instr) (x : Ext) (s : State) (srcs : List Src) : Prop :=
  ∀ c, standing x s = some c → ¬ Fits c s x.d (c.elemBound x srcs x.d) →
    ParksForCells c s i (c.w.charged - c.w.cellsOf x.d + c.elemBound x srcs x.d - (c.w.quota + s.lendableTo c.w c.wk))

/-- A thread is parked with a record of a cause (R399). -/
def Thread.parkedWith (t : Thread) (cause : Nat) (addr : Word) : Prop :=
  t.st = .parked ∧ ∃ r, t.frec = some r ∧ r.cause = cause ∧ r.addr = addr

/-- R126, R147: an active thread whose flags meet an enabled trap keeps its destination and is parked at the instruction with the trap's cause
and its raised flags in the record, its sticky flags raised; the others take their results and go on. -/
def TrapsPark (i : Instr) (x : Ext) (s : State) (srcs : List Src) (out : Ctx → Fin 32 → LaneOut) : Prop :=
  ∀ c, standing x s = some c → Fits c s x.d (c.elemBound x srcs x.d) →
    ∃ t w, exec i s = .next t ∧ t.warp? c.wk = some w ∧
      ∀ k : Fin 32, c.act.getLsbD k = true → c.w.threads[k].st ≠ .parked →
        match (out c k).trap c.w.threads[k] with
        | some (cause, addr) =>
          w.regs[x.d.toFin].get k = c.reg x.d k ∧ w.threads[k].parkedWith cause addr ∧ w.threads[k].pc = c.w.threads[k].pc ∧
            w.threads[k].fsr = ((c.w.threads[k]).raise (out c k).fflags (out c k).iflags).fsr ∧
            w.threads[k].isr = ((c.w.threads[k]).raise (out c k).fflags (out c k).iflags).isr
        | none =>
          w.regs[x.d.toFin].get k = (out c k).word ∧ w.threads[k].st = c.w.threads[k].st ∧
            w.threads[k].pc = if c.set.getLsbD k then c.next else c.w.threads[k].pc

/-! ### Invariants -/

/-- Every memory of the machine is in canonical form: those of the targets, flash, the scratchpads of the groups, the vaults of the cores, and
what the images of launches hold of scratchpads and private areas. -/
structure MemoryCanonical (s : State) : Prop where
  targets  : ∀ t, (s.mem.of t).wf = true
  flash    : s.pages.flash.wf = true
  groups   : ∀ e ∈ s.groups, e.2.scratch.wf = true
  cores    : ∀ e ∈ s.cores, e.2.vault.wf = true
  images   : ∀ e ∈ s.images, (∀ g ∈ e.2.groups, g.2.scratch.wf = true) ∧ ∀ m ∈ e.2.privs, m.2.wf = true

/-- R234: the counts of every ring, in a group or in the image of a launch, make up its slots. -/
def Ring.balanced (r : Ring) : Prop := r.free + r.np + r.full + r.nr = r.slots

structure RingsBalanced (s : State) : Prop where
  groups : ∀ e ∈ s.groups, ∀ r ∈ e.2.rings, r.2.balanced
  images : ∀ e ∈ s.images, ∀ g ∈ e.2.groups, ∀ r ∈ g.2.rings, r.2.balanced

/-! ### Quarters -/

/-- R283: the issue is one whole quarter of a warp: eight ready threads, all active, that stand at the instruction; and no other thread of the warp
waits. -/
structure Quarter (c : Ctx) (j : Nat) : Prop where
  number : j < 4
  set    : c.set = quarterMask j
  act    : c.act = quarterMask j
  here   : ∀ k : Fin 32, c.set.getLsbD k = true → c.w.threads[k].st = .ready ∧ c.w.threads[k].pc = c.pc ∧ c.w.threads[k].lateRec = none
  rest   : ∀ k : Fin 32, c.set.getLsbD k = false → c.w.threads[k].waits = none

/-! ### Engine operations -/

/-- An operation is on its way on a core, its work not ended, and no page it writes is held for raw storage (R467). -/
structure Moves (s : State) (o : EngOp) : Prop where
  here : s.op? o.id = some o
  core : o.core < Config.cores
  work : o.done = false
  sane : o.err = none
  room : s.opHeld o = false

/-- R219, R310: the core has room for the lines that a move touches for the first time. -/
def State.touches (s : State) (o : EngOp) (keys : List Nat) : Prop :=
  keys.length ≤ Config.requestLimit - (s.setOp o.id fun q => { q with busy := 0 }).outstandingOn o.core

/-- R222, R307: what an engine reads at an address, once it has looked at the lines there. -/
def State.engGets (s : State) (w : Warp) (space : Nat) (va : Word) (n : Nat) (bs : List Byte) : Prop :=
  (s.engNote w space va n).engRead w space (pieces n) va n = .ok bs

/-- Bytes from an address on lie in the scratchpad of a warp's group. -/
def ScratchRow (s : State) (w : Warp) (va : Word) (n : Nat) : Prop :=
  ∀ k m, 0 < m → k + m ≤ n → s.place w 0 2 (va + BitVec.ofNat 64 k) m 1 .write = .ok (.scratch (va.toNat + k))

/-- The operation stands after a move as before, but for the rows that it has moved and what it holds. -/
def Moved (t : State) (o : EngOp) (rows : Nat) (data : List (List Word)) (claim : Option Nat) : Prop :=
  ∃ p, t.op? o.id = some p ∧ p.instr = o.instr ∧ p.vals = o.vals ∧ p.rows = rows ∧ p.data = data ∧ p.claim = claim ∧ p.done = false ∧ p.err = o.err

/-- The threads of the set are ready at the next instruction. -/
def Ctx.wentOn (c : Ctx) (w : Warp) : Prop :=
  ∀ k : Fin 32, c.set.getLsbD k = true → w.threads[k].st = .ready ∧ w.threads[k].pc = c.next ∧ w.threads[k].wait = 0

/-- The threads of the set are parked at the instruction with bad handle (R286). -/
def Ctx.tookBadHandle (c : Ctx) (w : Warp) : Prop :=
  ∀ k : Fin 32, c.set.getLsbD k = true → w.threads[k].parkedWith 0x08 0 ∧ w.threads[k].pc = c.pc

end Sys2Proof.Machine
end

