-- ==== Sys2Proof/Certificates/Slice0/Obligations.lean ====
section
/-! DEFINITION. The statements for the provers, in the terms of Safety.lean. Each docstring names the rules that it rests on, and says so where
a value or a behaviour is the model's choice. -/

open Sys2Proof Sys2Proof.Machine

/-! ### Integer, bit and address instructions (spec 05) -/

/-- R128: the plain integer instructions: per element, the exact integer operation, saturated under SAT, modulo 2^w. -/
def Obligations.IntegerArithmeticResults : Prop := ∀ (x : Ext) (s : State),
  let two := [x.srcA, x.srcB, .none_]
  let per := fun (op : Int → Int → Int → Int) (a b d : Src) (c : Ctx) (i : Fin 32) =>
    mapElems x.ty.toNat (intElem x.ty.toNat x.sat op) (c.src a i) (c.src b i) (c.src d i)
  let w := tyWidth x.ty.toNat
  GivesWord (.iadd x) x s two (per (fun a b _ => a + b) x.srcA x.srcB .none_) ∧
  GivesWord (.isub x) x s two (per (fun a b _ => a - b) x.srcA x.srcB .none_) ∧
  GivesWord (.imul x) x s two (per (fun a b _ => a * b) x.srcA x.srcB .none_) ∧
  GivesWord (.imulh x) x s two (per (fun a b _ => a * b / 2 ^ w) x.srcA x.srcB .none_) ∧
  GivesWord (.imad x) x s [x.srcA, x.srcB, x.srcC] (per (fun a b d => a * b + d) x.srcA x.srcB x.srcC) ∧
  GivesWord (.imin x) x s two (per (fun a b _ => if a ≤ b then a else b) x.srcA x.srcB .none_) ∧
  GivesWord (.imax x) x s two (per (fun a b _ => if a ≤ b then b else a) x.srcA x.srcB .none_) ∧
  GivesWord (.iabs x) x s [x.srcA, .none_, .none_] (per (fun a _ _ => if a < 0 then -a else a) x.srcA .none_ .none_) ∧
  GivesWord (.ineg x) x s [x.srcA, .none_, .none_] (per (fun a _ _ => -a) x.srcA .none_ .none_) ∧
  GivesWord (.iclamp x) x s [x.srcA, x.srcB, x.srcC] (per (fun a b d => min (max a b) d) x.srcA x.srcB x.srcC) ∧
  GivesWord (.sadd x) x s [x.srcA, x.srcB, x.srcC] fun c i => c.src x.srcC i +
    BitVec.ofNat 64 (((List.range (64 / w)).map fun e =>
      (tyVal x.ty.toNat (elem w (c.src x.srcA i) e) - tyVal x.ty.toNat (elem w (c.src x.srcB i) e)).natAbs).sum)

/-- R30, R128, R133, R134: the compact integer and bit instructions act on whole 64-bit values, written here in plain 64-bit arithmetic; the compact
floating-point instructions are their extended forms at nearest-even. -/
def Obligations.CompactArithmeticResults : Prop :=
  (∀ (k : Compact) (s : State),
  let ab : List Src := [.reg k.a, .reg k.b, .none_]
  let on := fun (i : Instr) (ty : BitVec 4) (f : Ctx → Fin 32 → Word) => GivesWord i (k.toExt ty) s ab f
  let A := fun (c : Ctx) (i : Fin 32) => c.reg k.a i
  let B := fun (c : Ctx) (i : Fin 32) => c.reg k.b i
  on (.iaddU64Compact k) 1 (fun c i => A c i + B c i) ∧
  on (.isubU64Compact k) 1 (fun c i => A c i - B c i) ∧
  on (.imulU64Compact k) 1 (fun c i => A c i * B c i) ∧
  GivesWord (.imadU64Compact k) (k.toExt 1 true) s [.reg k.a, .reg k.b, .reg k.d] (fun c i => A c i * B c i + c.reg k.d i) ∧
  on (.iminI64Compact k) 2 (fun c i => if (A c i).sle (B c i) then A c i else B c i) ∧
  on (.imaxI64Compact k) 2 (fun c i => if (A c i).sle (B c i) then B c i else A c i) ∧
  on (.iaddU32x2Compact k) 3 (fun c i =>
    ((A c i).extractLsb' 32 32 + (B c i).extractLsb' 32 32) ++ ((A c i).extractLsb' 0 32 + (B c i).extractLsb' 0 32)) ∧
  on (.andB64Compact k) 0 (fun c i => A c i &&& B c i) ∧
  on (.orB64Compact k) 0 (fun c i => A c i ||| B c i) ∧
  on (.xorB64Compact k) 0 (fun c i => A c i ^^^ B c i) ∧
  on (.shlB64Compact k) 0 (fun c i => A c i <<< (B c i).toNat) ∧
  on (.shrB64Compact k) 0 (fun c i => A c i >>> (B c i).toNat) ∧
  on (.sarI64Compact k) 2 (fun c i => (A c i).sshiftRight (B c i).toNat)) ∧
  ∀ (k : Compact) (s : State),
  let lane := fun (ty : Nat) (f : FFmt → Nat → Bool → Nat → Nat → Nat → Nat × BitVec 5) (c : Ctx) (i : Fin 32) =>
    let z := c.w.threads[i].flushes ty
    let g := tyFmt ty
    fpLane ty (fun u v w => f g 0 z (g.read z u) (g.read z v) (g.read z w)) (c.reg k.a i) (c.reg k.b i) (c.reg k.d i)
  let two := fun (i : Instr) (ty : BitVec 4) (f : FFmt → Nat → Bool → Nat → Nat → Nat × BitVec 5) =>
    Gives i (k.toExt ty) s (chargeOver (k.toExt ty) [.reg k.a, .reg k.b, .none_]) (.vec k.d) none (lane ty.toNat fun g m z a b _ => f g m z a b)
  let fma := fun (i : Instr) (ty : BitVec 4) =>
    Gives i (k.toExt ty true) s (chargeOver (k.toExt ty true) [.reg k.a, .reg k.b, .reg k.d]) (.vec k.d) none (lane ty.toNat fpFma)
  two (.faddF64Compact k) 9 fpAdd ∧ two (.fsubF64Compact k) 9 fpSub ∧ two (.fmulF64Compact k) 9 fpMul ∧ fma (.ffmaF64Compact k) 9 ∧
  two (.fminF64Compact k) 9 (fun g _ _ a b => fpMinNum g false a b) ∧ two (.fmaxF64Compact k) 9 (fun g _ _ a b => fpMinNum g true a b) ∧
  two (.faddF32x2Compact k) 10 fpAdd ∧ two (.fsubF32x2Compact k) 10 fpSub ∧ two (.fmulF32x2Compact k) 10 fpMul ∧ fma (.ffmaF32x2Compact k) 10 ∧
  two (.faddBf16x4Compact k) 11 fpAdd ∧ two (.fmulBf16x4Compact k) 11 fpMul ∧ fma (.ffmaBf16x4Compact k) 11

/-- R130, R131: the carry or borrow in comes from the guard in field C; the 64-bit sum or difference goes to the register and the bit that goes
out to the guard in MOD[26:23]. Quotient and remainder truncate towards zero; a zero divisor gives 0 and the dividend and raises IDZ, the most
negative dividend over −1 itself and 0 and raises IOV. -/
def Obligations.CarryAndDivisionResults : Prop :=
  (∀ (x : Ext) (s : State),
  let cin := fun (c : Ctx) (i : Fin 32) => ((c.guard x.c.toNat).getLsbD i).toNat
  let A := fun (c : Ctx) (i : Fin 32) => (c.src x.srcA i).toNat
  let B := fun (c : Ctx) (i : Fin 32) => (c.src x.srcB i).toNat
  Gives (.iaddc x) x s (chargeOver x [x.srcA, x.srcB, .none_]) (.vec x.d) (some (x.m 23 4)) (fun c i =>
    .value (BitVec.ofNat 64 (A c i + B c i + cin c i)) (decide (2 ^ 64 ≤ A c i + B c i + cin c i)) 0 0) ∧
  Gives (.isubb x) x s (chargeOver x [x.srcA, x.srcB, .none_]) (.vec x.d) (some (x.m 23 4)) (fun c i =>
    .value (BitVec.ofInt 64 (A c i - B c i - cin c i : Int)) (decide ((A c i - B c i - cin c i : Int) < 0)) 0 0)) ∧
  ∀ (x : Ext) (s : State),
  let ty := x.ty.toNat
  let w := tyWidth ty
  let q := fun (a b : Int) => if b = 0 then 0 else if tySigned ty ∧ a = tyMin ty ∧ b = -1 then a else a.tdiv b
  let m := fun (a b : Int) => if b = 0 then a else if tySigned ty ∧ a = tyMin ty ∧ b = -1 then 0 else a - a.tdiv b * b
  let fl := fun (a b : Int) => if b = 0 then flagIDZ else if tySigned ty ∧ a = tyMin ty ∧ b = -1 then flagIOV else (0 : BitVec 2)
  let vals := fun (c : Ctx) (i : Fin 32) => (List.range (64 / w)).map fun e => (tyVal ty (elem w (c.src x.srcA i) e), tyVal ty (elem w (c.src x.srcB i) e))
  let lane := fun (f : Int → Int → Int) (c : Ctx) (i : Fin 32) =>
    LaneOut.value (ofElems w ((vals c i).map fun p => wrap w (f p.1 p.2))) false 0 (((vals c i).map fun p => fl p.1 p.2).foldl (· ||| ·) 0)
  Gives (.idiv x) x s (chargeOver x [x.srcA, x.srcB, .none_]) (.vec x.d) none (lane q) ∧
  Gives (.irem x) x s (chargeOver x [x.srcA, x.srcB, .none_]) (.vec x.d) none (lane m)

/-- R132 to R137, R152: bit and address instructions; and comparisons, which write a guard: the integer ones test each element by the condition, and a
thread's bit holds for all of its elements, or with MOD[26] for any. -/
def Obligations.BitAddressAndCompareResults : Prop :=
  (∀ (x : Ext) (s : State),
  let ab := [x.srcA, x.srcB, .none_]
  let a1 := [x.srcA, .none_, .none_]
  let abc := [x.srcA, x.srcB, x.srcC]
  let w := tyWidth x.ty.toNat
  let A := fun (c : Ctx) (i : Fin 32) => c.src x.srcA i
  let B := fun (c : Ctx) (i : Fin 32) => c.src x.srcB i
  let per := fun (f : Nat → Nat → Nat → Nat) (b d : Src) (c : Ctx) (i : Fin 32) => mapElems x.ty.toNat f (c.src x.srcA i) (c.src b i) (c.src d i)
  GivesWord (.andB x) x s ab (fun c i => A c i &&& B c i) ∧
  GivesWord (.orB x) x s ab (fun c i => A c i ||| B c i) ∧
  GivesWord (.xorB x) x s ab (fun c i => A c i ^^^ B c i) ∧
  GivesWord (.notB x) x s a1 (fun c i => ~~~ A c i) ∧
  GivesWord (.lop3 x) x s abc (fun c i => BitVec.ofFnLE fun n : Fin 64 =>
    (x.m 23 8).testBit (4 * ((A c i).getLsbD n).toNat + 2 * ((B c i).getLsbD n).toNat + ((c.src x.srcC i).getLsbD n).toNat)) ∧
  GivesWord (.shl x) x s ab (per (fun a k _ => if w ≤ k then 0 else a * 2 ^ k) x.srcB .none_) ∧
  GivesWord (.shr x) x s ab (per (fun a k _ => if w ≤ k then 0 else a / 2 ^ k) x.srcB .none_) ∧
  GivesWord (.sar x) x s ab (per (fun a k _ => wrap w (if w ≤ k then (if toSigned w a < 0 then -1 else 0) else toSigned w a / 2 ^ k)) x.srcB .none_) ∧
  GivesWord (.rot x) x s ab (per (fun a k _ => rotElem (x.mb 23) w a k) x.srcB .none_) ∧
  GivesWord (.bfx x) x s ab (per (fun a b _ => bfxElem x.ty.toNat a b) x.srcB .none_) ∧
  GivesWord (.bfi x) x s abc (per (fun a b d => bfiElem w a b d) x.srcB x.srcC) ∧
  GivesWord (.popc x) x s a1 (per (fun a _ _ => ((List.range w).filter fun n => a.testBit n).length) .none_ .none_) ∧
  GivesWord (.clz x) x s a1 (per (fun a _ _ => if a = 0 then w else w - 1 - Nat.log2 a) .none_ .none_) ∧
  GivesWord (.ctz x) x s a1 (per (fun a _ _ => ((List.range w).find? fun n => a.testBit n).getD w) .none_ .none_) ∧
  GivesWord (.brev x) x s a1 (per (fun a _ _ => brevElem w a) .none_ .none_) ∧
  GivesWord (.lea x) x s [x.srcA, .reg x.b, .none_] (fun c i =>
    A c i + (if x.mb 26 then ((c.reg x.b i).setWidth 32).signExtend 64 else c.reg x.b i) <<< x.m 23 3 + x.offset)) ∧
  ∀ (x : Ext) (s : State),
  let w := tyWidth x.ty.toNat
  let rel := fun (a b : Int) => match x.m 23 3 with
    | 0 => decide (a = b) | 1 => decide (a ≠ b) | 2 => decide (a < b) | 3 => decide (a ≤ b) | 4 => decide (a > b) | _ => decide (a ≥ b)
  let holds := fun (c : Ctx) (i : Fin 32) (e : Nat) => rel (tyVal x.ty.toNat (elem w (c.src x.srcA i) e)) (tyVal x.ty.toNat (elem w (c.src x.srcB i) e))
  GivesBit (.icmp x) x s x.d.toNat (fun c i => if x.mb 26 then (List.range (64 / w)).any (holds c i) else (List.range (64 / w)).all (holds c i)) ∧
  Gives (.fcmp x) x s (fun _ _ => 0) (.guard x.d.toNat) none fun c i =>
    fcmpLane x.ty.toNat (x.m 23 4) (x.mb 27) (fsrFtz c.w.threads[i].fsr && (x.ty.toNat == 10 || x.ty.toNat == 11)) (c.src x.srcA i) (c.src x.srcB i)

/-! ### Floating point, special functions and conversions (spec 06, 08) -/

/-- R150 to R159: the floating-point instructions: the operation on each element under the thread's rounding mode and FTZ, with inputs flushed
as R146 says; a thread raises what any of its elements raises. Binary64 division and square root are long-latency and come below. -/
def Obligations.FloatingPointResults : Prop := ∀ (x : Ext) (s : State),
  let ty := x.ty.toNat
  let g := tyFmt ty
  let lane := fun (f : Nat → Bool → Nat → Nat → Nat → Nat × BitVec 5) (a b d : Src) (c : Ctx) (i : Fin 32) =>
    let t := c.w.threads[i]
    fpLane ty (fun u v w => f (t.rounding x.rm) (t.flushes ty) (g.read (t.flushes ty) u) (g.read (t.flushes ty) v) (g.read (t.flushes ty) w))
      (c.src a i) (c.src b i) (c.src d i)
  let two := fun (i : Instr) (f : Nat → Bool → Nat → Nat → Nat × BitVec 5) =>
    Gives i x s (chargeOver x [x.srcA, x.srcB, .none_]) (.vec x.d) none (lane (fun m z a b _ => f m z a b) x.srcA x.srcB .none_)
  let one := fun (i : Instr) (f : Nat → Bool → Nat → Nat × BitVec 5) =>
    Gives i x s (chargeOver x [x.srcA, .none_, .none_]) (.vec x.d) none (lane (fun m z a _ _ => f m z a) x.srcA .none_ .none_)
  let word := fun (i : Instr) (f : Nat → Nat) =>
    GivesWord i x s [x.srcA, .none_, .none_] fun c i => mapElems ty (fun a _ _ => f a) (c.src x.srcA i) 0 0
  two (.fadd x) (fpAdd g) ∧ two (.fsub x) (fpSub g) ∧ two (.fmul x) (fpMul g) ∧
  Gives (.ffma x) x s (chargeOver x [x.srcA, x.srcB, x.srcC]) (.vec x.d) none (lane (fpFma g) x.srcA x.srcB x.srcC) ∧
  (x.ty ≠ 9 → two (.fdiv x) (fpDiv g) ∧ one (.fsqrt x) (fpSqrt g)) ∧
  two (.fmin x) (fun _ _ a b => fpMinNum g false a b) ∧ two (.fmax x) (fun _ _ a b => fpMinNum g true a b) ∧
  two (.fminm x) (fun _ _ a b => fpMinMax g false a b) ∧ two (.fmaxm x) (fun _ _ a b => fpMinMax g true a b) ∧
  word (.fclass x) (fpClass g) ∧ word (.fabs x) g.mag ∧ word (.fneg x) g.neg ∧
  GivesWord (.fcopys x) x s [x.srcA, x.srcB, .none_] (fun c i =>
    mapElems ty (fun a b _ => g.signed (g.sign b) (g.mag a)) (c.src x.srcA i) (c.src x.srcB i) 0) ∧
  one (.frint x) (fun m _ a => fpRint g m (x.mb 23) a) ∧
  one (.fgetexp x) (fun _ _ a => fpGetExp g a) ∧ one (.fgetman x) (fun _ _ a => fpGetMan g a) ∧
  two (.frem x) (fun _ z a b => fpRem g z a b) ∧
  Gives (.fscale x) x s (chargeOver x [x.srcA, fscaleB x, .none_]) (.vec x.d) none (fun c i =>
    let t := c.w.threads[i]
    fpLane ty (fun a n _ => fpScale g (t.rounding x.rm) (t.flushes ty) (g.read (t.flushes ty) a) (toSigned g.width n)) (c.src x.srcA i) (c.src (fscaleB x) i) 0) ∧
  Gives (.fdot2 x) x s (chargeOver x [x.srcA, x.srcB, x.srcC]) (.vec x.d) none fun c i =>
    fdot2Lane ty (c.w.threads[i].rounding x.rm) (fsrFtz c.w.threads[i].fsr) (c.src x.srcA i) (c.src x.srcB i) (c.src x.srcC i)

/-- R181 to R185, R151: the special functions in every type, and binary64 division and square root, are long-latency (R42). -/
def Obligations.LongFloatResults : Prop := ∀ (x : Ext) (s : State),
  let ty := x.ty.toNat
  let g := tyFmt ty
  let lane := fun (f : Nat → Bool → Nat → Nat → Nat × BitVec 5) (b : Src) (c : Ctx) (i : Fin 32) =>
    let t := c.w.threads[i]
    fpLane ty (fun u v _ => f (t.rounding x.rm) (t.flushes ty) (g.read (t.flushes ty) u) (g.read (t.flushes ty) v)) (c.src x.srcA i) (c.src b i) 0
  let one := fun (i : Instr) (f : Nat → Bool → Nat → Nat × BitVec 5) =>
    GivesLater i x s (chargeOver x [x.srcA, .none_, .none_]) (.vec x.d) (lane (fun m z a _ => f m z a) .none_)
  one (.frcp x) (fpRcp g) ∧ one (.frsq x) (fpRsq g) ∧
  one (.fexp2 x) (fun _ z a => if g = f64 then fpExp2 g z a else fpDexp2 g z a) ∧
  one (.flog2 x) (fun _ z a => fpLog2 g z a) ∧ one (.fsin x) (fun _ z a => fpTrig false g z a) ∧ one (.fcos x) (fun _ z a => fpTrig true g z a) ∧
  one (.ftanh x) (fun _ z a => fpTanh g z a) ∧ one (.fsigm x) (fun _ z a => fpSigm g z a) ∧
  (x.ty = 9 → GivesLater (.fdiv x) x s (chargeOver x [x.srcA, x.srcB, .none_]) (.vec x.d) (lane (fpDiv g) x.srcB) ∧ one (.fsqrt x) (fpSqrt g))

/-- R186 to R192: conversions, pack and unpack element by element, and the two random-number instructions. -/
def Obligations.ConversionAndRandomResults : Prop := ∀ (x : Ext) (s : State),
  let ty := x.ty.toNat
  let st := x.m 23 4
  let A := fun (c : Ctx) (i : Fin 32) => c.src x.srcA i
  let B := fun (c : Ctx) (i : Fin 32) => c.src x.srcB i
  let conv := fun (rm : Bool) (c : Ctx) (i : Fin 32) (sat : Bool) (u : Nat) =>
    cvtElem ty st (if rm then c.w.threads[i].rounding x.rm else 0) (fsrFtz c.w.threads[i].fsr) sat u
  let lane := fun (rs : List (Nat × BitVec 5)) => LaneOut.value (ofElems (tyWidth ty) (rs.map (·.1))) false ((rs.map (·.2)).foldl (· ||| ·) 0) 0
  Gives (.cvt x) x s (chargeOver x [x.srcA, .none_, .none_]) (.vec x.d) none (fun c i =>
    lane ((List.range (64 / tyWidth ty)).map fun e =>
      match cvtPick (64 / tyWidth ty) (64 / tyWidth st) (x.m 27 3) e with | some k => conv true c i x.sat (elem (tyWidth st) (A c i) k) | none => (0, 0))) ∧
  Gives (.pack x) x s (chargeOver x [x.srcA, x.srcB, .none_]) (.vec x.d) none (fun c i =>
    lane ((elems (tyWidth st) (A c i) ++ elems (tyWidth st) (B c i)).map (conv true c i x.sat))) ∧
  Gives (.unpack x) x s (chargeOver x [x.srcA, .none_, .none_]) (.vec x.d) none (fun c i =>
    lane ((((elems (tyWidth st) (A c i)).drop (if x.mb 27 then 64 / tyWidth ty else 0)).take (64 / tyWidth ty)).map (conv false c i false))) ∧
  Gives (.rng x) x s (fun _ _ => 32) (.vec x.d) none (fun c i => plain (rngDraw ty (x.m 23 6) (x.mb 29) (A c i) (B c i))) ∧
  GivesWord (.rngk x) x s [x.srcA, x.srcB, .none_] fun c i => BitVec.ofNat 64 (rngBlock (A c i).toNat (B c i).toNat / 2 ^ 64)

/-! ### Register, run and guard instructions (spec 03) -/

/-- R83 to R88: copies, selections, run queries and names. A register copied under a full active mask is mapped, not copied. `vcoal` under
a full mask leaves the source's values in the canonical form of R62: no two adjacent runs have one value; a source that is canonical is mapped. -/
def Obligations.RegisterInstructionResults : Prop := ∀ (x : Ext) (s : State),
  let src := if x.lsel = 1 then x.srcB else x.srcA
  let A := fun (c : Ctx) (i : Fin 32) => c.src x.srcA i
  let B := fun (c : Ctx) (i : Fin 32) => c.src x.srcB i
  let w := tyWidth x.ty.toNat
  GivesWord (.vmov x) x s [src] (fun c i => c.src src i) ∧
  (∀ k : Compact, GivesWord (.vmovCompact k) (k.toExt 0) s [.reg k.a] fun c i => c.reg k.a i) ∧
  (∀ c, x.lsel ≠ 1 → standing x s = some c → c.act = fullMask → Fits c s x.d (c.elemBound x [x.srcA] x.d) →
    ∃ t w, exec (.vmov x) s = .next t ∧ t.warp? c.wk = some w ∧ w.regs[x.d.toFin] = c.w.regs[x.a.toFin]) ∧
  Gives (.vset x) x s (fun _ _ => 32) (.vec x.d) none (fun c i => plain
    (mapElems x.ty.toNat (fun a b _ => a + b * (match x.m 23 2 with | 0 => i.val | 1 => 32 * c.w.widx + i.val | 2 => i.val / 8 | _ => i.val % 8))
      (A c i) (B c i) 0)) ∧
  GivesWord (.vsel x) x s [x.srcA, x.srcB, .none_] (fun c i =>
    if x.mb 23 then ofElems w ((List.range (64 / w)).map fun e => if (x.m 24 8).testBit e then elem w (A c i) e else elem w (B c i) e)
    else if (c.guard x.c.toNat).getLsbD i then A c i else B c i) ∧
  GivesWord (.vcoal x) x s [x.srcA] (fun c i => c.reg x.a i) ∧
  (∀ c, standing x s = some c → c.act = fullMask → Fits c s x.d (c.elemBound x [x.srcA] x.d) →
    ∃ t w, exec (.vcoal x) s = .next t ∧ t.warp? c.wk = some w ∧
      let rs := w.regs[x.d.toFin].runs
      runsOk rs = true ∧ (∀ i : Fin 32, runsGet rs i = c.reg x.a i) ∧
      (∀ (before after : List Run) (r q : Run), rs = before ++ r :: q :: after → r.value ≠ q.value) ∧
      (runsCanonical c.w.regs[x.a.toFin].runs = c.w.regs[x.a.toFin].runs → w.regs[x.d.toFin] = c.w.regs[x.a.toFin])) ∧
  GivesWord (.vruns x) x s [x.srcA, .none_, .none_] (fun c i =>
    let rs := c.w.regs[x.a.toFin].runs
    BitVec.ofNat 64 (match x.m 23 2 with
      | 0 => rs.length | 1 => (runsCanonical rs).length | 2 => runsIdx rs i | _ => runsIdx (runsCanonical rs) i)) ∧
  GivesWord (.vname x) x s [x.srcA, .none_, .none_] fun c _ => nameWord (s.liveRegs c.core) c.w.regs[x.a.toFin]

/-- R89, R90: `vquota.get` gives the quota, the cells held, the cells borrowed and what may still be borrowed. `vquota.set` moves cells between the
warp's quota and the lendable reserve, creates and loses none, never raises the quota above its admitted value, and then answers as the
other form: below the quota the target is taken at once, above it the greatest multiple of 32 that leaves the declared reserve and what the
warps of the group then borrow. `vfree` writes zero to every register of L64 in the active threads, and to no other; its writes are
charged together. With a full active mask each of them becomes null and its cells return. -/
def Obligations.QuotaAndFreeResults : Prop :=
  (∀ (x : Ext) (s : State) (c : Ctx), standing x s = some c →
  GivesWord (.vquotaGet x) x s [] (fun c _ => BitVec.ofNat 64 (c.w.quota % 2 ^ 16 + c.w.held % 2 ^ 16 * 2 ^ 16 + c.w.borrowed % 2 ^ 16 * 2 ^ 32
    + min (s.lendableTo c.w c.wk - c.w.borrowed) (2 ^ 16 - 1) * 2 ^ 48)) ∧
  (c.act = 0 → Fits c s x.d (c.elemBound x [x.srcB] x.d) → ∃ t, exec (.vquotaSet x) s = .next t ∧ Completed c s t (.vec x.d) none fun _ => plain 0) ∧
  ∀ i0, Mask.lowest c.act = some i0 → Fits c s x.d (c.elemBound x [x.srcB] x.d) →
    let n := (c.src x.srcB i0).toNat
    let s2 := setQuota (s.setWarp c.wk c.w) c.wk n
    ∃ t w2, exec (.vquotaSet x) s = .next t ∧ s2.warp? c.wk = some w2 ∧
      Completed { c with w := w2 } s2 t (.vec x.d) none (fun _ => plain (quotaWord s2 c.wk)) ∧
      (c.w.quota ≤ c.w.admitted → w2.quota ≤ c.w.admitted) ∧
      (∀ g, s.group? c.w.gid = some g → ∃ g', t.group? c.w.gid = some g' ∧ g'.lend + w2.quota = g.lend + c.w.quota) ∧
      ∀ g l, s.groupOf c.w = some g → s.launchOf c.w = some l →
        let lo := if 0 < c.w.borrowed then c.w.admitted else min (max 64 ((c.w.held + 31) / 32 * 32)) c.w.admitted
        let target := max lo (min (n / 32 * 32) c.w.admitted)
        let may := fun (d : Nat) => d ≤ g.lend ∧ l.kern.reserve ≤ g.lend - d ∧
          s.othersBorrow c.w.gid c.wk + (c.w.charged - (c.w.quota + d)) ≤ g.lend - d
        (target < c.w.quota → w2.quota = target) ∧
        (c.w.quota ≤ target → ∃ d, w2.quota = c.w.quota + d ∧ d % 32 = 0 ∧ d ≤ target - c.w.quota ∧ (d ≠ 0 → may d) ∧
          ∀ e, e % 32 = 0 → d < e → e ≤ target - c.w.quota → ¬ may e)) ∧
  ∀ (x : Ext) (s : State) (c : Ctx), standing x s = some c →
  let ds := regsOf x.l64
  let after := c.w.charged - (ds.map c.w.cellsOf).sum + (ds.map fun d => c.elemBound x [] d).sum
  let has := c.w.quota + s.lendableTo c.w c.wk
  ((c.act = fullMask ∨ c.act = 0 ∨ after ≤ has) →
    ∃ t w, exec (.vfree x) s = .next t ∧ Elsewhere c.wk s t ∧ t.warp? c.wk = some w ∧
      (∀ (r : BitVec 6) (i : Fin 32), w.regs[r.toFin].get i = if x.l64.getLsbD r.toNat && c.act.getLsbD i then 0 else c.w.regs[r.toFin].get i) ∧
      (c.act = fullMask → (∀ r : BitVec 6, x.l64.getLsbD r.toNat = true → w.regs[r.toFin] = VecReg.null) ∧
        w.held + (ds.map fun d => c.w.regs[d.toFin].cells).sum = c.w.held) ∧
      w = { c.w with regs := w.regs, threads := c.gone }) ∧
  (c.act ≠ fullMask → c.act ≠ 0 → has < after → ParksForCells c s (.vfree x) (after - has))

/-- R91 to R94: guard logic, transfers between guards and registers, and counts of active threads. -/
def Obligations.GuardInstructionResults : Prop := ∀ (x : Ext) (s : State),
  let ga := fun (c : Ctx) (i : Fin 32) => (c.guard x.a.toNat).getLsbD i
  let gb := fun (c : Ctx) (i : Fin 32) => (c.guard x.b.toNat).getLsbD i
  let n3 : List Src := [.none_, .none_, .none_]
  GivesBit (.glop x) x s x.d.toNat (fun c i => (x.m 23 4).testBit (2 * (ga c i).toNat + (gb c i).toNat)) ∧
  GivesWord (.gtov x) x s n3 (fun c i => if x.mb 23 then (c.guard x.a.toNat).setWidth 64 else if ga c i then 1 else 0) ∧
  GivesBit (.vtog x) x s x.d.toNat (fun c i => match x.m 23 2 with
    | 0 => c.reg x.a i != 0 | 1 => c.reg x.a i == 0 | 2 => (c.reg x.a i).getLsbD 63 | _ => (c.reg x.a i).getLsbD (x.m 25 6)) ∧
  GivesWord (.gcnt x) x s n3 fun c i => BitVec.ofNat 64
    (lanes.filter fun u => c.act.getLsbD u && (c.guard x.a.toNat).getLsbD u && (!x.mb 23 || decide (u < i))).length

/-- R66, R67, R126, R147, R399: where the charge bound of an elementwise instruction does not fit, every active thread is parked with run overflow
(0x0C) and the cells that are missing, no destination changes, and the other threads of the set go on, but for those that Z has still to give
zeros (log entry 35). An active thread whose flags meet an enabled trap keeps its destination and is parked with 0x07 or 0x06 and the raised
flags in its record, its sticky flags raised; the others take their results. Stated for the integer, bit, address, register, floating-point
and conversion instructions, and the traps for divisions and floating-point arithmetic. -/
def Obligations.OverflowsAndTrapsParkThreads : Prop := ∀ (x : Ext) (s : State),
  let a1 := [x.srcA, .none_, .none_]
  let ab := [x.srcA, x.srcB, .none_]
  let abc := [x.srcA, x.srcB, x.srcC]
  (∀ i ∈ [Instr.iadd x, .isub x, .imul x, .imulh x, .imin x, .imax x, .iaddc x, .isubb x, .idiv x, .irem x, .andB x, .orB x, .xorB x, .shl x, .shr x, .sar x,
      .rot x, .bfx x, .vsel x, .fadd x, .fsub x, .fmul x, .fdiv x, .fmin x, .fmax x, .fminm x, .fmaxm x, .fcopys x, .frem x, .pack x, .rngk x],
    Overflows i x s ab) ∧
  (∀ i ∈ [Instr.imad x, .iclamp x, .sadd x, .lop3 x, .bfi x, .ffma x, .fdot2 x], Overflows i x s abc) ∧
  (∀ i ∈ [Instr.iabs x, .ineg x, .notB x, .popc x, .clz x, .ctz x, .brev x, .vruns x, .vname x, .vcoal x, .fclass x, .fabs x, .fneg x, .frint x, .fgetexp x,
      .fgetman x, .fsqrt x, .frcp x, .frsq x, .fexp2 x, .flog2 x, .fsin x, .fcos x, .ftanh x, .fsigm x, .cvt x, .unpack x], Overflows i x s a1) ∧
  Overflows (.lea x) x s [x.srcA, .reg x.b, .none_] ∧ Overflows (.fscale x) x s [x.srcA, fscaleB x, .none_] ∧
  Overflows (.vmov x) x s [if x.lsel = 1 then x.srcB else x.srcA] ∧
  let ty := x.ty.toNat
  let g := tyFmt ty
  let lane := fun (f : Nat → Bool → Nat → Nat → Nat → Nat × BitVec 5) (b d : Src) (c : Ctx) (i : Fin 32) =>
    let t := c.w.threads[i]
    fpLane ty (fun u v w => f (t.rounding x.rm) (t.flushes ty) (g.read (t.flushes ty) u) (g.read (t.flushes ty) v) (g.read (t.flushes ty) w))
      (c.src x.srcA i) (c.src b i) (c.src d i)
  let two := fun (i : Instr) (f : Nat → Bool → Nat → Nat → Nat × BitVec 5) => TrapsPark i x s ab (lane (fun m z a b _ => f m z a b) x.srcB .none_)
  TrapsPark (.idiv x) x s ab (fun c i => divLane ty false (c.src x.srcA i) (c.src x.srcB i)) ∧
  TrapsPark (.irem x) x s ab (fun c i => divLane ty true (c.src x.srcA i) (c.src x.srcB i)) ∧
  two (.fadd x) (fpAdd g) ∧ two (.fsub x) (fpSub g) ∧ two (.fmul x) (fpMul g) ∧ two (.frem x) (fun _ z a b => fpRem g z a b) ∧
  two (.fmin x) (fun _ _ a b => fpMinNum g false a b) ∧ two (.fmax x) (fun _ _ a b => fpMinNum g true a b) ∧
  TrapsPark (.ffma x) x s abc (lane (fpFma g) x.srcB x.srcC) ∧
  (x.ty ≠ 9 → two (.fdiv x) (fpDiv g) ∧ TrapsPark (.fsqrt x) x s a1 (lane (fun m z a _ _ => fpSqrt g m z a) .none_ .none_))

/-! ### Cross-lane instructions (spec 09) -/

/-- R198 to R210, in the forms that issue at once: what every active lane is to receive. All are long-latency. Lane numbers are those of the
warp; a source lane need not be active. `xpat` needs its pattern loaded. -/
def Obligations.CrossLaneResults : Prop := ∀ (x : Ext) (s : State), x.mb 31 = false →
  let lane := fun (c : Ctx) (r : BitVec 6) (n : Nat) => runsGet c.w.regs[r.toFin].runs n
  let B := fun (c : Ctx) (i : Fin 32) => (c.src x.srcB i).toNat
  let w := tyWidth x.ty.toNat
  let vec := fun (i : Instr) (out : Ctx → Fin 32 → LaneOut) => GivesLater i x s (fun _ _ => 32) (.vec x.d) out
  let width := 32 / 2 ^ x.m 25 3
  vec (.shfl x) (fun c i =>
    let base := i.val / width * width
    plain (lane c x.a (match x.m 23 2 with
      | 0 => base + B c i % width
      | 1 => if base + B c i ≤ i.val then i.val - B c i else i.val
      | 2 => if i.val + B c i < base + width then i.val + B c i else i.val
      | _ => base + ((i.val - base) ^^^ (B c i % width))))) ∧
  vec (.bcast x) (fun c _ => plain (lane c x.a (match Mask.lowest c.act with | some n => B c n % 32 | none => 0))) ∧
  vec (.xtab x) (fun c i => plain (ofElems w ((elems w (c.src x.srcB i)).map fun k =>
    if 32 * (64 / w) ≤ k then 0 else elem w (lane c x.a (k / (64 / w))) (k % (64 / w))))) ∧
  vec (.matchLanes x) (fun c i =>
    let same := fun (j k : Fin 32) => j == k || matchKey x.ty.toNat (c.reg x.a j) (c.reg x.a k)
    plain (if x.mb 23 then (if (Mask.lanes c.act).all fun j => (Mask.lanes c.act).all fun k => same j k then c.act.setWidth 64 else 0)
           else (maskOf fun j => c.act.getLsbD j && same i j).setWidth 64)) ∧
  vec (.vscan x) (fun c i => c.scan x i) ∧
  (x.m 23 2 = 3 → vec (.vote x) fun c _ => .value ((c.act &&& c.guard x.a.toNat).setWidth 64) (voteBit 3 c.act (c.guard x.a.toNat)) 0 0) ∧
  (x.m 23 2 ≠ 3 → GivesLater (.vote x) x s (fun _ _ => 0) (.guard x.d.toNat) fun c _ =>
    let g := c.guard x.a.toNat
    .value ((c.act &&& g).setWidth 64) (match x.m 23 2 with
      | 0 => c.act &&& ~~~ g == 0 | 1 => c.act &&& g != 0 | _ => c.act &&& ~~~ g == 0 || c.act &&& g == 0) 0 0) ∧
  GivesLater (.elect x) x s (fun _ _ => 0) (.guard x.d.toNat) (fun c i => .value 0 (Mask.lowest c.act == some i) 0 0) ∧
  vec (.lanes x) fun c i => plain (match x.m 23 2 with
    | 0 => c.act.setWidth 64
    | 1 => BitVec.ofNat 64 (Mask.count c.act)
    | 2 => BitVec.ofNat 64 ((Mask.lanes c.act).filter fun j => decide (j < i)).length
    | _ => match Mask.lowest c.act with | some j => BitVec.ofNat 64 j | none => 0)

/-- R203 to R205: a reduction combines the active lanes' elements by the fixed tree over 32 leaves, in which an absent operand gives the other one
unchanged; every lane receives the roots of its own rounding mode and FTZ. A scan gives each lane, in each element, the prefix over the lanes up to
its own (`.inc`) or below it (`.exc`): the lanes' aligned blocks by the binary expansion of their count, the largest first, each reduced by
the tree, and combined left to right; or the empty value of the op where no lane of the prefix is active. -/
def Obligations.ReductionResults : Prop := ∀ (x : Ext) (s : State), x.mb 31 = false →
  let ty := x.ty.toNat
  let w := tyWidth ty
  let n := 64 / w
  GivesLater (.vred x) x s (fun _ _ => 32) (.vec x.d) (fun c i =>
    if c.act.getLsbD i then
      let p := c.roundPair x i
      let op := redOp x.ty.toNat (x.m 23 3) p.1 p.2
      if x.mb 26 then
        let r := (treeRoot op (5 + Nat.log2 n) (Sys2Proof.Machine.lanes.flatMap fun i => (List.range n).map (c.leafOf x p.2 i))).getD (0, 0)
        .value (BitVec.ofNat 64 r.1) false r.2 0
      else
        let roots := (List.range n).map fun e => (treeRoot op 5 (Sys2Proof.Machine.lanes.map fun i => c.leafOf x p.2 i e)).getD (0, 0)
        .value (BitVec.ofNat 64 (packElems w (roots.map (·.1)))) false (roots.foldl (fun f r => f ||| r.2) 0) 0
    else
      match (c.perPair x (c.reduce x)).find? fun e => e.1 == c.roundPair x i with
      | some (_, v, f) => .value (BitVec.ofNat 64 v) false f 0
      | none => plain 0) ∧
  GivesLater (.vscan x) x s (fun _ _ => 32) (.vec x.d) fun c i =>
    let p := c.roundPair x i
    let op := redOp ty (x.m 23 3) p.1 p.2
    let count := if x.mb 27 then i.val else i.val + 1
    let empty := if 9 ≤ ty then (match x.m 23 3 with | 0 => 0 | 1 => (tyFmt ty).inf false | _ => (tyFmt ty).inf true)
      else match x.m 23 3 with | 1 => wrap w (tyMax ty) | 2 => wrap w (tyMin ty) | 3 => 2 ^ w - 1 | _ => 0
    let block := fun (e j : Nat) => treeRoot op j (((Sys2Proof.Machine.lanes.map fun k => c.leafOf x p.2 k e).drop (count / 2 ^ (j + 1) * 2 ^ (j + 1))).take (2 ^ j))
    let prefixes := (List.range n).map fun e =>
      (([5, 4, 3, 2, 1, 0].foldl (fun acc j => if count / 2 ^ j % 2 = 1 then combine op acc (block e j) else acc) none).getD (empty, 0))
    .value (BitVec.ofNat 64 (packElems w (prefixes.map (·.1)))) false (prefixes.foldl (fun f r => f ||| r.2) 0) 0

/-- R206 to R208: `xpat` gathers elements by the table loaded in its slot; with no table loaded every active thread is parked with bad handle
(0x08). R195: a member form of any instruction of the class issues only when every thread of its member mask has arrived at it: a set that
arrives before the others waits at the instruction, and nothing is written. Where the whole mask arrives in one issue, the instruction issues for it
at once, and its result is outstanding as without the mask. -/
def Obligations.PatternPermuteAndMemberResults : Prop :=
  (∀ (x : Ext) (s : State) (c : Ctx), x.mb 31 = false → standing x s = some c → Fits c s x.d 32 → c.act ≠ 0 →
  (∀ p, (s.setWarp c.wk c.w).patternOf c.w x.c.toNat = some p →
    ∃ t, exec (.xpat x) s = .next t ∧
      ((s.coreOf c.core).reuse = [] → ∃ q, LeftOutstanding c s t q ∧ q.dst = .vec x.d ∧ q.left = c.act ∧
        ∀ i : Fin 32, Sparse.find q.outs i.val = some (plain (ofElems (patWidth p.1)
          ((List.range (64 / patWidth p.1)).map fun e => c.patElem x (patWidth p.1) (patEntry p.1 (8 * i.val + e))))))) ∧
  ((s.setWarp c.wk c.w).patternOf c.w x.c.toNat = none →
    ∃ t w, exec (.xpat x) s = .next t ∧ t.warp? c.wk = some w ∧ w.regs = c.w.regs ∧ ∀ i : Fin 32, c.act.getLsbD i = true →
      c.w.threads[i].st ≠ .parked → w.threads[i].st = .parked ∧ ∃ r, w.threads[i].frec = some r ∧ r.cause = 0x08)) ∧
  ∀ (x : Ext) (s : State) (c : Ctx), x.mb 31 = true → standing x s = some c → c.set ≠ 0 →
  (∀ i : Fin 32, c.set.getLsbD i = true → c.w.threads[i].st = .ready ∧ c.w.threads[i].pc = c.pc) →
  (∀ i : Fin 32, c.w.threads[i].waits = none ∧ c.w.threads[i].st ≠ .exited) →
  ((∃ j : Fin 32, x.l32.getLsbD j = true ∧ c.set.getLsbD j = false ∧ c.w.threads[j].st = .ready) →
    ∀ i ∈ [Instr.shfl x, .bcast x, .xtab x, .matchLanes x, .vred x, .vscan x, .vote x, .elect x, .xpat x],
      ∃ t w, exec i s = .next t ∧ t.warp? c.wk = some w ∧ w.regs = c.w.regs ∧ w.guards = c.w.guards ∧
        ∀ i : Fin 32, c.set.getLsbD i = true → w.threads[i].pc = c.pc ∧
          w.threads[i].waits = some (.member (x.l32 ||| (1#32 <<< i.val)) (c.act.getLsbD i))) ∧
  (x.l32 = c.set → (∀ i : Fin 32, c.w.threads[i].lateRec = none) → c.act ≠ 0 → Fits c s x.d 32 → (s.coreOf c.core).reuse = [] →
    let lane := fun (n : Nat) => runsGet c.w.regs[x.a.toFin].runs n
    let w := tyWidth x.ty.toNat
    let issued := fun (i : Instr) (dst : Dst) (out : Fin 32 → LaneOut) => Untrapped c out →
      ∃ t w q, exec i s = .next t ∧ t.warp? c.wk = some w ∧ w.regs = c.w.regs ∧ w.guards = c.w.guards ∧ w.pend = c.w.pend ++ [q] ∧ q.dst = dst ∧
        q.act = c.act ∧ q.zero = c.zero ∧ q.left = c.act ∧ (∀ k : Fin 32, Sparse.find q.outs k.val = some (out k)) ∧
        ∀ k : Fin 32, c.set.getLsbD k = true → w.threads[k].st = .ready ∧ w.threads[k].pc = c.next
    issued (.shfl x) (.vec x.d) (fun i => plain (lane (shflLane (x.m 23 2) (32 / 2 ^ x.m 25 3) i.val (c.src x.srcB i).toNat))) ∧
    issued (.bcast x) (.vec x.d) (fun _ => plain (lane (match Mask.lowest c.act with | some k => (c.src x.srcB k).toNat % 32 | none => 0))) ∧
    issued (.xtab x) (.vec x.d) (fun i => plain (ofElems w ((elems w (c.src x.srcB i)).map fun k =>
      if 32 * (64 / w) ≤ k then 0 else elem w (lane (k / (64 / w))) (k % (64 / w))))) ∧
    issued (.matchLanes x) (.vec x.d) (fun i => plain ((c.matched x i).setWidth 64)) ∧
    issued (.vscan x) (.vec x.d) (c.scan x) ∧
    issued (.vred x) (.vec x.d) (fun i => match (c.perPair x (c.reduce x)).find? fun e => e.1 == c.roundPair x i with
      | some (_, v, f) => .value (BitVec.ofNat 64 v) false f 0
      | none => plain 0) ∧
    (∀ p, s.patternOf c.w x.c.toNat = some p → issued (.xpat x) (.vec x.d) fun i => plain (c.patValue x p.1 i)) ∧
    (x.m 23 2 = 3 → issued (.vote x) (.vec x.d) fun _ => .value ((c.act &&& c.guard x.a.toNat).setWidth 64) (voteBit 3 c.act (c.guard x.a.toNat)) 0 0) ∧
    (x.m 23 2 ≠ 3 → issued (.vote x) (.guard x.d.toNat) fun _ =>
      .value ((c.act &&& c.guard x.a.toNat).setWidth 64) (voteBit (x.m 23 2) c.act (c.guard x.a.toNat)) 0 0) ∧
    issued (.elect x) (.guard x.d.toNat) (fun i => .value 0 (Mask.lowest c.act == some i) 0 0))

/-! ### Control flow (spec 04) -/

/-- R105, R106, R111, R112, R115, R116, R118, R121: branches, loop counters, loop ends, yields and nops change the active threads as these rules say,
and nothing else. An indirect branch goes to the register's value in each active thread; a thread whose target is not a multiple of 4 is parked
at the branch with misaligned address (0x03). -/
def Obligations.ControlFlowResults : Prop :=
  (∀ (x : Ext) (s : State),
  let dest := fun (c : Ctx) (off : Half) => c.pc + off.signExtend 64
  let count := fun (c : Ctx) (i : Fin 32) => if x.lsel = 1 then x.l32.setWidth 64 else c.reg x.b i
  let outer := fun (c : Ctx) (off : Half) (t : Thread) =>
    if 1 < t.lc0.toNat then { t with lc0 := t.lc0 - 1, lc1 := t.reload, pc := dest c off } else { t with lc0 := 0, pc := c.next }
  Steers (.bra x) x s (fun c _ t => { t with pc := dest c x.l32 }) ∧
  Steers (.loopSetO x) x s (fun c i t => { t with lc0 := count c i, pc := c.next }) ∧
  Steers (.loopSetI x) x s (fun c i t => { t with lc1 := count c i, reload := count c i, pc := c.next }) ∧
  Steers (.loopI x) x s (fun c _ t =>
    if 1 < t.lc1.toNat then { t with lc1 := t.lc1 - 1, pc := dest c x.l32 } else { t with lc1 := 0, pc := c.next }) ∧
  Steers (.loopO x) x s (fun c _ t => outer c x.l32 t) ∧
  Steers (.loopIo x) x s (fun c _ t =>
    if 1 < t.lc1.toNat then { t with lc1 := t.lc1 - 1, pc := dest c x.l32 } else outer c (x.l64.setWidth 32) { t with lc1 := 0 }) ∧
  Steers (.lbrk x) x s (fun c _ t => if x.mb 23 then { t with lc1 := 0, pc := dest c x.l32 } else { t with lc0 := 0, pc := dest c x.l32 }) ∧
  Steers (.lbrkZ x) x s (fun c _ t => { t with pc := if (if x.mb 23 then t.lc1 else t.lc0) = 0 then dest c x.l32 else c.next }) ∧
  Steers (.yield x) x s (fun c _ t => { t with defer := true, pc := c.next }) ∧
  Steers (.nop x) x s (fun c _ t => { t with pc := c.next }) ∧
  ∀ k : Compact, ∀ c, standing (k.toExt 0) s = some c →
    ∃ t, exec (.nopCompact k) s = .next t ∧ Elsewhere c.wk s t ∧ t.warp? c.wk = some { c.w with threads := c.gone }) ∧
  ∀ (x : Ext) (s : State) (c : Ctx), standing x s = some c →
  ∃ t w, exec (.brx x) s = .next t ∧ t.warp? c.wk = some w ∧ w.regs = c.w.regs ∧ w.guards = c.w.guards ∧
    ((∀ i : Fin 32, c.act.getLsbD i = true → (c.reg x.a i).toNat % 4 = 0) →
      Elsewhere c.wk s t ∧ w = { c.w with threads := c.branched fun i t => { t with pc := c.reg x.a i } }) ∧
    ∀ i : Fin 32, c.act.getLsbD i = true → (c.reg x.a i).toNat % 4 ≠ 0 → c.w.threads[i].st ≠ .parked →
      (∃ a, w.threads[i].parkedWith 0x03 a) ∧ w.threads[i].pc = c.w.threads[i].pc

/-- R102, R103, R113, R114: where every active thread has room in its sixteen on-chip entries, a call pushes the address of the next instruction and
goes to its target; a return pops the newest entry and goes there, or with none on chip takes the entry below the spill pointer from the
thread's private area. A refill changes no byte; it is stated where no line fails its check and nothing of the core is on its way to the line. -/
def Obligations.CallAndReturnResults : Prop := ∀ (x : Ext) (s : State) (c : Ctx), standing x s = some c →
  let done := fun (i : Instr) (f : Fin 32 → Thread → Thread) =>
    ∃ t, exec i s = .next t ∧ Elsewhere c.wk s t ∧ t.warp? c.wk = some { c.w with threads := c.branched f }
  ((∀ i : Fin 32, c.act.getLsbD i = true → (c.w.threads[i]).rstack.length < 16) →
    done (.call x) (fun _ t => { t with rstack := c.next :: t.rstack, pc := c.pc + x.l32.signExtend 64 }) ∧
    ((∀ i : Fin 32, c.act.getLsbD i = true → (c.reg x.a i).toNat % 4 = 0) →
      done (.callx x) fun i t => { t with rstack := c.next :: t.rstack, pc := c.reg x.a i })) ∧
  ((∀ i : Fin 32, c.act.getLsbD i = true → (c.w.threads[i]).rstack ≠ []) → done (.ret x) fun _ t => { t with rstack := t.rstack.tail, pc := t.rstack.headD 0 }) ∧
  ∀ pa : Fin 32 → Nat, s.mem.failed = [] →
    (∀ i : Fin 32, c.act.getLsbD i = true → (c.w.threads[i]).rstack = [] → (c.w.threads[i]).spill ≠ 0 ∧
      s.privPlace c.w i ((c.w.threads[i]).spill.toNat - 8) 8 = .ok (.hbm, pa i) ∧ s.lineBusy c.core (lineKey .hbm (pa i)) = false) →
    ∃ t, exec (.ret x) s = .next t ∧ BytesKept s t ∧ t.warp? c.wk = some { c.w with threads := c.branched fun i t => match t.rstack with
      | r :: rs => { t with rstack := rs, pc := r }
      | [] => { t with spill := t.spill - 8, pc := BitVec.ofNat 64 (s.rawNat .hbm (pa i) 8) } }

/-- R102, R104, R112, R113, R213: with sixteen entries on chip, a call first writes the oldest to the thread's private area at its spill pointer, for every
active thread that is so full, and no other byte of HBM changes (stated where no line fails its check and nothing of the core is on its way to
those lines). A `callx` to an address that is not a multiple of 4 parks its thread with misaligned address (0x03) and leaves the stack; a call with a
full stack and no spill room, and a return with nothing to return to, park the thread with return-stack fault (0x14), and leave its stack and
program counter: each while the other active threads complete. -/
def Obligations.ReturnStackLimits : Prop := ∀ (x : Ext) (s : State) (c : Ctx), standing x s = some c →
  let deep := maskOf fun i => c.act.getLsbD i && decide ((c.w.threads[i]).rstack.length = 16)
  let pushed := fun (w : Warp) (i : Fin 32) (dest : Word) =>
    w.threads[i].rstack = c.next :: (c.w.threads[i]).rstack.take 15 ∧ w.threads[i].pc = dest ∧
      w.threads[i].spill = if deep.getLsbD i then (c.w.threads[i]).spill + 8 else (c.w.threads[i]).spill
  let kept := fun (w : Warp) (i : Fin 32) => w.threads[i].rstack = c.w.threads[i].rstack ∧ w.threads[i].spill = c.w.threads[i].spill ∧ w.threads[i].pc = c.w.threads[i].pc
  let aligned := ∀ i : Fin 32, c.act.getLsbD i = true → (c.reg x.a i).toNat % 4 = 0
  let calls := fun (p : Instr → (Fin 32 → Word) → Prop) => p (.call x) (fun _ => c.pc + x.l32.signExtend 64) ∧ (aligned → p (.callx x) fun i => c.reg x.a i)
  (∀ pa : Fin 32 → Nat, s.mem.failed = [] →
    (∀ i : Fin 32, c.act.getLsbD i = true → (c.w.threads[i]).rstack.length ≤ 16 ∧ ((c.w.threads[i]).rstack.length = 16 → (c.w.threads[i]).spill.toNat < 4096 ∧
      s.privPlace c.w i (c.w.threads[i]).spill.toNat 8 = .ok (.hbm, pa i) ∧ s.lineBusy c.core (lineKey .hbm (pa i)) = false)) →
    calls fun i dest => ∃ t w, exec i s = .next t ∧ t.warp? c.wk = some w ∧ (∀ i : Fin 32, c.act.getLsbD i = true → pushed w i (dest i)) ∧
      StoredBy deep 8 pa (fun i => bytesOfNat 8 ((c.w.threads[i]).rstack.getLastD 0).toNat) s.mem.hbm t.mem.hbm) ∧
  ((∀ i : Fin 32, c.act.getLsbD i = true → (c.w.threads[i]).rstack.length < 16) → ∃ t w, exec (.callx x) s = .next t ∧ BytesKept s t ∧ t.warp? c.wk = some w ∧
    ∀ i : Fin 32, c.act.getLsbD i = true → c.w.threads[i].st ≠ .parked →
      if (c.reg x.a i).toNat % 4 = 0 then pushed w i (c.reg x.a i) else w.threads[i].parkedWith 0x03 0 ∧ kept w i) ∧
  ((∀ i : Fin 32, c.act.getLsbD i = true → c.w.threads[i].st ≠ .parked ∧
      ((c.w.threads[i]).rstack.length < 16 ∨ ((c.w.threads[i]).rstack.length = 16 ∧ 4096 ≤ (c.w.threads[i]).spill.toNat))) →
    calls fun i dest => ∃ t w, exec i s = .next t ∧ BytesKept s t ∧ t.warp? c.wk = some w ∧ ∀ i : Fin 32, c.act.getLsbD i = true →
      if deep.getLsbD i then w.threads[i].parkedWith 0x14 (c.w.threads[i]).spill ∧ kept w i else pushed w i (dest i)) ∧
  ((∀ i : Fin 32, c.act.getLsbD i = true → c.w.threads[i].st ≠ .parked ∧ ((c.w.threads[i]).rstack = [] → (c.w.threads[i]).spill = 0)) →
    ∃ t w, exec (.ret x) s = .next t ∧ BytesKept s t ∧ t.warp? c.wk = some w ∧ ∀ i : Fin 32, c.act.getLsbD i = true →
      match (c.w.threads[i]).rstack with
      | [] => w.threads[i].parkedWith 0x14 0 ∧ kept w i
      | r :: rs => w.threads[i].rstack = rs ∧ w.threads[i].pc = r)

/-- R117, R119, R120: where every thread that the mask names is active in this issue, `rejoin` lets them go on at once; where one of them is elsewhere
and still runs, the active threads wait at the instruction. The active threads of an `exit` have exited, with the successor target of
`exit.to`, and the others of the set go on (stated where another thread of the warp stays, so that the warp does not end). An active
thread sleeps for its number of nanoseconds, at most 2^32 − 1, and a sleep of 0 goes on at once; SLEEP_WAKE makes the threads of a warp whose
time has come ready at the next instruction. -/
def Obligations.RejoinExitAndSleepResults : Prop :=
  (∀ (x : Ext) (s : State) (c : Ctx), standing x s = some c → c.act ≠ 0 →
  (∀ i : Fin 32, c.w.threads[i].waits = none ∧ c.w.threads[i].lateRec = none ∧ c.w.threads[i].st ≠ .exited) →
  (∀ i : Fin 32, c.set.getLsbD i = true → c.w.threads[i].st = .ready ∧ c.w.threads[i].pc = c.pc) →
  let m := if x.mb 23 then x.l32 else c.guard x.a.toNat
  ∃ t w, exec (.rejoin x) s = .next t ∧ t.warp? c.wk = some w ∧ w.regs = c.w.regs ∧
    (m &&& ~~~ c.act = 0 → ∀ i : Fin 32, c.act.getLsbD i = true → w.threads[i].st = .ready ∧ w.threads[i].pc = c.next) ∧
    ((∃ j : Fin 32, m.getLsbD j = true ∧ c.act.getLsbD j = false ∧ c.w.threads[j].st = .ready) →
      ∀ i : Fin 32, c.act.getLsbD i = true → w.threads[i].pc = c.pc ∧ w.threads[i].waits = some (.rejoin (m ||| (1#32 <<< i.val))))) ∧
  (∀ (x : Ext) (s : State) (c : Ctx), standing x s = some c → c.act ≠ 0 → c.w.doomed = false →
  (∀ i : Fin 32, c.w.threads[i].waits = none) → (∃ j : Fin 32, c.act.getLsbD j = false ∧ c.w.threads[j].st = .ready) →
  let left := fun (i : Instr) (target : Option (Word × Word)) => ∃ t w, exec i s = .next t ∧ t.warp? c.wk = some w ∧ w.regs = c.w.regs ∧
    ∀ i : Fin 32, if c.act.getLsbD i then w.threads[i].st = .exited ∧ w.threads[i].frec = none ∧ w.threads[i].privl = false ∧ w.threads[i].exitTo = target
                  else w.threads[i].pc = if c.set.getLsbD i then c.next else c.w.threads[i].pc
  left (.exit x) none ∧ left (.exitTo x) (some (c.pc + x.l32.signExtend 64, x.l64))) ∧
  ∀ (s : State),
  (∀ (x : Ext) (c : Ctx), standing x s = some c →
    let ns := fun (i : Fin 32) => min (c.src x.srcB i).toNat (2 ^ 32 - 1)
    let f := fun (i : Fin 32) (t : Thread) =>
      if ns i = 0 then { t with pc := c.next } else { t with st := .waiting (.sleep (s.ns + ns i)) c.next, since := s.ns }
    ∃ t, exec (.sleep x) s = .next t ∧ Elsewhere c.wk s t ∧ t.warp? c.wk = some { c.w with threads := c.branched f }) ∧
  ∀ (wk : Nat) (w : Warp), s.warp? wk = some w → (∀ i : Fin 32, w.threads[i].lateRec = none) →
    ∃ t w', exec (.sleepWake wk) s = .next t ∧ t.warp? wk = some w' ∧ w'.regs = w.regs ∧ ∀ i : Fin 32,
      match w.threads[i].st with
      | .waiting (.sleep u) next => if u ≤ s.ns then w'.threads[i] = { w.threads[i] with st := .ready, pc := next, wait := 0 } else w'.threads[i] = w.threads[i]
      | _ => w'.threads[i] = w.threads[i]

/-! ### Memory instructions (spec 10) -/

/-- R212, R213, R217, R226, R228, R229, R262, R265, R266: accesses to the scratchpad, to a vault, to the constant image and to a private area go to
their places: those of the last two are lines of HBM behind the scheduler's translation (R213). Of a load every active thread has an access on its
way, and what it is to receive is outstanding (R42). Of a store, or an atomic without result, every active thread has a write on its way with its
bytes or its operand; registers and guards keep their values and the set goes on (stated where no address faults and no trap is enabled, with
an empty reuse table and L1 for loads). No byte changes at the issue. -/
def Obligations.LocalAccessesAreRequested : Prop :=
  (∀ (s : State),
  let loads := fun (i : Instr) (x : Ext) (d : BitVec 6) (n : Nat) (conv : LoadConv) (order : Nat) => ∀ c (pl : Fin 32 → Place), standing x s = some c →
    c.act ≠ 0 → x.m 23 3 ≠ 0 → Fits c s d 32 → (s.coreOf c.core).reuse = [] → (s.coreOf c.core).l1 = [] → s.roomFor c.core 32 = true →
    (∀ k : Fin 32, c.act.getLsbD k = true → s.place c.w k (x.m 23 3) (c.ea x k) n n .read = .ok (pl k)) →
    ∃ t w p, exec i s = .next t ∧ BytesKept s t ∧ t.warp? c.wk = some w ∧ w.regs = c.w.regs ∧ w.guards = c.w.guards ∧ w.pend = c.w.pend ++ [p] ∧
      p.id = s.fresh ∧ p.dst = .vec d ∧ p.act = c.act ∧ p.zero = c.zero ∧ p.left = c.act ∧ p.outs = [] ∧
      (order = 0 ∨ order = 2 → w.threads = c.gone) ∧
      ∀ k : Fin 32, c.act.getLsbD k = true → OnItsWay c t k fun r a =>
        r.placeOf a = pl k ∧ r.kind = .load conv ∧ r.order = order ∧ r.pend = some s.fresh ∧ a.va = c.ea x k ∧ a.n = n
  ∀ (x : Ext) (k : Compact),
    loads (.ld x) x x.d (8 / 2 ^ x.m 26 2) (if x.mb 28 then .sx else .zx) 0 ∧
    loads (.ldmx x) x x.d (64 / tyWidth x.ty.toNat * (codeBits (x.m 26 4) / 8)) (.mx (x.m 26 4) x.ty.toNat) 0 ∧
    loads (.ldacq x) x x.d (if x.ty = 3 ∨ x.ty = 4 ∨ x.ty = 10 then 4 else 8) .zx (x.m 29 3) ∧
    loads (.ldScratchCompact k) (k.toExt 0 false 2) k.d 8 .zx 0) ∧
  ∀ (s : State),
  let stores := fun (i : Instr) (x : Ext) (n order : Nat) (kind : ReqKind) (ok : Ctx → Fin 32 → Access → Prop) => ∀ c (pl : Fin 32 → Place),
    standing x s = some c → c.act ≠ 0 → x.m 23 3 ≠ 0 → s.roomFor c.core 32 = true →
    (∀ k : Fin 32, c.act.getLsbD k = true → s.place c.w k (x.m 23 3) (c.ea x k) n n .write = .ok (pl k) ∧ fsrEnables c.w.threads[k].fsr = 0) →
    ∃ t w, exec i s = .next t ∧ BytesKept s t ∧ t.warp? c.wk = some w ∧ w.regs = c.w.regs ∧ w.guards = c.w.guards ∧ w.shorn.pend = c.w.shorn.pend ∧
      ((kind = .store ∨ order = 0 ∨ order = 2) →
        ∀ k : Fin 32, w.threads[k].pc = (if c.set.getLsbD k then c.next else c.w.threads[k].pc) ∧ w.threads[k].st = c.w.threads[k].st) ∧
      ∀ k : Fin 32, c.act.getLsbD k = true → OnItsWay c t k fun r a =>
        r.placeOf a = pl k ∧ r.kind = kind ∧ r.order = order ∧ a.va = c.ea x k ∧ a.n = n ∧ ok c k a
  let atom := fun (x : Ext) => if x.ty = 3 ∨ x.ty = 4 ∨ x.ty = 10 then 4 else 8
  let bytes := fun (n : Nat) (o : Src) (c : Ctx) (k : Fin 32) (a : Access) => a.data = bytesOfNat n ((c.src o k).toNat % 2 ^ (8 * n))
  ∀ (x : Ext) (k : Compact),
    stores (.st x) x (8 / 2 ^ x.m 26 2) 0 .store (bytes (8 / 2 ^ x.m 26 2) (if x.lsel = 1 then x.srcB else .reg x.b)) ∧
    (0 < codeBits (x.m 26 4) / 8 → stores (.stmx x) x (64 / tyWidth x.ty.toNat * (codeBits (x.m 26 4) / 8)) 0 .store fun c i a =>
      a.data = (stmxData (x.m 26 4) x.ty.toNat (c.w.threads[i].flushes x.ty.toNat) x.sat (c.reg x.b i)).1) ∧
    stores (.stScratchCompact k) (k.toExt 0 false 2) 8 0 .store (bytes 8 (.reg k.b)) ∧
    stores (.strel x) x (atom x) (x.m 29 3) .store (bytes (atom x) (if x.lsel = 1 then x.srcB else .reg x.b)) ∧
    (x.c.getLsbD 5 = true → stores (.atom x) x (atom x) (x.m 29 3) (.atom (x.c.toNat % 16) (decide (9 ≤ x.ty.toNat)) (x.ty == 2 || x.ty == 4) true)
      fun c i a => a.b = c.src x.srcB i)

/-- R214 to R219, R226, R265: a load from global memory that no L1 copy serves is requested: every active thread has an access on its way to its place,
the result is outstanding, and no byte changes. The threads of an acquire load wait (R255), the others go on (stated with an empty reuse
table and L1, and for a set whose threads reach one target). A copy in the core's L1 whose lease still runs serves a load at once, with the
bytes it was filled with, whatever memory holds by now. -/
def Obligations.GlobalLoadResults : Prop :=
  (∀ (s : State),
  let loads := fun (i : Instr) (x : Ext) (d : BitVec 6) (n : Nat) (conv : LoadConv) (order : Nat) => ∀ c (tg : Target) (pa : Fin 32 → Nat),
    standing x s = some c → c.act ≠ 0 → x.m 23 3 = 0 → Fits c s d 32 → (s.coreOf c.core).reuse = [] → (s.coreOf c.core).l1 = [] →
    s.roomFor c.core 32 = true →
    (∀ k : Fin 32, c.act.getLsbD k = true → s.place c.w k 0 (c.ea x k) n n .read = .ok (.glob tg (pa k))) →
    ∃ t w p, exec i s = .next t ∧ (s.mem.failed = [] → BytesKept s t) ∧ t.warp? c.wk = some w ∧ w.regs = c.w.regs ∧ w.guards = c.w.guards ∧ w.pend = c.w.pend ++ [p] ∧
      p.id = s.fresh ∧ p.dst = .vec d ∧ p.left = c.act ∧ p.outs = [] ∧
      (if order = 0 ∨ order = 2 then w.threads = c.gone
       else ∀ k : Fin 32, c.set.getLsbD k = true → w.threads[k].pc = c.w.threads[k].pc ∧ w.threads[k].waits = some (.acquire s.fresh 0)) ∧
      ∀ k : Fin 32, c.act.getLsbD k = true → OnItsWay c t k fun r a =>
        r.space = 0 ∧ r.tgt = tg ∧ r.kind = .load conv ∧ r.order = order ∧ r.pend = some s.fresh ∧ a.va = c.ea x k ∧ a.pa = pa k ∧ a.n = n
  ∀ (x : Ext) (k : Compact),
    loads (.ld x) x x.d (8 / 2 ^ x.m 26 2) (if x.mb 28 then .sx else .zx) 0 ∧
    loads (.ldmx x) x x.d (64 / tyWidth x.ty.toNat * (codeBits (x.m 26 4) / 8)) (.mx (x.m 26 4) x.ty.toNat) 0 ∧
    loads (.ldGlobalCompact k) (k.toExt 0) k.d 8 .zx 0 ∧
    loads (.ldacq x) x x.d (if x.ty = 3 ∨ x.ty = 4 ∨ x.ty = 10 then 4 else 8) .zx (x.m 29 3)) ∧
  ∀ (x : Ext) (s : State) (c : Ctx) (k : Fin 32) (tg : Target) (pa : Nat) (l : L1Line),
  standing x s = some c → c.act = 1#32 <<< k.val → x.m 23 3 = 0 → x.mb 29 = false → Fits c s x.d 32 → (s.coreOf c.core).reuse = [] →
  s.roomFor c.core 1 = true → s.place c.w k 0 (c.ea x k) (8 / 2 ^ x.m 26 2) (8 / 2 ^ x.m 26 2) .read = .ok (.glob tg pa) → tg.homed = true →
  ((s.coreOf c.core).l1.find? fun e => e.line == lineKey tg pa) = some l → s.ns < l.lease →
  (∀ r ∈ s.mem.reqs, r.core = c.core → r.space = 0 → (r.lines.contains (lineKey tg pa)) = false) → s.visibleStaged c.w.gid = [] →
  ∃ t w p, exec (.ld x) s = .next t ∧ t.mem.reqs = s.mem.reqs ∧ t.warp? c.wk = some w ∧ w.pend = c.w.pend ++ [p] ∧
    Sparse.find p.outs k.val = some (convOut (if x.mb 28 then .sx else .zx) (c.w.threads[k].loadMode x) ((l.data.drop (pa % 128)).take (8 / 2 ^ x.m 26 2)))

/-- R214 to R219, R226, R229, R262, R266, R375: in free class a store to global memory changes no byte at its issue: every active thread has a write on
its way with its bytes, or with the operation and operand of an atomic without result, and the set goes on (a `.sc` one may wait). -/
def Obligations.GlobalStoresAreRequested : Prop := ∀ (s : State),
  let stores := fun (i : Instr) (x : Ext) (n order : Nat) (kind : ReqKind) (ok : Ctx → Fin 32 → Access → Prop) => ∀ c (tg : Target) (pa : Fin 32 → Nat),
    standing x s = some c → c.act ≠ 0 → s.classOf c.w = 0 → s.roomFor c.core 32 = true →
    (∀ k : Fin 32, c.act.getLsbD k = true → s.place c.w k 0 (c.ea x k) n n .write = .ok (.glob tg (pa k)) ∧ fsrEnables c.w.threads[k].fsr = 0) →
    ∃ t w, exec i s = .next t ∧ (s.mem.failed = [] → BytesKept s t) ∧ t.warp? c.wk = some w ∧ w.regs = c.w.regs ∧ w.guards = c.w.guards ∧ w.shorn.pend = c.w.shorn.pend ∧
      ((kind = .store ∨ order = 0 ∨ order = 2) → ∀ k : Fin 32, w.threads[k].pc = if c.set.getLsbD k then c.next else c.w.threads[k].pc) ∧
      ∀ k : Fin 32, c.act.getLsbD k = true → OnItsWay c t k fun r a =>
        r.space = 0 ∧ r.tgt = tg ∧ r.kind = kind ∧ r.order = order ∧ a.va = c.ea x k ∧ a.pa = pa k ∧ a.n = n ∧ ok c k a
  let atom := fun (x : Ext) => if x.ty = 3 ∨ x.ty = 4 ∨ x.ty = 10 then 4 else 8
  let bytes := fun (n : Nat) (o : Src) (c : Ctx) (k : Fin 32) (a : Access) => a.data = bytesOfNat n ((c.src o k).toNat % 2 ^ (8 * n))
  ∀ (x : Ext) (k : Compact), x.m 23 3 = 0 →
    stores (.st x) x (8 / 2 ^ x.m 26 2) 0 .store (bytes (8 / 2 ^ x.m 26 2) (if x.lsel = 1 then x.srcB else .reg x.b)) ∧
    (0 < codeBits (x.m 26 4) / 8 → stores (.stmx x) x (64 / tyWidth x.ty.toNat * (codeBits (x.m 26 4) / 8)) 0 .store fun c i a =>
      a.data = (stmxData (x.m 26 4) x.ty.toNat (c.w.threads[i].flushes x.ty.toNat) x.sat (c.reg x.b i)).1) ∧
    stores (.stGlobalCompact k) (k.toExt 0) 8 0 .store (bytes 8 (.reg k.b)) ∧
    stores (.strel x) x (atom x) (x.m 29 3) .store (bytes (atom x) (if x.lsel = 1 then x.srcB else .reg x.b)) ∧
    stores (.signal x) x (atom x) 2 (.atom 0 false false true) (fun c i a => a.b = c.src x.srcB i) ∧
    (x.c.getLsbD 5 = true → stores (.atom x) x (atom x) (x.m 29 3) (.atom (x.c.toNat % 16) (decide (9 ≤ x.ty.toNat)) (x.ty == 2 || x.ty == 4) true)
      fun c i a => a.b = c.src x.srcB i)

/-- R262, R264: a value-returning atomic or `cas` is requested: every active thread's access is on its way with its operands, the old value is
outstanding, and no byte changes at the issue. -/
def Obligations.AtomicsAreRequested : Prop := ∀ (s : State) (x : Ext) (c : Ctx) (tg : Target) (pa : Fin 32 → Nat),
  let n := if x.ty = 3 ∨ x.ty = 4 ∨ x.ty = 10 then 4 else 8
  standing x s = some c → c.act ≠ 0 → x.m 23 3 = 0 → s.classOf c.w ≠ 2 → Fits c s x.d 32 → s.roomFor c.core 32 = true →
  (∀ k : Fin 32, c.act.getLsbD k = true → s.place c.w k 0 (c.ea x k) n n .write = .ok (.glob tg (pa k))) →
  let asks := fun (i : Instr) (kind : ReqKind) (cmp : Src) =>
    ∃ t w p, exec i s = .next t ∧ (s.mem.failed = [] → BytesKept s t) ∧ t.warp? c.wk = some w ∧ w.regs = c.w.regs ∧ w.shorn.pend = c.w.shorn.pend ++ [p] ∧
      p.id = s.fresh ∧ p.dst = .vec x.d ∧ p.left = c.act ∧ p.outs = [] ∧
      ∀ k : Fin 32, c.act.getLsbD k = true → OnItsWay c t k fun r a =>
        r.space = 0 ∧ r.tgt = tg ∧ r.kind = kind ∧ r.order = x.m 29 3 ∧ r.pend = some s.fresh ∧ a.va = c.ea x k ∧ a.pa = pa k ∧ a.n = n ∧
        a.b = c.src x.srcB k ∧ a.cmp = c.src cmp k
  (x.c.getLsbD 5 = false → asks (.atom x) (.atom (x.c.toNat % 16) (decide (9 ≤ x.ty.toNat)) (x.ty == 2 || x.ty == 4) false) .none_) ∧
  asks (.cas x) .cas x.srcC

/-- R383: in ordered and strict class a global store is staged with its group and leaves every memory as it is; each staged record is of the storing
warp and thread, and covers a location of the store (stated where its buffer has room, and no link refuses it). -/
def Obligations.OrderedStoresAreStaged : Prop := ∀ (s : State) (x : Ext) (c : Ctx) (g : Group) (tg : Target) (pa : Fin 32 → Nat),
  let n := 8 / 2 ^ x.m 26 2
  standing x s = some c → c.act ≠ 0 → x.m 23 3 = 0 → s.classOf c.w ≠ 0 → s.group? c.w.gid = some g → s.roomFor c.core 0 = true →
  s.stageRoom c.w.gid c.core false 32 = true →
  (∀ k : Fin 32, c.act.getLsbD k = true → s.place c.w k 0 (c.ea x k) n n .write = .ok (.glob tg (pa k)) ∧ s.peerFault tg (pa k) = none) →
  ∃ t w g', exec (.st x) s = .next t ∧ (s.mem.failed = [] → BytesKept s t) ∧ t.warp? c.wk = some w ∧ w.regs = c.w.regs ∧ t.group? c.w.gid = some g' ∧
    g'.staged = g.staged ++ (Mask.lanes c.act).flatMap (fun (k : Fin 32) => stageRecs
      { warp := c.w.widx, lane := k.val, seq := c.w.threads[k].seqNo, kind := .store, mask := 0, va := c.ea x k, tgt := tg, pa := pa k, data := 0
        core := c.core, order := 0, near := true, epoch := c.w.threads[k].epoch, engine := false, step := s.stepNo c.w, prov := false
        hint := x.m 30 2, act := c.act, pc := c.pc, ticket := none, at_ := s.fresh }
      (bytesOfNat n ((c.src (if x.lsel = 1 then x.srcB else .reg x.b) k).toNat % 2 ^ (8 * n)))) ∧
    ∀ k : Fin 32, c.act.getLsbD k = true → w.threads[k].seqNo = c.w.threads[k].seqNo + 1

/-- R214, R227, R229, R263, R266: in every space a store or an atomic whose address faults stores nothing for that thread and parks it at the instruction,
with the effective address: with misaligned address (0x03) where the address is not a multiple of the access's size, with the cause of its
translation or protection otherwise. A load leaves the fault to be taken when its result is written. -/
def Obligations.MisalignedAccessFaults : Prop := ∀ (s : State) (x : Ext) (k : Compact) (c : Ctx) (i : Fin 32),
  c.act = 1#32 <<< i.val → c.w.threads[i].st ≠ .parked → s.roomFor c.core 0 = true →
  let atom := if x.ty = 3 ∨ x.ty = 4 ∨ x.ty = 10 then 4 else 8
  let parks := fun (instr : Instr) (y : Ext) (space n : Nat) => standing y s = some c → ∀ cause,
    (((c.ea y i).toNat % n ≠ 0 ∧ cause = 0x03) ∨ (s.place c.w i space (c.ea y i) n n .write = .error cause ∧ cause ∈ [0x03, 0x04, 0x05, 0x15])) →
    ∃ t w, exec instr s = .next t ∧ (s.mem.failed = [] → BytesKept s t) ∧ t.mem.reqs = s.mem.reqs ∧ t.groups = s.groups ∧ t.warp? c.wk = some w ∧
      w.threads[i].parkedWith cause (c.ea y i) ∧ w.threads[i].resume = c.pc ∧ ∀ r : BitVec 6, w.regs[r.toFin].get i = c.w.regs[r.toFin].get i
  parks (.st x) x (x.m 23 3) (8 / 2 ^ x.m 26 2) ∧
  parks (.stGlobalCompact k) (k.toExt 0) 0 8 ∧ parks (.stScratchCompact k) (k.toExt 0) 2 8 ∧
  parks (.strel x) x (x.m 23 3) atom ∧ parks (.signal x) x 0 atom ∧
  (fsrEnables c.w.threads[i].fsr = 0 → parks (.stmx x) x (x.m 23 3) (64 / tyWidth x.ty.toNat * (codeBits (x.m 26 4) / 8))) ∧
  (x.c.getLsbD 5 = true → parks (.atom x) x (x.m 23 3) atom) ∧
  ((x.m 23 3 ≠ 0 ∨ s.classOf c.w ≠ 2) → Fits c s x.d 32 → (x.c.getLsbD 5 = false → parks (.atom x) x (x.m 23 3) atom) ∧ parks (.cas x) x (x.m 23 3) atom) ∧
  (standing x s = some c → (c.ea x i).toNat % (8 / 2 ^ x.m 26 2) ≠ 0 → Fits c s x.d 32 → (s.coreOf c.core).reuse = [] →
    ∃ t w p, exec (.ld x) s = .next t ∧ (s.mem.failed = [] → BytesKept s t) ∧ t.warp? c.wk = some w ∧ w.pend = c.w.pend ++ [p] ∧
      Sparse.find p.outs i.val = some (.fault 0x03 (c.ea x i)))

/-- R79, R230, R231: `stc` sends the record of a whole register, word by word, to the lowest active thread's address. `ldc` asks for the words of the
record there that lie in the line of its first, and its result is outstanding. Once the words that its count asks for have come, from a vault or a
scratchpad port or with a line of memory, every active thread is to receive its value of the record; a record that is not well formed faults with bad
handle (0x08) when the result would be written, and zeroes nothing. No byte changes at the issue (stated with an empty L1, and for `stc` in
free class). -/
def Obligations.RegisterRecordTransfers : Prop :=
  (∀ (x : Ext) (s : State) (c : Ctx) (i0 : Fin 32), standing x s = some c → Mask.lowest c.act = some i0 → s.roomFor c.core 37 = true →
  let img := regRecord x.b.toNat c.w.regs[x.b.toFin].runs
  let va := fun (k : Nat) => c.ea x i0 + BitVec.ofNat 64 (8 * k)
  (∀ pl : Nat → Place, s.classOf c.w = 0 ∨ x.m 23 3 ≠ 0 → (∀ k, k < img.length / 8 → s.place c.w i0 (x.m 23 3) (va k) 8 8 .write = .ok (pl k)) →
   ∃ t w, exec (.stc x) s = .next t ∧ (s.mem.failed = [] → BytesKept s t) ∧ t.warp? c.wk = some w ∧ w.regs = c.w.regs ∧ w.guards = c.w.guards ∧
     w.shorn.pend = c.w.shorn.pend ∧ (∀ k : Fin 32, w.threads[k].pc = if c.set.getLsbD k then c.next else c.w.threads[k].pc) ∧
     ∀ k, k < img.length / 8 → OnItsWay c t i0 fun r a => r.placeOf a = pl k ∧ r.kind = .store ∧ a.va = c.ea x i0 ∧ a.data = (img.drop (8 * k)).take 8) ∧
  (∀ pl : Nat → Place, Fits c s x.d 32 → (s.coreOf c.core).l1 = [] → (∀ k, k ∈ firstWords (c.ea x i0) → s.place c.w i0 (x.m 23 3) (va k) 8 8 .read = .ok (pl k)) →
   ∃ t w p, exec (.ldc x) s = .next t ∧ (s.mem.failed = [] → BytesKept s t) ∧ t.warp? c.wk = some w ∧ w.regs = c.w.regs ∧ w.guards = c.w.guards ∧
     w.threads = c.gone ∧ w.pend = c.w.pend ++ [p] ∧ p.id = s.fresh ∧ p.dst = .vec x.d ∧ p.act = c.act ∧ p.zero = c.zero ∧ p.left = c.act ∧ p.outs = [] ∧
     p.ldc = some { lane := i0, space := x.m 23 3, va := c.ea x i0, words := [], served := [], fault := none } ∧
     ∀ k, k ∈ firstWords (c.ea x i0) → OnItsWay c t i0 fun r a =>
       r.placeOf a = pl k ∧ r.kind = .load .reg ∧ r.pend = some s.fresh ∧ a.mode = k ∧ a.va = va k ∧ a.n = 8)) ∧
  ∀ (s : State) (id pid wk : Nat) (r : Request) (w : Warp) (p : Pending) (q : RecordRead), s.req? id = some r → r.kind = .load .reg → r.pend = some pid →
    s.warpOfReq r = some wk → s.warp? wk = some w → (w.pend.find? fun e => e.id == pid) = some p → p.ldc = some q → q.fault = none →
    (∀ e, e ∈ s.mem.reqs → e.id ≠ id → e.pend ≠ some pid) → p.outs = [] →
    let comes := fun (i : Instr) (words : Access → List Byte) =>
      let q1 : RecordRead := { q with words := r.accs.foldl (fun m (a : Access) => Sparse.insert m a.mode (words a)) q.words }
      (Sparse.find q1.words 0).isSome = true → q1.missing = [] →
      ∃ t w' p', exec i s = .next t ∧ BytesKept s t ∧ t.req? id = none ∧ t.warp? wk = some w' ∧ w'.regs = w.regs ∧ (w'.pend.find? fun e => e.id == pid) = some p' ∧
        p'.act = p.act ∧ p'.left = p.act ∧
        match readRecord (q1.words.flatMap fun e => e.2) with
        | some rs => p'.zero = p.zero ∧ p'.form = some rs ∧ ∀ k : Fin 32, p.act.getLsbD k = true → Sparse.find p'.outs k.val = some (plain (runsGet rs k))
        | none => p'.zero = 0 ∧ ∀ k : Fin 32, p.act.getLsbD k = true → Sparse.find p'.outs k.val = some (.fault 0x08 q.va)
    (r.space ≠ 0 → s.canPerform r = true → comes (.vaultAccess id) (s.localBytes r)) ∧
    ∀ (pt ends no : Nat) (data : List Byte) (rels : List Nat), r.stage = .performed pt ends data rels no → data ≠ [] → r.accs ≠ [] → r.gid ≠ outsideGid →
      comes (.l1Fill id) fun a => s.overlay r.gid r.tgt a.pa ((data.drop (a.pa % 128)).take a.n)

/-- R232, R233: a prefetch asks for the lines of the active threads and touches no register; `cctl.inv` leaves no copy of their lines in the core's
L1, `.demote` makes those copies the first to go, `.clean` changes nothing and `.invall` empties the L1. No byte of memory changes. R255, R256,
R267: a fence of scope `.th` orders nothing. Any other holds its set: it goes on at once where nothing of its threads is on its way and device time
has passed their horizons, and a release fence waits while a write of an active thread has not been performed. Stated for orders other than `.sc`.
R268, R269: arrivals that complete a barrier's phase: the phase count rises, the next phase begins with no arrivals, and the arriving threads go on.
`barr` gives each active thread the phase it arrived in and lets it go on; `barw` lets a thread go on whose value is below the phase count. Stated
for a barrier of the group, an explicit count, and threads whose earlier accesses allow a release. -/
def Obligations.BarrierFenceAndCacheResults : Prop :=
  (∀ (x : Ext) (s : State) (c : Ctx), standing x s = some c →
    let on := fun (i : Instr) (p : State → Prop) =>
      ∃ t w, exec i s = .next t ∧ (s.mem.failed = [] → BytesKept s t) ∧ t.warp? c.wk = some w ∧ w.shorn = { c.w with threads := c.gone }.shorn ∧ p t
    (s.roomFor c.core 32 = true → on (.pref x) fun t => ∀ (k : Fin 32) (tg : Target) (pa : Nat), c.act.getLsbD k = true → tg.homed = true →
      s.place c.w k (x.m 23 3) (c.ea x k) 1 1 .read = .ok (.glob tg pa) →
      OnItsWay c t k fun r a => r.space = 0 ∧ r.tgt = tg ∧ r.kind = .prefetch (x.mb 26) ∧ a.pa = pa / 128 * 128 ∧ a.n = 128) ∧
    (c.act ≠ 0 → on (.cctlInvall x) fun t => (t.coreOf c.core).l1 = []) ∧
    ∀ (tg : Fin 32 → Target) (pa : Fin 32 → Nat), (∀ k : Fin 32, c.act.getLsbD k = true → s.resolve (c.ea x k) .read = .ok (tg k, pa k)) →
      on (.cctlInv x) (fun t => ∀ l, l ∈ (t.coreOf c.core).l1 → l ∈ (s.coreOf c.core).l1 ∧ ∀ k : Fin 32, c.act.getLsbD k = true → l.line ≠ lineKey (tg k) (pa k)) ∧
      on (.cctlDemote x) (fun t => ∀ l, l ∈ (t.coreOf c.core).l1 → ∀ k : Fin 32, c.act.getLsbD k = true → l.line = lineKey (tg k) (pa k) → l.prio = .evictFirst) ∧
      on (.cctlClean x) fun t => (t.coreOf c.core).l1 = (s.coreOf c.core).l1) ∧
  (∀ (x : Ext) (s : State) (c : Ctx), standing x s = some c →
    ((c.act = 0 ∨ x.m 26 3 = 0) → ∃ t, exec (.fence x) s = .next t ∧ Elsewhere c.wk s t ∧ t.warp? c.wk = some { c.w with threads := c.gone }) ∧
    (c.act ≠ 0 → x.m 26 3 ≠ 0 → x.m 29 3 < 4 →
     (∀ k : Fin 32, c.set.getLsbD k = true → c.w.threads[k].pc = c.pc ∧ c.w.threads[k].lateRec = none) →
     (∀ k : Fin 32, c.set.getLsbD k = false → c.w.threads[k].waits = none) →
     (s.mem.reqs = [] → s.mem.ticketsOut = [] →
      (∀ k : Fin 32, c.act.getLsbD k = true → s.timePasses (c.w.threads[k].horizon (x.m 26 3)) = true ∧ s.timePasses c.w.threads[k].acqH = true) →
      ∃ t w, exec (.fence x) s = .next t ∧ BytesKept s t ∧ t.warp? c.wk = some w ∧ w.regs = c.w.regs ∧ w.guards = c.w.guards ∧ w.lastSync = s.ns ∧
        ∀ k : Fin 32, c.set.getLsbD k = true → w.threads[k].st = .ready ∧ w.threads[k].pc = c.next) ∧
     (2 ≤ x.m 29 3 → ∀ (r : Request) (k : Fin 32), r ∈ s.mem.reqs → c.act.getLsbD k = true → r.isOf c.w.gid c.w.widx k = true → r.writes = true → r.stage = .posted →
      ∃ t w, exec (.fence x) s = .next t ∧ BytesKept s t ∧ t.warp? c.wk = some w ∧ w.regs = c.w.regs ∧ w.guards = c.w.guards ∧
        ∀ j : Fin 32, c.act.getLsbD j = true → w.threads[j].pc = c.pc ∧ w.threads[j].waits = some (.fence (x.m 29 3) (x.m 26 3) none)))) ∧
  (∀ (x : Ext) (s : State) (c : Ctx) (g : Group), standing x s = some c → c.act ≠ 0 → x.m 26 3 ≠ 3 →
    s.group? c.w.gid = some g → (∀ k : Fin 32, c.act.getLsbD k = true → c.w.threads[k].st = .ready ∧ s.mayRelease c.w (x.m 26 3) k = true) →
    let n := x.b.toNat
    let b := s.barrier c.w.gid false n
    let goes := fun (t : State) (w : Warp) => t.warp? c.wk = some w ∧ BytesKept s t ∧ w.guards = c.w.guards ∧
      ∀ k : Fin 32, c.act.getLsbD k = true → w.threads[k].st = .ready ∧ w.threads[k].pc = c.next
    (x.l32 ≠ 0 → (b.arrived = 0 ∨ b.count = x.l32.toNat ∧ b.openLeft = x.l32.toNat) → b.arrived + Mask.count c.act = x.l32.toNat →
      (∃ t w, exec (.bar x) s = .next t ∧ goes t w ∧ w.regs = c.w.regs ∧ t.barrier c.w.gid false n = { phase := b.phase + 1, arrived := 0, count := 0, openLeft := 0 }) ∧
      (Fits c s x.d 32 → ∃ t w, exec (.barr x) s = .next t ∧ goes t w ∧
        t.barrier c.w.gid false n = { phase := b.phase + 1, arrived := 0, count := 0, openLeft := 0 } ∧
        ∀ k : Fin 32, c.act.getLsbD k = true → w.regs[x.d.toFin].get k = BitVec.ofNat 64 b.phase)) ∧
    ((∀ k : Fin 32, c.act.getLsbD k = true → (c.reg x.a k).toNat < b.phase) →
      ∃ t w, exec (.barw x) s = .next t ∧ goes t w ∧ w.regs = c.w.regs ∧ t.barrier c.w.gid false n = b))

/-- R42, R271, R272: `waitv` leaves its active threads waiting, each with a watch on its location that has been told to read, and its results
outstanding. A watch whose location meets the condition gives the thread the value and lets it go on; otherwise it waits for the next write. An address
that faults is met when the result would be written (R227), and the thread's result is owed no more. -/
def Obligations.ValueWaits : Prop := ∀ (s : State),
  (∀ (x : Ext) (c : Ctx) (pl : Fin 32 → Place), standing x s = some c → c.act ≠ 0 → Fits c s x.d 32 → s.roomFor c.core 32 = true →
    (∀ k : Fin 32, c.act.getLsbD k = true → s.place c.w k (x.m 23 3) (c.ea x k) (atomBytes x.ty.toNat) (atomBytes x.ty.toNat) .read = .ok (pl k)) →
    ∃ t w p, exec (.waitv x) s = .next t ∧ (s.mem.failed = [] → BytesKept s t) ∧ t.warp? c.wk = some w ∧ w.guards = c.w.guards ∧
      w.pend = c.w.pend ++ [p] ∧ p.dst = .vec x.d ∧ p.act = c.act ∧ p.left = c.act ∧ p.outs = [] ∧ p.watch = true ∧
      ∀ k : Fin 32, c.act.getLsbD k = true → w.threads[k].pc = c.w.threads[k].pc ∧ ∃ v, v ∈ t.mem.watches ∧ w.threads[k].waits = some (.value v.id) ∧
        v.gid = c.w.gid ∧ v.widx = c.w.widx ∧ v.lane = k.val ∧ v.slot = none ∧ v.d = x.d ∧ v.cond = x.c.toNat ∧ v.b = c.src x.srcB k ∧ v.placeOf = pl k ∧
        v.notified = true ∧ v.flt = none) ∧
  ∀ (wk : Nat) (q : Warp) (k : Fin 32) (v : Watch) (p : Pending) (wait : Wait) (next : Word), s.warp? wk = some q →
    (s.mem.watches.find? fun w => w.gid == q.gid && w.widx == q.widx && w.lane == k.val && w.slot.isNone) = some v →
    v.notified = true → s.watchClear v (wkCore wk) = true → q.threads[k].st = .waiting wait next → q.threads[k].lateRec = none →
    p ∈ q.pend → p.watch = true → p.left.getLsbD k = true → p.dst = .vec v.d → p.zero = 0 → p.form = none → (q.pend.map (·.id)).Nodup →
    (∀ e, e ∈ q.pend → e.watch = true → e.left.getLsbD k = true → e = p) →
    (∀ bs : List Byte, v.acq = false → s.watchFault v = none → (v.space = 0 → s.lineBad v.tgt v.pa = none) → s.watchBytes v = some bs →
      (waitCond v.cond v.n (natOfBytes bs) (v.b.toNat % 2 ^ (8 * v.n)) = true →
        ∃ t w, exec (.waitvNotify wk k) s = .next t ∧ BytesKept s t ∧ t.warp? wk = some w ∧ w.threads[k].st = .ready ∧ w.threads[k].pc = next ∧
          (∀ i : Fin 32, w.regs[v.d.toFin].get i = if i = k then BitVec.ofNat 64 (natOfBytes bs) else q.regs[v.d.toFin].get i) ∧
          (∀ e, e ∈ w.pend → e.id = p.id → e.left.getLsbD k = false) ∧ ∀ u, u ∈ t.mem.watches → u.id ≠ v.id) ∧
      (waitCond v.cond v.n (natOfBytes bs) (v.b.toNat % 2 ^ (8 * v.n)) = false →
        ∃ t, exec (.waitvNotify wk k) s = .next t ∧ BytesKept s t ∧ t.warps = s.warps ∧
          t.mem.watches = s.mem.watches.map fun u => if u.id == v.id then { u with notified := false } else u)) ∧
    ∀ cause : Nat, v.flt = some cause →
      ∃ t w, exec (.waitvNotify wk k) s = .next t ∧ BytesKept s t ∧ t.warp? wk = some w ∧ (∀ (r : BitVec 6) (i : Fin 32), w.regs[r.toFin].get i = q.regs[r.toFin].get i) ∧
        w.threads[k].parkedWith cause v.va ∧ (∀ e, e ∈ w.pend → e.id = p.id → e.left.getLsbD k = false) ∧ ∀ u, u ∈ t.mem.watches → u.id ≠ v.id

/-! ### The steps of the memory paths -/

/-- R215, R217, R227, R239, R252, R262: a write on its way is performed, at a home slice, a vault port or a scratchpad bank: its bytes change and no other, an
atomic's new value comes from the bytes there, and its perform and completion times are noted; when they return, the thread's horizons take them in. A
record that lies in several lines is stored whole or, where a link refuses one of them, not at all. A write to host or peer memory is done with
once it is acknowledged. -/
def Obligations.WritesArePerformed : Prop := ∀ (s : State) (id : Nat) (r : Request) (a : Access), s.req? id = some r → r.accs = [a] →
  (s.canPerform r = true → r.writes = true → r.space = 0 → s.refusal r = none → s.lineBad r.tgt a.pa = none → s.poolHeld r = false → (s.recordUnit r).length ≤ 1 →
    let old := s.rawBytes r.tgt a.pa a.n
    ∃ t q, exec (.homeSliceWrite id) s = .next t ∧ WarpsKept s t ∧ t.req? id = some q ∧
      (∃ rels, q.stage = .performed s.ns (s.completion r.tgt a.pa) [] rels 0) ∧
      (∀ u, u ≠ r.tgt → t.mem.of u = s.mem.of u) ∧
      t.mem.of r.tgt = (match (r.newBytes a old).1 with | some bs => (s.mem.of r.tgt).setBytes a.pa bs | none => s.mem.of r.tgt)) ∧
  (r.space = 0 → s.poolHeld r = false → 1 < (s.recordUnit r).length → s.unitClear (s.recordUnit r) = true → s.mem.failed = [] →
    (∃ q, q ∈ s.recordUnit r ∧ (s.refusal q).isSome = true) →
    ∃ t, exec (.homeSliceWrite id) s = .next t ∧ BytesKept s t ∧ ∀ q, q ∈ s.recordUnit r → t.req? q.id = none) ∧
  (∀ g : Group, s.canPerform r = true → r.writes = true → r.space = 2 → (s.recordUnit r).length ≤ 1 → s.group? r.gid = some g →
    let old := g.scratch.bytes a.pa a.n
    ∃ t q g', exec (.vaultAccess id) s = .next t ∧ WarpsKept s t ∧ t.req? id = some q ∧ (∃ rels, q.stage = .performed s.ns s.ns [] rels 0) ∧
      (∀ u, t.mem.of u = s.mem.of u) ∧ (∀ n, n ≠ r.gid → t.group? n = s.group? n) ∧ t.group? r.gid = some g' ∧
      g'.scratch = match (r.newBytes a old).1 with | some bs => g.scratch.setBytes a.pa bs | none => g.scratch) ∧
  (s.canPerform r = true → r.writes = true → r.space = 1 → (s.recordUnit r).length ≤ 1 →
    let old := (s.coreOf r.unit).vault.bytes a.pa a.n
    ∃ t q, exec (.vaultAccess id) s = .next t ∧ WarpsKept s t ∧ t.req? id = some q ∧ (∃ rels, q.stage = .performed s.ns s.ns [] rels 0) ∧
      (∀ n, n ≠ r.unit → (t.coreOf n).vault = (s.coreOf n).vault) ∧
      (t.coreOf r.unit).vault = (match (r.newBytes a old).1 with | some bs => (s.coreOf r.unit).vault.setBytes a.pa bs | none => (s.coreOf r.unit).vault)) ∧
  (∀ (p e no : Nat) (data : List Byte) (rels : List Nat) (wk : Nat) (w : Warp), r.kind = .store → a.data ≠ [] → r.stage = .performed p e data rels no → r.sluice = false →
    s.warpOfReq r = some wk → s.warp? wk = some w →
    ∃ t w', exec (.storeCompletionReturn id) s = .next t ∧ BytesKept s t ∧ t.warp? wk = some w' ∧ w'.regs = w.regs ∧
      (∀ i : Fin 32, w'.threads[i] = if i.val = a.lane then w.threads[i].wrote p e else w.threads[i]) ∧
      (if r.space = 0 ∧ r.tgt.homed = false then ∃ q, t.req? id = some q ∧ q.stage = .unacked else t.req? id = none)) ∧
  (r.stage = .unacked → exec (.peerWriteAck id) s = .next { s with mem := { s.mem with reqs := s.mem.reqs.filter fun q => q.id != id } })

/-- R42, R215, R216, R217, R253, R426: a read on its way is performed at its home slice, which notes the line's bytes and grants a lease; the fill puts the line into
the L1 for as long as the lease runs, unless it holds what a later read brought (R246), and gives the threads their bytes; the L1 drops a line
whose lease has ended. A read of a vault or of a scratchpad gives its bytes at its port. What has arrived is written to the destination. A read of the host or a
peer is answered once device time has passed the release times that it found. No read changes a byte. -/
def Obligations.ReadsArePerformed : Prop := ∀ (s : State),
  (∀ (id : Nat) (r : Request) (a : Access) (as : List Access) (conv : LoadConv), s.req? id = some r → r.accs = a :: as → r.kind = .load conv → conv ≠ .reg →
    (s.canPerform r = true → r.space = 0 → s.refusal r = none → s.lineBad r.tgt a.pa = none →
      ∃ t q rels no, exec (.homeSliceRead id) s = .next t ∧ BytesKept s t ∧ t.warps = s.warps ∧ t.req? id = some q ∧
        q.stage = .performed s.ns (s.ns + r.lease) (s.rawBytes r.tgt (a.pa / 128 * 128) 128) rels no ∧
        (r.tgt.homed = true → r.fresh = false → ∃ l, Sparse.find t.mem.leases (lineKey r.tgt a.pa) = some l ∧ s.ns + r.lease + 4 ≤ l)) ∧
    (∀ (p ends no : Nat) (data : List Byte) (rels : List Nat) (wk pid : Nat) (w : Warp), r.stage = .performed p ends data rels no → data ≠ [] → r.gid ≠ outsideGid → r.pend = some pid →
      s.warpOfReq r = some wk → s.warp? wk = some w → (r.accs.map (·.lane)).Nodup →
      ∃ t w', exec (.l1Fill id) s = .next t ∧ BytesKept s t ∧ t.req? id = none ∧ t.warp? wk = some w' ∧ w'.regs = w.regs ∧
        (∀ q b, q ∈ w'.pend → q.id = pid → b ∈ r.accs → Sparse.find q.outs b.lane =
          some (convOut conv b.mode (s.overlay r.gid r.tgt b.pa ((data.drop (b.pa % 128)).take b.n)))) ∧
        (r.tgt.homed = true → r.fresh = false → r.noAlloc = false → s.ns < ends → (∀ l, l ∈ (s.coreOf r.core).l1 → l.line = lineKey r.tgt a.pa → l.no ≤ no) →
          ∃ l, l ∈ (t.coreOf r.core).l1 ∧ l.line = lineKey r.tgt a.pa ∧ l.data = data ∧ l.lease = ends)) ∧
    (s.canPerform r = true → r.space ≠ 0 → ∀ (wk pid : Nat) (w : Warp), r.pend = some pid → s.warpOfReq r = some wk → s.warp? wk = some w →
      (r.accs.map (·.lane)).Nodup →
      ∃ t w', exec (.vaultAccess id) s = .next t ∧ BytesKept s t ∧ t.req? id = none ∧ t.warp? wk = some w' ∧
        ∀ q b, q ∈ w'.pend → q.id = pid → b ∈ r.accs → Sparse.find q.outs b.lane =
          some (convOut conv b.mode (s.localBytes r b)))) ∧
  (∀ (id : Nat) (r : Request) (p ends no : Nat) (data : List Byte) (rels : List Nat), s.req? id = some r → r.gid = outsideGid →
    r.stage = .performed p ends data rels no →
    exec (.l1Fill id) s = .next (if ∀ u, u ∈ rels → s.timePasses u = true then { s with mem := { s.mem with reqs := s.mem.reqs.filter fun q => q.id != id } } else s)) ∧
  (∀ (core : Nat) (l : L1Line), l ∈ (s.coreOf core).l1 → l.lease ≤ s.ns →
    ∃ t, exec (.l1LeaseExpiry core l.line) s = .next t ∧ BytesKept s t ∧ ∀ m, m ∈ (t.coreOf core).l1 ↔ m ∈ (s.coreOf core).l1 ∧ m.line ≠ l.line) ∧
  ∀ (wk id : Nat) (w : Warp) (p : Pending) (d : BitVec 6) (v : Fin 32 → Word), s.warp? wk = some w → (w.pend.find? fun q => q.id == id) = some p → p.dst = .vec d →
    p.left = p.act → p.act ≠ 0 → p.key = none → p.form = none → (∀ i : Fin 32, Sparse.find p.outs i.val = some (plain (v i))) →
    ∃ t w', exec (.longLatencyResultWrite wk id p.act) s = .next t ∧ Elsewhere wk s t ∧ t.warp? wk = some w' ∧
      (∀ i : Fin 32, w'.regs[d.toFin].get i = if p.act.getLsbD i then v i else if p.zero.getLsbD i then 0 else w.regs[d.toFin].get i) ∧
      (∀ r : BitVec 6, r ≠ d → w'.regs[r.toFin] = w.regs[r.toFin]) ∧ w'.guards = w.guards ∧ w'.threads = w.threads ∧
      w'.pend = w.pend.filter fun q => q.id != id

/-- R255, R256, R257, R383: an acquire is complete, and its threads go on, once its reads have returned and device time has passed the release
times they returned; a fence once nothing it orders is outstanding. A `.sc` request takes the next tickets in lane order. An atomic of the
frontier group may be performed once its group's released writes are done with. -/
def Obligations.OrderingSteps : Prop := ∀ (s : State),
  (∀ (wk : Nat) (w : Warp), s.warp? wk = some w →
    (∀ (k : Fin 32) (id u : Nat) (next : Word), w.threads[k].st = .waiting (.acquire id u) next → w.threads[k].lateRec = none → s.timePasses u = true →
      (∀ r, r ∈ s.mem.reqs → r.pend ≠ some id) →
      ∃ t w', exec (.acquireComplete wk) s = .next t ∧ BytesKept s t ∧ t.warp? wk = some w' ∧ w'.regs = w.regs ∧ w'.lastSync = s.ns ∧
        w'.threads[k].st = .ready ∧ w'.threads[k].pc = next) ∧
    ∀ (pc next : Word) (o sc : Nat), w.fencePcs = [pc] → o < 4 → s.mem.reqs = [] → s.mem.ticketsOut = [] →
      (∀ k : Fin 32, w.threads[k].st = .waiting (.fence o sc none) next ∧ w.threads[k].pc = pc ∧ w.threads[k].lateRec = none ∧
        s.timePasses (w.threads[k].horizon sc) = true ∧ s.timePasses w.threads[k].acqH = true) →
      ∃ t w', exec (.fenceComplete wk) s = .next t ∧ BytesKept s t ∧ t.warp? wk = some w' ∧ w'.regs = w.regs ∧
        ∀ k : Fin 32, w'.threads[k].st = .ready ∧ w'.threads[k].pc = next) ∧
  ∀ (id : Nat) (r : Request), s.req? id = some r →
    (r.order = 4 → r.accs ≠ [] → (∀ a, a ∈ r.accs → a.ticket = none) → (∀ q, q ∈ s.mem.reqs → q.id < r.id → q.order ≠ 4) →
      ∃ t q, exec (.beaconTicket id) s = .next t ∧ BytesKept s t ∧ t.req? id = some q ∧ q.accs.map (·.ticket) = (List.range r.accs.length).map (fun j => some (s.mem.ticket + j)) ∧
        t.mem.ticket = s.mem.ticket + r.accs.length) ∧
    ∀ (g : Group) (l : Launch), s.group? r.gid = some g → s.launch? g.launch = some l → g.index = l.frontier → r.frontier = true → g.staged = [] →
      (∀ q, q ∈ s.mem.reqs → q.sluice = false) →
      ∃ t q, exec (.frontierAtomicPerform id) s = .next t ∧ BytesKept s t ∧ t.req? id = some q ∧ q = { r with frontier := false }

/-! ### Rings, launches, completion slots, stage queues and steps (spec 10, 16, 17) -/

/-- R234 to R237: `rinit` makes an empty ring of the slots and size that its lowest thread gives. `.get` claims the next free or full slot and gives
every active thread its address, or leaves the active threads waiting, last in the ring's line, where there is none. A `.put` of a slot that
is claimed and not done marks it, and hands over the run of done slots at the commit index, however long; where a set of another warp waits
for what it hands over, that set receives the slot and goes on. A put of a slot that nobody claimed, or that is done already, takes bad
handle (0x08) and leaves the ring. `rstat` gives the counts. -/
def Obligations.RingResults : Prop := ∀ (x : Ext) (s : State) (c : Ctx) (g : Group) (i0 : Fin 32),
  standing x s = some c → Mask.lowest c.act = some i0 → s.group? c.w.gid = some g →
  let q := x.c.toNat
  let same := fun (t : State) => BytesKept s t ∧ ∀ n, n ≠ c.w.gid → t.group? n = s.group? n
  let kept := fun (t : State) (w : Warp) => t.warp? c.wk = some w ∧ w.guards = c.w.guards ∧ same t
  let got := fun (w : Warp) (v : Nat) => w.threads = c.gone ∧ (∀ k : Fin 32, w.regs[x.d.toFin].get k = c.regAfter x.d (fun _ => BitVec.ofNat 64 v) k) ∧
    ∀ r : BitVec 6, r ≠ x.d → w.regs[r.toFin] = c.w.regs[r.toFin]
  let get := fun (push : Bool) => if push then Instr.rpushGet x else .rpopGet x
  let put := fun (push : Bool) => if push then Instr.rpushPut x else .rpopPut x
  (let off := (c.reg x.a i0).toNat
   let slots := (c.reg x.b i0).toNat % 2 ^ 16
   let size := (c.reg x.b i0).toNat / 2 ^ 16 % 2 ^ 16 * 32
   1 ≤ slots → slots ≤ 1024 → 32 ≤ size → size ≤ 65536 → off % 32 = 0 →
   (∃ l, s.launch? g.launch = some l ∧ off + slots * size ≤ l.kern.scratch) → s.ringQueue c.w.gid q = [] → s.ringBusy c.w.gid q = false →
   (∀ r, s.ring? c.w.gid q = some r → r.np + r.nr ≤ r.done.length) →
   ∃ t w r, exec (.rinit x) s = .next t ∧ kept t w ∧ w.threads = c.gone ∧ w.regs = c.w.regs ∧ t.ring? c.w.gid q = some r ∧
     r.off = off ∧ r.slots = slots ∧ r.size = size ∧ r.free = slots ∧ r.full = 0 ∧ r.np = 0 ∧ r.nr = 0 ∧
     r.wr = 0 ∧ r.wc = 0 ∧ r.rd = 0 ∧ r.rc = 0 ∧ r.done = []) ∧
  ∀ r, s.ring? c.w.gid q = some r →
    (Fits c s x.d (c.elemBound x [] x.d) →
      (r.free ≠ 0 → ∃ t w, exec (.rpushGet x) s = .next t ∧ kept t w ∧ got w (r.off + r.wr * r.size) ∧
        t.ring? c.w.gid q = some { r with wr := (r.wr + 1) % r.slots, free := r.free - 1, np := r.np + 1 }) ∧
      (r.full ≠ 0 → ∃ t w, exec (.rpopGet x) s = .next t ∧ kept t w ∧ got w (r.off + r.rd * r.size) ∧
        t.ring? c.w.gid q = some { r with rd := (r.rd + 1) % r.slots, full := r.full - 1, nr := r.nr + 1 }) ∧
      (∀ push : Bool, (if push then r.free else r.full) = 0 → ∃ t w, exec (get push) s = .next t ∧ kept t w ∧ t.ring? c.w.gid q = some r ∧
        t.ringQueue c.w.gid q = s.ringQueue c.w.gid q ++ [.warp c.w.widx c.act push x.d] ∧
        (∀ k : Fin 32, c.act.getLsbD k = true → w.regs[x.d.toFin].get k = c.reg x.d k ∧ w.threads[k].pc = c.w.threads[k].pc ∧
          w.threads[k].waits = some (.ring q push x.d))) ∧
      ∃ t w, exec (.rstat x) s = .next t ∧ kept t w ∧ got w (r.free + r.full * 2 ^ 16 + r.slots * 2 ^ 32 + r.size / 32 * 2 ^ 48) ∧ t.ring? c.w.gid q = some r) ∧
    ∀ (push : Bool) (n : Nat), 0 < r.size → n < r.slots → (c.reg x.a i0).toNat = r.off + n * r.size →
      let at_ := if push then r.wc else r.rc
      let claimed := if push then r.np else r.nr
      let run := fun (m : Nat) => (List.range m).map fun i => (at_ + i) % r.slots
      let handed := fun (m : Nat) =>
        let left := (r.done ++ [n]).filter fun k => !(run m).contains k
        if push then { r with done := left, wc := (r.wc + m) % r.slots, np := r.np - m, full := r.full + m }
        else { r with done := left, rc := (r.rc + m) % r.slots, nr := r.nr - m, free := r.free + m }
      (claimed ≤ r.slots → at_ < r.slots → (n + r.slots - at_) % r.slots < claimed → r.done.contains n = false → (push = true → s.scratchStores c.w = false) →
        (s.ringQueue c.w.gid q = [] → ∃ t w m, exec (put push) s = .next t ∧ kept t w ∧ w.threads = c.gone ∧ w.regs = c.w.regs ∧
          m ≤ claimed ∧ (∀ k, k ∈ run m → k ∈ r.done ++ [n]) ∧ (m = claimed ∨ (at_ + m) % r.slots ∉ r.done ++ [n]) ∧ t.ring? c.w.gid q = some (handed m)) ∧
        ∀ (widx wk : Nat) (w0 : Warp) (m : Mask) (d : BitVec 6), s.ringQueue c.w.gid q = [.warp widx m (!push) d] → s.findWarp c.w.gid widx = some wk → wk ≠ c.wk →
          s.warp? wk = some w0 → (∀ k : Fin 32, m.getLsbD k = true → w0.threads[k].waits = some (.ring q (!push) d) ∧ w0.threads[k].lateRec = none) →
          n = at_ → r.done = [] → (if push then r.full else r.free) = 0 →
          ∃ t w v, exec (put push) s = .next t ∧ t.warp? c.wk = some w ∧ same t ∧ w.threads = c.gone ∧ w.regs = c.w.regs ∧ t.warp? wk = some v ∧
            t.ringQueue c.w.gid q = [] ∧
            t.ring? c.w.gid q = some (if push then { r with wc := (r.wc + 1) % r.slots, np := r.np - 1, rd := (r.rd + 1) % r.slots, nr := r.nr + 1 }
              else { r with rc := (r.rc + 1) % r.slots, nr := r.nr - 1, wr := (r.wr + 1) % r.slots, np := r.np + 1 }) ∧
            (∀ k : Fin 32, v.regs[d.toFin].get k = if m.getLsbD k then BitVec.ofNat 64 (r.off + (if push then r.rd else r.wr) * r.size) else w0.regs[d.toFin].get k) ∧
            ∀ k : Fin 32, m.getLsbD k = true → v.threads[k].st = .ready) ∧
      (claimed ≤ (n + r.slots - at_) % r.slots ∨ r.done.contains n = true → (push = true → s.scratchStores c.w = false) →
        (∀ k : Fin 32, c.w.threads[k].st ≠ .parked) → ∃ t w, exec (put push) s = .next t ∧ kept t w ∧ t.ring? c.w.gid q = some r ∧
          ∀ k : Fin 32, c.act.getLsbD k = true → w.threads[k].parkedWith 0x08 0)

/-- R362, R363, R374, R380: `launch` and `callg` post one launch for each active thread, in lane order, count them on their slot, and give each thread
the identifier of its launch. `cancel` marks the launch that an active thread names, whether it is running or still posted, and changes
no register. -/
def Obligations.LaunchAndCancelResults : Prop :=
  (∀ (x : Ext) (s : State) (c : Ctx), standing x s = some c → c.act ≠ 0 → Fits c s x.d 32 →
  (c.slot x.b.toNat).count + Mask.count c.act ≤ 63 → (∀ k : Fin 32, c.act.getLsbD k = true → s.recordFault c.w (c.ea x k) = none) →
  let first := (Sparse.find s.sched.seqs c.core).getD 0
  let ident := fun (k : Fin 32) => BitVec.ofNat 64 (c.core * 2 ^ 48 + (first + ((Mask.lanes c.act).filter fun j => decide (j < k)).length) % 2 ^ 48)
  let posts := fun (i : Instr) (child : Bool) =>
    ∃ t w, exec i s = .next t ∧ BytesKept s t ∧ t.warp? c.wk = some w ∧ w.threads = c.gone ∧ w.guards = c.w.guards ∧
      w.slots[slotIdx x.b.toNat].st = .armed ∧ w.slots[slotIdx x.b.toNat].count = (c.slot x.b.toNat).count + Mask.count c.act ∧
      Sparse.find t.sched.seqs c.core = some (first + Mask.count c.act) ∧ t.sched.posted.length = s.sched.posted.length + Mask.count c.act ∧
      ∀ k : Fin 32, c.act.getLsbD k = true → w.regs[x.d.toFin].get k = ident k ∧
        ∃ p, p ∈ t.sched.posted ∧ p.ident = ident k ∧ p.recVa = c.ea x k ∧ p.callg = child ∧ p.host = false ∧ p.poster = some (c.w.gid, c.w.widx, x.b.toNat)
  posts (.launch x) false ∧ posts (.callg x) true) ∧
  ∀ (x : Ext) (s : State) (c : Ctx), standing x s = some c →
  ∃ t w, exec (.cancel x) s = .next t ∧ t.warp? c.wk = some w ∧ w.regs = c.w.regs ∧ w.guards = c.w.guards ∧ w.threads = c.gone ∧
    ∀ k : Fin 32, c.act.getLsbD k = true →
      (∀ p, p ∈ t.sched.posted → p.ident = c.reg x.a k → p.cancelled = true) ∧
      ∀ l, s.launch? (c.reg x.a k).toNat = some l → l.status = 0 → ∃ l', t.launch? (c.reg x.a k).toNat = some l' ∧ l'.cancelled = true

/-- R363, R364, R376, R377, R378: `waitc` holds its set while the slot is armed; otherwise the set goes on, the slot becomes idle, and a late fault that it
recorded parks the threads of its quarter; the codes 0x3E and 0x3F of a child's end park nobody. `testc` gives the slot's state, its COUNT field
(which for an error is the recorded cause, 0x3E or 0x3F) and its count as they stood, and observes one that is done: it becomes idle,
its error is cleared, and a late fault is raised. `karm` counts a watch for each active thread, and the watch finishes on the slot once its location
reaches the value. -/
def Obligations.CompletionSlotResults : Prop := ∀ (x : Ext) (s : State) (c : Ctx), standing x s = some c → c.act ≠ 0 →
  (∀ k : Fin 32, c.set.getLsbD k = true → c.w.threads[k].pc = c.pc ∧ c.w.threads[k].lateRec = none ∧ c.w.threads[k].st = .ready) →
  (∀ k : Fin 32, c.set.getLsbD k = false → c.w.threads[k].waits = none) →
  let sl := c.slot x.a.toNat
  let raised := fun (k : Fin 32) => sl.errCode < 0x3E ∧ quarterOf k = sl.errQ
  let same := fun (t : State) (w : Warp) => BytesKept s t ∧ t.warp? c.wk = some w ∧ w.guards = c.w.guards
  (sl.st = .armed → ∃ t w, exec (.waitc x) s = .next t ∧ same t w ∧ w.regs = c.w.regs ∧ w.slots = c.w.slots ∧
    ∀ k : Fin 32, c.set.getLsbD k = true → w.threads[k].pc = c.pc ∧ w.threads[k].waits = some (.waitc x.a.toNat)) ∧
  (sl.st = .idle ∨ sl.st = .complete → s.timePasses sl.acqTo = true → ∃ t w, exec (.waitc x) s = .next t ∧ same t w ∧ w.regs = c.w.regs ∧ w.slots[slotIdx x.a.toNat].st = .idle ∧
    ∀ k : Fin 32, c.set.getLsbD k = true → w.threads[k].pc = c.next ∧ w.threads[k].st = .ready) ∧
  (sl.st = .error → s.timePasses sl.acqTo = true → ∃ t w, exec (.waitc x) s = .next t ∧ same t w ∧ w.regs = c.w.regs ∧ w.slots[slotIdx x.a.toNat].st = .idle ∧
    ∀ k : Fin 32, c.set.getLsbD k = true → w.threads[k].pc = c.next ∧ if raised k then w.threads[k].parkedWith sl.errCode sl.errAddr else w.threads[k].st = .ready) ∧
  (Fits c s x.d 32 → sl.st = .idle ∨ sl.st = .armed ∨ s.timePasses sl.acqTo = true →
    let low := match sl.st with | .armed => (sl.count - s.reposted c.w c.core x.a.toNat) % 64 | .error => sl.errCode % 64 | _ => 0
    ∃ t w, exec (.testc x) s = .next t ∧ same t w ∧ w.slots[slotIdx x.a.toNat].st = (if sl.st = .armed then .armed else .idle) ∧
      w.slots[slotIdx x.a.toNat].errCode = (if sl.st = .complete ∨ sl.st = .error then 0 else sl.errCode) ∧
      (∀ k : Fin 32, w.regs[x.d.toFin].get k = c.regAfter x.d (fun _ => BitVec.ofNat 64 (sl.st.code + low * 4 + sl.count * 2 ^ 8)) k) ∧
      ∀ k : Fin 32, c.set.getLsbD k = true → w.threads[k].pc = c.next ∧
        if sl.st = .error ∧ raised k then w.threads[k].parkedWith sl.errCode sl.errAddr else w.threads[k].st = .ready) ∧
  (∀ (tg : Target) (pa : Fin 32 → Nat), (c.slot x.d.toNat).count + Mask.count c.act ≤ 63 →
    (∀ k : Fin 32, c.act.getLsbD k = true → s.place c.w k 0 (c.ea x k) 8 8 .read = .ok (.glob tg (pa k))) →
    ∃ t w, exec (.karm x) s = .next t ∧ same t w ∧ w.regs = c.w.regs ∧ w.threads = c.gone ∧ w.slots[slotIdx x.d.toNat].st = .armed ∧
      w.slots[slotIdx x.d.toNat].count = (c.slot x.d.toNat).count + Mask.count c.act ∧
      ∀ k : Fin 32, c.act.getLsbD k = true → ∃ v, v ∈ t.mem.watches ∧ v.gid = c.w.gid ∧ v.widx = c.w.widx ∧ v.lane = k.val ∧ v.slot = some x.d.toNat ∧ v.cond = 2 ∧
        v.n = 8 ∧ v.b = c.src x.srcB k ∧ v.tgt = tg ∧ v.pa = pa k ∧ v.notified = true ∧ v.flt = none) ∧
  ∀ (v : Watch) (k wk : Nat) (w0 : Warp) (bs : List Byte), (s.mem.watches.find? fun w => w.id == v.id) = some v → v.slot = some k → v.notified = true →
    s.findWarp v.gid v.widx = some wk → s.warp? wk = some w0 → s.watchClear v (wkCore wk) = true → s.watchFault v = none → s.lineBad v.tgt v.pa = none → s.watchBytes v = some bs →
    waitCond v.cond v.n (natOfBytes bs) (v.b.toNat % 2 ^ (8 * v.n)) = true → w0.slots[slotIdx k].count = 1 → w0.slots[slotIdx k].errCode = 0 →
    (∀ i : Fin 32, w0.threads[i].waits ≠ some (.waitc k)) →
    ∃ t w, exec (.karmWatchCheck v.id) s = .next t ∧ BytesKept s t ∧ t.warp? wk = some w ∧ w.regs = w0.regs ∧ w.threads = w0.threads ∧
      w.slots[slotIdx k].st = .complete ∧ w.slots[slotIdx k].count = 0 ∧ ∀ u, u ∈ t.mem.watches → u.id ≠ v.id

/-- R369, R379, R387, R388: `stage.put` writes the entry at its address behind the last entry of the launch's output queue, and `stage.get` takes the
head of its input queue, writes its bytes and gives 1; both where the queue allows it and no other set waits (stated for entries in the scratchpad,
and where no line of HBM fails its check). `step` counts its active threads as arrived and leaves them waiting for the commit. -/
def Obligations.StageAndStepResults : Prop := ∀ (x : Ext) (s : State) (c : Ctx) (g : Group) (l : Launch) (i0 : Fin 32),
  standing x s = some c → Mask.lowest c.act = some i0 → s.group? c.w.gid = some g → s.launch? g.launch = some l →
  (∀ k : Fin 32, c.set.getLsbD k = true → c.w.threads[k].pc = c.pc ∧ c.w.threads[k].lateRec = none) →
  let waiting := ∀ e, e ∈ s.warps → ∀ (k : Fin 32) (get : Bool) (d : BitVec 6) (a : Word) (gl : Bool), e.2.threads[k].waits ≠ some (.stage get d a gl)
  let va := c.ea x i0
  let others := fun (t : State) => t.mem.lp = s.mem.lp ∧ t.mem.host = s.mem.host ∧ t.mem.peers = s.mem.peers ∧ ∀ n, (t.coreOf n).vault = (s.coreOf n).vault
  (∀ (q : Nat) (sq : StageQueue), waiting → s.stageQ? q = some sq → va.toNat % 16 = 0 → x.m 23 3 = 2 → sq.bytes % 16 = 0 → s.mem.failed = [] →
    (l.outQueue = some q → l.inQueue ≠ some q → sq.count < sq.entries → s.storesDone c.w = true → s.rangeFault c.w 0 2 va .read (sq.bytes / 16) = none →
      s.entryFault c.w false va .read (sq.bytes / 16) = none →
      ∃ t w, exec (.stagePut x) s = .next t ∧ t.warp? c.wk = some w ∧ w.regs = c.w.regs ∧ t.stageQ? q = some { sq with count := sq.count + 1 } ∧
        t.rawBytes .hbm (sq.at_ sq.count) sq.bytes = s.entryBytes c.w false va (sq.bytes / 16) ∧
        (∀ b, b < sq.at_ sq.count ∨ sq.at_ sq.count + sq.bytes ≤ b → t.mem.hbm.byte b = s.mem.hbm.byte b) ∧ others t ∧
        (∀ n, (t.group? n).map (·.scratch) = (s.group? n).map (·.scratch)) ∧
        ∀ k : Fin 32, c.act.getLsbD k = true → w.threads[k].st = .ready ∧ w.threads[k].pc = c.next) ∧
    (l.inQueue = some q → l.outQueue ≠ some q → sq.count ≠ 0 → Fits c s x.d 32 → s.rangeFault c.w 0 2 va .write (sq.bytes / 16) = none →
      s.entryFault c.w false va .write (sq.bytes / 16) = none →
      (∀ j, j < sq.bytes / 16 → s.place c.w 0 2 (va + BitVec.ofNat 64 (16 * j)) 16 1 .write = .ok (.scratch (va.toNat + 16 * j))) →
      ∃ t w g', exec (.stageGet x) s = .next t ∧ t.warp? c.wk = some w ∧ t.stageQ? q = some { sq with head := (sq.head + 1) % sq.entries, count := sq.count - 1 } ∧
        t.group? c.w.gid = some g' ∧ g'.scratch.bytes va.toNat sq.bytes = s.headEntry sq ∧
        (∀ b, b < va.toNat ∨ va.toNat + sq.bytes ≤ b → g'.scratch.byte b = g.scratch.byte b) ∧ t.mem.hbm = s.mem.hbm ∧ others t ∧
        ∀ k : Fin 32, c.act.getLsbD k = true → w.threads[k].st = .ready ∧ w.threads[k].pc = c.next ∧ w.regs[x.d.toFin].get k = 1)) ∧
  (let n := if 12 ≤ x.len.bytes then x.l32.toNat else 0
   let gs := s.presentGroups g.launch
   let count := if n = 0 then (gs.map s.groupThreads).sum else n
   (x.mb 23 = true → Fits c s x.d 32) → (∀ k : Fin 32, c.act.getLsbD k = true → s.mayRelease c.w 5 k = true) → l.stepCount = none → l.hasArrived = false →
   gs.contains c.w.gid = true → Mask.count c.act ≤ count →
   ∃ t w l', exec (.step x) s = .next t ∧ BytesKept s t ∧ t.warp? c.wk = some w ∧ w.guards = c.w.guards ∧ t.launch? g.launch = some l' ∧
     l'.arrived = Mask.count c.act ∧ l'.counted = gs.map s.indexOf ∧ l'.stepCount = some (count, decide (n = 0)) ∧ (l'.hasArrived = true ↔ count = Mask.count c.act) ∧
     ∀ k : Fin 32, c.act.getLsbD k = true → w.threads[k].pc = c.pc ∧ w.threads[k].waits = some (.step false n (if x.mb 23 then some x.d else none)))

/-! ### Matrix and Tender instructions, and the engines' steps (spec 12, 13) -/

/-- R276, R283, R286, R289, R291, R292: a whole quarter posts a request of `mma`, or a load or store of a tile, and counts it on its slot; binds a stream or
frees it; or asks for the state of a stream. A request that fails its checks takes bad handle in all eight threads, and one that finds the reservation
table full, or its quarter behind another that waits for it, does not issue: nothing changes but its place in line. -/
def Obligations.MatrixPostingResults : Prop := ∀ (x : Ext) (s : State) (c : Ctx) (j : Nat), standing x s = some c → Quarter c j →
  let u := c.core / 4
  let done := fun (i : Instr) (p : State → Warp → Prop) =>
    ∃ t w, exec i s = .next t ∧ BytesKept s t ∧ t.warp? c.wk = some w ∧ w.guards = c.w.guards ∧ p t w
  let counted := fun (w : Warp) (k : Nat) => w.slots[slotIdx k].st = .armed ∧ w.slots[slotIdx k].count = (c.slot k).count + 1
  let v := (c.reg x.a c.first).toNat
  let open_ := s.tableUse u < 64 ∧ s.behind { res := 0, unit := u, gid := c.w.gid, widx := c.w.widx, quarter := j, pc := c.pc } = false
  (s.mmaOk c x (v % 2 ^ 32) (v / 2 ^ 32) = true → (c.slot x.d.toNat).count < 63 → open_ →
    done (.mma x) fun t w => w.regs = c.w.regs ∧ c.wentOn w ∧ counted w x.d.toNat ∧ (t.gantry u).table.length = (s.gantry u).table.length + 1 ∧
      ∃ m, m ∈ (t.gantry u).table ∧ m.id = s.fresh ∧ m.core = c.core ∧ m.gid = c.w.gid ∧ m.widx = c.w.widx ∧ m.quarter = j ∧ m.slot = x.d.toNat ∧
        m.sa = x.b.toNat ∧ m.sb = x.c.toNat ∧ m.acc = x.mb 23 ∧ m.na = x.mb 24 ∧ m.nb = x.mb 25 ∧ m.tile = x.l32.toNat % 128 ∧
        m.row0 = x.l32.toNat / 2 ^ 7 % 16 * 8 ∧ m.m = (x.l32.toNat / 2 ^ 11 % 16 + 1) * 8 ∧ m.apos = v % 2 ^ 32 ∧ m.bpos = v / 2 ^ 32) ∧
  (¬ open_ → ∃ qs, exec (.mma x) s = .next { s with qwait := qs }) ∧
  (s.mmaOk c x (v % 2 ^ 32) (v / 2 ^ 32) = false → open_ → done (.mma x) fun t w => w.regs = c.w.regs ∧ w.slots = c.w.slots ∧ t.gantries = s.gantries ∧ c.tookBadHandle w) ∧
  ((c.slot x.d.toNat).count < 63 →
    let posted := fun (i : Instr) (t : State) (w : Warp) => w.regs = c.w.regs ∧ c.wentOn w ∧ counted w x.d.toNat ∧ ∃ o, t.ops = s.ops ++ [o] ∧ o.id = s.fresh ∧
      o.core = c.core ∧ o.gid = c.w.gid ∧ o.widx = c.w.widx ∧ o.quarter = j ∧ o.slot = some x.d.toNat ∧ o.instr = i ∧
      o.vals = [c.reg x.a c.first, c.reg x.b c.first] ∧ o.done = false ∧ o.rows = 0
    (s.accFault c x .read = none → done (.accld x) (posted (.accld x))) ∧ (s.accFault c x .write = none → done (.accst x) (posted (.accst x)))) ∧
  (Fits c s x.d 32 → x.m 23 2 = 1 ∨ x.m 23 2 = 2 → ∀ q, Sparse.find (s.gantry u).streams x.b.toNat = some q → s.ownsStream c.w q = true →
    done (.mstat x) fun t w => c.wentOn w ∧ t.gantries = s.gantries ∧
      ∀ k : Fin 32, c.set.getLsbD k = true → w.regs[x.d.toFin].get k = if x.m 23 2 = 1 then BitVec.ofNat 64 (q.next + q.retire * 2 ^ 32) else q.geo) ∧
  (∀ (g : Group) (l : Launch), s.group? c.w.gid = some g → s.launch? g.launch = some l → geoOk x.d.toNat (c.reg x.a c.first) = true →
    Sparse.find (s.gantry u).streams x.d.toNat = none → s.streamBusy u x.d.toNat = false →
    done (.mbind x) fun t w => w.regs = c.w.regs ∧ c.wentOn w ∧ ∃ q, Sparse.find (t.gantry u).streams x.d.toNat = some q ∧ q.launch = g.launch ∧ q.copy = g.copy ∧
      q.crew = crewNumber l g ∧ q.geo = c.reg x.a c.first ∧ q.next = 0 ∧ q.segs = []) ∧
  ∀ q, Sparse.find (s.gantry u).streams x.d.toNat = some q → s.ownsStream c.w q = true → s.streamBusy u x.d.toNat = false →
    done (.mbindFree x) fun t w => w.regs = c.w.regs ∧ c.wentOn w ∧ Sparse.find (t.gantry u).streams x.d.toNat = none

/-- R279, R280, R287, R288, R290: where nothing is pending on their tiles, `accz` zeroes a tile, `acccp` copies it to another or adds it there, `accrd`
gives each thread two adjacent elements, and `accwr` writes them; the elements of other tiles keep their values. -/
def Obligations.AccumulatorResults : Prop := ∀ (x : Ext) (s : State) (c : Ctx) (j : Nat), standing x s = some c → Quarter c j →
  let done := fun (i : Instr) (p : State → Warp → Prop) =>
    ∃ t w, exec i s = .next t ∧ BytesKept s t ∧ t.warp? c.wk = some w ∧ w.guards = c.w.guards ∧ c.wentOn w ∧ p t w
  let el := fun (t : State) (e : Nat) => t.accGet c.core c.w.gid e
  let dst := x.l32.toNat % 128
  let src := x.l32.toNat / 2 ^ 8 % 128
  (s.tileOk c.w dst = true → s.tilesClear c.core [dst] s.fresh = true → done (.accz x) fun t w => w.regs = c.w.regs ∧
    ∀ e, el t e = if e / 16384 = dst then 0 else el s e) ∧
  (s.tileOk c.w dst = true → s.tileOk c.w src = true → s.tilesClear c.core [dst, src] s.fresh = true → done (.acccp x) fun t w => w.regs = c.w.regs ∧
    ∀ e, el t e = if e / 16384 = dst then
        (if x.mb 23 then BitVec.ofNat 32 (add32 (el s e).toNat (el s (src * 16384 + e % 16384)).toNat) else el s (src * 16384 + e % 16384))
      else el s e) ∧
  ∀ e : Fin 32 → Nat, (∀ k : Fin 32, c.set.getLsbD k = true → ∃ n, s.accElem c x.a k = some (n, e k)) → s.tilesClear c.core (s.accTiles c x.a) s.fresh = true →
    (Fits c s x.d 32 → done (.accrd x) fun t w => (∀ n, el t n = el s n) ∧
      ∀ k : Fin 32, c.set.getLsbD k = true → w.regs[x.d.toFin].get k = el s (e k + 1) ++ el s (e k)) ∧
    done (.accwr x) fun t w => w.regs = c.w.regs ∧
      (∀ n, (∀ k : Fin 32, c.set.getLsbD k = true → n ≠ e k ∧ n ≠ e k + 1) → el t n = el s n) ∧
      ∀ k : Fin 32, c.set.getLsbD k = true → (∀ i : Fin 32, c.set.getLsbD i = true → k < i → e i ≠ e k ∧ e i ≠ e k + 1 ∧ e i + 1 ≠ e k) →
        el t (e k) = (c.reg x.b k).setWidth 32 ∧ el t (e k + 1) = (c.reg x.b k).extractLsb' 32 32

/-- R275, R277, R281: a pass begins with a request whose two segments are live and whose fork has passed: it leaves the table, and the products of its
rows and columns are formed. Once the array has read its last k-group, one use of each segment is counted. As it drains, they are written to the
request's rows of its tile, or added there, and the operation finishes on its slot. Stated for a table or a pass of one request. R287 to R289, R363: a
posted `accld` fills the next row of its tile from memory, and a posted `accst` writes it to memory (stated for the scratchpad), once their
fork has passed and nothing earlier is pending on the tile; a posted `accz` or `acccp` has its whole effect. -/
def Obligations.GantryPassSteps : Prop := ∀ (s : State) (u : Nat) (m : MmaReq),
  let streams := fun (t : State) => (t.gantry u).streams
  (∀ (a b : GStream) (sa sb : Segment), (∀ p, p ∈ (s.gantry u).passes → p.read = true) → (∀ o, o ∈ s.ops → o.attWaits u = false) →
    (s.gantry u).table = [m] → s.mmaReady u m = true → s.forkClear m.id m.gid m.widx m.quarter m.fork = true →
    Sparse.find (streams s) m.sa = some a → Sparse.find (streams s) m.sb = some b → a.seg? m.apos = some sa → b.seg? m.bpos = some sb →
    ∃ t, exec (.gantryPassStart u) s = .next t ∧ BytesKept s t ∧ t.warps = s.warps ∧ (t.gantry u).table = [] ∧ streams t = streams s ∧
      (t.gantry u).passes = (s.gantry u).passes ++ [{ read := false, reqs := [(m, passRows a.geo b.geo m.na m.nb sa sb)] }]) ∧
  (∀ (a b : GStream) (rows : List (List (BitVec 32))) (ps : List Pass), (s.gantry u).passes = ps ++ [{ read := false, reqs := [(m, rows)] }] →
    (∀ p, p ∈ ps → p.read = true) → m.sa ≠ m.sb → Sparse.find (streams s) m.sa = some a → Sparse.find (streams s) m.sb = some b →
    ∃ t, exec (.gantryPassDrain u) s = .next t ∧ BytesKept s t ∧ (t.gantry u).passes = ps ++ [{ read := true, reqs := [(m, rows)] }] ∧
      Sparse.find (streams t) m.sa = some (a.use m.apos) ∧ Sparse.find (streams t) m.sb = some (b.use m.bpos)) ∧
  (∀ (rows : List (List (BitVec 32))) (rest : List Pass) (wk : Nat) (w : Warp), (s.gantry u).passes = { read := true, reqs := [(m, rows)] } :: rest →
    (∀ p, p ∈ rest → p.read = true) →
    (∀ r, r ∈ rows → r.length = 128) → s.findWarp m.gid m.widx = some wk → s.warp? wk = some w → w.slots[slotIdx m.slot].count = 1 → w.slots[slotIdx m.slot].errCode = 0 →
    (∀ k : Fin 32, w.threads[k].waits ≠ some (.waitc m.slot)) →
    ∃ t w', exec (.gantryPassDrain u) s = .next t ∧ BytesKept s t ∧ (t.gantry u).passes = rest ∧ t.warp? wk = some w' ∧ w'.regs = w.regs ∧
      w'.slots[slotIdx m.slot].st = .complete ∧
      ∀ (i j : Nat) (r : List (BitVec 32)) (v : BitVec 32), rows[i]? = some r → r[j]? = some v →
        let e := accIdx m.tile (m.row0 + i) j
        t.accGet m.core m.gid e = if m.acc then BitVec.ofNat 32 (add32 v.toNat (s.accGet m.core m.gid e).toNat) else v) ∧
  ∀ (o : EngOp) (x : Ext), Moves s o → o.forked s = true → s.tilesClear o.core o.tiles o.id = true → o.rows < 128 →
    let w := s.warpOfOp o
    let tile := x.l32.toNat % 128
    let eb := accBytes x
    let va := o.vals.getD 0 0 + BitVec.ofNat 64 (o.rows * (o.vals.getD 1 0).toNat)
    let el := fun (t : State) (e : Nat) => t.accGet o.core o.gid e
    let goes := fun (p : State → Prop) => ∃ t, exec (.engineOpFinish o.id) s = .next t ∧ p t
    (o.instr = .accld x → ∀ bs, s.engGets w (x.m 27 3) va (128 * eb) bs → s.touches o (s.engLines o w (x.m 27 3) va (128 * eb) .read) →
      goes fun t => (o.rows + 1 < 128 → Moved t o (o.rows + 1) o.data o.claim) ∧
        ∀ e, el t e = if e / 128 = tile * 128 + o.rows then accDecode (x.m 23 4) ((bs.drop (eb * (e % 128))).take eb) else el s e) ∧
    (∀ g, o.instr = .accst x → x.m 27 3 = 2 → s.group? o.gid = some g → ScratchRow s w va (128 * eb) → s.engRoom o w 2 [(va, 128 * eb)] = true →
      s.touches o (s.engLines o w 2 va (128 * eb) .write) →
      goes fun t => (o.rows + 1 < 128 → Moved t o (o.rows + 1) o.data o.claim) ∧ ∃ g', t.group? o.gid = some g' ∧
        (∀ j, j < 128 → g'.scratch.bytes (va.toNat + eb * j) eb = accEncode (x.m 23 4) x.sat (el s (accIdx tile o.rows j))) ∧
        ∀ b, b < va.toNat ∨ va.toNat + 128 * eb ≤ b → g'.scratch.byte b = g.scratch.byte b) ∧
    (o.instr = .accz x → goes fun t => ∀ e, el t e = if e / 16384 = tile then 0 else el s e) ∧
    let src := x.l32.toNat / 2 ^ 8 % 128
    (o.instr = .acccp x → goes fun t => ∀ e, el t e = if e / 16384 = tile then
        (if x.mb 23 then BitVec.ofNat 32 (add32 (el s e).toNat (el s (src * 16384 + e % 16384)).toNat) else el s (src * 16384 + e % 16384))
      else el s e)

/-- R295, R301, R305, R306, R363: a whole quarter posts a Tender operation with the transfer block that its registers hold, once the block and its ranges
have passed their checks; the slot counts the operation and its status word is cleared. Where the queue is full, or the quarter is behind
another that waits for it, the instruction does not issue: nothing changes but its place in line. `tstat` reads that status word. A posted operation starts
in queue order, and one whose work and writes have ended finishes on its slot. -/
def Obligations.TenderResults : Prop := ∀ (x : Ext) (s : State),
  (∀ (c : Ctx), standing x s = some c →
    (∀ (j : Nat) (i : Instr), Quarter c j → i ∈ [Instr.tcopy x, .tgather x, .tscatter x, .tfeed x, .tfill x, .tconv x, .tring x] →
      let b := c.block x.a
      let here := fun (p : State → Warp → Prop) => ∃ t w, exec i s = .next t ∧ BytesKept s t ∧ t.warp? c.wk = some w ∧ w.guards = c.w.guards ∧ w.regs = c.w.regs ∧ p t w
      let open_ := (s.ops.filter fun o => o.core == c.core && o.isTender).length < 32 ∧
        s.behind { res := 1, unit := c.core, gid := c.w.gid, widx := c.w.widx, quarter := j, pc := c.pc } = false
      (¬ open_ → ∃ qs, exec i s = .next { s with qwait := qs }) ∧
      (blockOk (tenderUse i) b = true → s.tenderOk c i b = true → s.tenderFault c x i b = none → (c.slot x.d.toNat).count < 63 →
        open_ → here fun t w => c.wentOn w ∧ (∃ o, t.ops = s.ops ++ [o] ∧ o.id = s.fresh ∧ o.core = c.core ∧ o.gid = c.w.gid ∧ o.widx = c.w.widx ∧ o.quarter = j ∧
            o.slot = some x.d.toNat ∧ o.instr = i ∧ o.vals = b ∧ o.started = false ∧ o.done = false) ∧
          (let k := w.slots[slotIdx x.d.toNat]
           k.st = .armed ∧ k.count = (c.slot x.d.toNat).count + 1 ∧ k.conds = 0 ∧ k.rows = 0 ∧ k.posSet = false)) ∧
      (blockOk (tenderUse i) b = false → open_ → here fun t w => t.ops = s.ops ∧ w.slots = c.w.slots ∧ c.tookBadHandle w)) ∧
    (c.act ≠ 0 → Fits c s x.d 32 → ∃ t w, exec (.tstat x) s = .next t ∧ Elsewhere c.wk s t ∧ t.warp? c.wk = some w ∧ w.threads = c.gone ∧ w.guards = c.w.guards ∧
      ∀ k : Fin 32, w.regs[x.d.toFin].get k = c.regAfter x.d (fun _ =>
        let q := c.slot x.a.toNat
        match x.m 23 2 with
        | 0 => q.conds.setWidth 64 | 1 => q.rows.setWidth 64 | _ => q.segPos.setWidth 64 + (if q.posSet then 1 <<< 32 else 0)) k)) ∧
  ∀ (o : EngOp), s.op? o.id = some o → o.isTender = true → o.core < Config.cores →
    (o.started = false → o.forked s = true → (∀ p, p ∈ s.ops → p.core = o.core → p.isTender = true → p.id < o.id → p.started = true) →
      (s.ops.filter fun p => p.core == o.core && p.isTender && p.started).length < 4 →
      exec (.tenderOpStart o.id) s = .next { s with ops := s.ops.map fun p => if p.id == o.id then { p with started := true } else p }) ∧
    ∀ (k wk : Nat) (w : Warp), o.done = true → s.timePasses o.doneAt = true → s.opStaged o = false → o.slot = some k → o.err = none →
      (∀ e ∈ s.warps, ∀ (i : Fin 32) (id : Nat), e.2.threads[i].waits ≠ some (.hatch id)) →
      s.findWarp o.gid o.widx = some wk → s.warp? wk = some w → w.slots[slotIdx k].count = 1 → w.slots[slotIdx k].errCode = 0 →
      (∀ i : Fin 32, w.threads[i].waits ≠ some (.waitc k)) →
      ∃ t w', exec (.engineOpFinish o.id) s = .next t ∧ BytesKept s t ∧ t.op? o.id = none ∧ t.warp? wk = some w' ∧ w'.regs = w.regs ∧ w'.threads = w.threads ∧
        w'.slots[slotIdx k].st = .complete ∧ w'.slots[slotIdx k].count = 0

/-- R275, R302 to R304, R306, R307: a Tender operation in flight moves its next row. `tcopy`, `tconv`, `tgather` and `tscatter` read a source row in any
space, convert it where they convert, and store it (stated for a destination in the scratchpad), and `tfill` stores its pattern; the slot's
status word counts the row. `tgather` and `tscatter` read their index list first, and pass over an index at or above the limit, which
sets bit 8 of the conditions. `tring` claims a slot of its ring, and then stores the row there and puts the slot. `tfeed` claims the next
position of its stream, gathers its rows, and once the feeds before it have completed its segment is live. -/
def Obligations.TenderRowsMove : Prop := ∀ (s : State) (o : EngOp) (x : Ext) (g : Group), Moves s o → o.started = true → s.group? o.gid = some g →
  let w := s.warpOfOp o
  let b := o.vals
  let use := tenderUse o.instr
  let rows := tRows b
  s.tenderRoom o w = true → s.touches o (s.tenderLines o w) →
  let srcAt := fun (r : Nat) => b.getD 0 0 + BitVec.ofNat 64 (r * (b.getD 3 0).toNat)
  let dstAt := fun (r : Nat) => b.getD 1 0 + BitVec.ofNat 64 (r * (b.getD 4 0).toNat)
  let converted := fun (bs : List Byte) => if use.conv then rowConvert (tFs b) (tFd b) (tLen b) (tSat b) bs else (bs, 0)
  let goes := fun (p : State → Prop) => ∃ t, exec (.engineOpFinish o.id) s = .next t ∧ p t
  let stored := fun (t : State) (a : Nat) (bs : List Byte) => ∃ g', t.group? o.gid = some g' ∧ g'.scratch.bytes a bs.length = bs ∧
    ∀ n, n < a ∨ a + bs.length ≤ n → g'.scratch.byte n = g.scratch.byte n
  let counted := fun (t : State) (conds : BitVec 16) => o.rows + 1 < rows → Moved t o (o.rows + 1) o.data none ∧
    ∀ (k wk : Nat) (w0 : Warp), o.slot = some k → s.findWarp o.gid o.widx = some wk → s.warp? wk = some w0 →
      ∃ w', t.warp? wk = some w' ∧ w'.slots[slotIdx k].rows = w0.slots[slotIdx k].rows + 1 ∧ w'.slots[slotIdx k].conds = w0.slots[slotIdx k].conds ||| conds
  let index := fun (l : List Word) => (l.getD o.rows 0).toNat
  let limit := (b.getD 7 0).toNat
  (∀ (src dst : Word) (bs : List Byte), dstSpace x = 2 → o.claim = none →
    ((o.instr = .tcopy x ∨ o.instr = .tconv x) ∧ src = srcAt o.rows ∧ dst = dstAt o.rows) ∨
      (∃ l ls, o.data = l :: ls ∧ index l < limit ∧ (o.instr = .tgather x ∧ src = srcAt (index l) ∧ dst = dstAt o.rows ∨
        o.instr = .tscatter x ∧ src = srcAt o.rows ∧ dst = dstAt (index l))) →
    s.engGets w (srcSpace x) src (tSrcBytes use b) bs → ScratchRow s w dst (converted bs).1.length →
    goes fun t => stored t dst.toNat (converted bs).1 ∧ counted t ((converted bs).2.setWidth 16)) ∧
  (o.claim = none → o.instr = .tfill x → dstSpace x = 2 →
    let bs := (List.range (tLen b / fillBytes x)).flatMap fun _ => bytesOfNat (fillBytes x) ((b.getD 5 0).toNat % 2 ^ (8 * fillBytes x))
    ScratchRow s w (dstAt o.rows) bs.length → goes fun t => stored t (dstAt o.rows).toNat bs ∧ counted t 0) ∧
  (o.claim = none → o.instr = .tgather x ∨ o.instr = .tscatter x →
    (∀ bs, o.data = [] → s.engGets w 0 (b.getD 6 0) (4 * rows) bs → goes fun t => t.group? o.gid = some g ∧
      Moved t o o.rows [(List.range rows).map fun r => BitVec.ofNat 64 (natOfBytes ((bs.drop (4 * r)).take 4))] none) ∧
    ∀ l ls, o.data = l :: ls → limit ≤ index l → goes fun t => t.group? o.gid = some g ∧ counted t 0x100) ∧
  (o.instr = .tring x → ∀ r, s.ring? o.gid x.b.toNat = some r →
    (o.claim = none → (s.ringQueue o.gid x.b.toNat).contains (.tender o.id) = false → r.free ≠ 0 →
      goes fun t => Moved t o o.rows o.data (some (r.off + r.wr * r.size)) ∧
        t.ring? o.gid x.b.toNat = some { r with wr := (r.wr + 1) % r.slots, free := r.free - 1, np := r.np + 1 }) ∧
    ∀ (a : Nat) (bs : List Byte) (r1 : Ring), o.claim = some a → s.engGets w (srcSpace x) (srcAt o.rows) (tSrcBytes use b) bs → r.put true a = some r1 →
      s.ringQueue o.gid x.b.toNat = [] →
      goes fun t => stored t a (converted bs).1 ∧ t.ring? o.gid x.b.toNat = some r1 ∧ counted t ((converted bs).2.setWidth 16)) ∧
  (o.instr = .tfeed x →
    let sn := x.b.toNat
    let stream := fun (t : State) => Sparse.find (t.gantry (o.core / 4)).streams sn
    ∀ q, stream s = some q →
    (o.claim = none → q.room sn = true →
      (∀ p ∈ s.ops, p.started = true → p.done = false → p.claim = none → p.core / 4 = o.core / 4 → p.id < o.id → ∀ y, p.instr = .tfeed y → y.b.toNat ≠ sn) →
      goes fun t => Moved t o o.rows o.data (some q.claims) ∧ stream t = some { q with claims := (q.claims + 1) % 2 ^ 32 }) ∧
    ∀ p, o.claim = some p →
      (∀ bs, o.rows < rows → s.engGets w (srcSpace x) (srcAt o.rows) (tSrcBytes use b) bs →
        let row := (converted bs).1.map fun v => v.setWidth 64
        goes fun t => Moved t o (o.rows + 1) (o.data ++ [row]) (some p) ∧
          stream t = some (if o.rows + 1 < rows then q else
            { q with ready := q.ready ++ [{ pos := p, uses := x.m 26 4 + 1, rows := (o.data ++ [row]).map fun r => r.map fun v => v.setWidth 8 }] })) ∧
      ∀ seg, rows ≤ o.rows → q.next = p → (q.ready.find? fun r => r.pos == p) = some seg → q.void = [] →
        goes fun t => stream t = some { q with segs := q.segs ++ [seg], ready := q.ready.filter (fun r => r.pos != p), next := (p + 1) % 2 ^ 32 })

/-! ### Pages, attention and the Manifest (spec 14, 15) -/

/-- R328, R340, R348, R352, R363: a whole quarter posts an operation on pages, of attention, of selection or of prefix hashes with the block that its
registers hold, once it has passed the instruction's checks, and counts it on its slot. A block that fails its layout takes bad handle (0x08) in
all eight threads. R276, R326: where the reservation table or the Hatch's room for lists is full, or the quarter behind another that waits for
it, the instruction does not issue: nothing changes but its place in line. R325: where a page that the operation is to read is in flash, the
operation is posted, and its quarter waits at the instruction until no such page is left; which instructions read pages, and that the
operation itself goes on meanwhile, is the model's choice (log entry 55). -/
def Obligations.EngineOperationsArePosted : Prop := ∀ (x : Ext) (s : State) (c : Ctx) (j : Nat) (i : Instr), standing x s = some c → Quarter c j →
  let b := c.block x.a
  let here := fun (p : State → Warp → Prop) => ∃ t w, exec i s = .next t ∧ BytesKept s t ∧ t.warp? c.wk = some w ∧ w.guards = c.w.guards ∧ w.regs = c.w.regs ∧
    t.pages = s.pages ∧ p t w
  let posted := here fun t w => w.slots[slotIdx x.d.toNat].st = .armed ∧ w.slots[slotIdx x.d.toNat].count = (c.slot x.d.toNat).count + 1 ∧
    (∃ o ∈ t.ops, t.ops.map (·.id) = s.ops.map (·.id) ++ [s.fresh] ∧ o.id = s.fresh ∧ o.core = c.core ∧ o.gid = c.w.gid ∧ o.widx = c.w.widx ∧ o.quarter = j ∧
      o.slot = some x.d.toNat ∧ o.instr = i ∧ o.vals = b ∧ o.done = false ∧ o.started = false ∧ o.rows = 0) ∧
    if s.flashPage c.w i b then ∀ k : Fin 32, c.set.getLsbD k = true → w.threads[k].waits = some (.hatch s.fresh) else c.wentOn w
  let refused := here fun t w => t.ops = s.ops ∧ w.slots = c.w.slots ∧ c.tookBadHandle w
  let ahead := fun (res unit : Nat) => s.behind { res := res, unit := unit, gid := c.w.gid, widx := c.w.widx, quarter := j, pc := c.pc }
  let keepsPlace := ∃ qs, exec i s = .next { s with qwait := qs }
  let checked := fun (ok : Bool) (more : Prop) => (ok = true → more → (c.slot x.d.toNat).count < 63 → posted) ∧ (ok = false → refused)
  (i ∈ [Instr.pgnew x, .pgapp x, .pgappRef x, .pgfree x, .pgtrunc x, .pgdemote x, .pgsum x] → checked (pageBlockOk s.pages.count i b) True) ∧
  (i = .pglook x →
    (s.lookLists.length < 16 → ahead 2 0 = false → checked (pageBlockOk s.pages.count i b) True) ∧
    (16 ≤ s.lookLists.length ∨ ahead 2 0 = true → keepsPlace)) ∧
  (i ∈ [Instr.atts x, .attv x, .attf x, .psel x] →
    let room := s.tableUse (c.core / 4) < 64 ∧ ahead 0 (c.core / 4) = false
    (i = .psel x ∨ room → checked (attBlockOk i b && (instrTiles i b).all fun n => s.tileOk c.w n) (∀ r, r ∈ attRanges i b → s.spanFault c.w 0 0 r.1 r.2.2 r.2.1 = none)) ∧
    (i ≠ .psel x → ¬ room → keepsPlace)) ∧
  (i = .pfxh x → checked (pfxhBlockOk b)
    (s.spanFault c.w 0 0 (b.getD 0 0) .read (64 * bw b 1) = none ∧ s.spanFault c.w 0 0 (b.getD 3 0) .write (8 * bw b 1) = none))

/-- R313, R328, R334, R335: the instructions of each thread on pages, for a quarter that names eight pages: a pin is added or taken away, HOLD is set or
cleared, MASS is set, and the words of a descriptor are read. A thread whose page is free takes bad handle (0x08). -/
def Obligations.PageInstructionResults : Prop := ∀ (x : Ext) (s : State) (c : Ctx) (j : Nat), standing x s = some c → Quarter c j →
  let lpn := fun (k : Fin 32) => (c.reg x.a k).toNat
  let done := fun (i : Instr) (p : State → Warp → Prop) => ∃ t w, exec i s = .next t ∧ BytesKept s t ∧ t.warp? c.wk = some w ∧ w.guards = c.w.guards ∧ p t w
  let each := fun (i : Instr) (ok : Desc → Prop) (f : Fin 32 → Desc → Desc) =>
    (∀ k : Fin 32, c.set.getLsbD k = true → lpn k < s.pages.count ∧ (s.desc (lpn k)).free = false ∧ ok (s.desc (lpn k))) →
    (∀ k i : Fin 32, c.set.getLsbD k = true → c.set.getLsbD i = true → k ≠ i → lpn k ≠ lpn i) →
    done i fun t w => w.regs = c.w.regs ∧ c.wentOn w ∧ (∀ k : Fin 32, c.set.getLsbD k = true → t.desc (lpn k) = f k (s.desc (lpn k))) ∧
      ∀ n, (∀ k : Fin 32, c.set.getLsbD k = true → n ≠ lpn k) → t.desc n = s.desc n
  each (.pgpin x) (fun d => d.pin < 255) (fun _ d => { d with pin := d.pin + 1 }) ∧
  each (.pgunpin x) (fun d => d.pin ≠ 0 ∧ (d.pin ≠ 1 ∨ d.list ≠ 0)) (fun _ d => { d with pin := d.pin - 1 }) ∧
  each (.pgpinHold x) (fun _ => True) (fun _ d => { d with hold := true }) ∧
  each (.pgunpinHold x) (fun _ => True) (fun _ d => { d with hold := false }) ∧
  each (.pgmassSet x) (fun _ => True) (fun k d => { d with mass := (c.reg x.b k).toNat % 2 ^ 16 }) ∧
  ((∀ k : Fin 32, c.set.getLsbD k = true → lpn k < s.pages.count ∧ (s.desc (lpn k)).free = true) →
    done (.pgpin x) fun t w => w.regs = c.w.regs ∧ t.pages = s.pages ∧ c.tookBadHandle w) ∧
  (Fits c s x.d 32 → (∀ k : Fin 32, c.set.getLsbD k = true → lpn k < s.pages.count) →
    done (.pginfo x) (fun t w => t.pages = s.pages ∧ c.wentOn w ∧
      ∀ k : Fin 32, c.set.getLsbD k = true → w.regs[x.d.toFin].get k = (s.desc (lpn k)).word (s.comp (lpn k)) (x.m 23 2)) ∧
    done (.pgmassGet x) fun t w => t.pages = s.pages ∧ c.wentOn w ∧ ∀ k : Fin 32, c.set.getLsbD k = true →
      let d := s.desc (lpn k)
      w.regs[x.d.toFin].get k = BitVec.ofNat 64 (d.mass + d.dep * 2 ^ 16 + d.age * 2 ^ 32))

/-- R340, R353, R354: the Manifest, for a quarter whose eight threads name one key, in lane order. A lookup finds the longest prefix of the hashes that is
held and gives its packed record, or 0, and with `.pin` each thread pins the entry once. An insertion of what is held gives 1; one into a set with
a free way gives 0 in the first thread; one into a full set takes the place of the unpinned entry used least recently, whose packed record the
first thread receives; and where every entry is pinned it gives 2. A removal takes out an unpinned entry and gives its packed record to the
first thread; it gives 0 where nothing is held and 2 where the entry is pinned. Each unpinning takes one pin and gives the pins that
are left. Without a partition every thread takes bad handle. -/
def Obligations.ManifestResults : Prop := ∀ (x : Ext) (s : State) (c : Ctx) (j : Nat) (key packed : Word), standing x s = some c → Quarter c j → Fits c s x.d 32 →
  let done := fun (i : Instr) (p : State → Warp → Prop) => ∃ t w, exec i s = .next t ∧ BytesKept s t ∧ t.warp? c.wk = some w ∧ w.guards = c.w.guards ∧ p t w
  let gives := fun (w : Warp) (f : Nat → Word) => c.wentOn w ∧ ∀ k : Fin 32, c.set.getLsbD k = true → w.regs[x.d.toFin].get k = f (k.val % 8)
  let record := fun (e : MEntry) => BitVec.ofNat 64 (e.rec_ * 4096 + e.cnt)
  ((s.launchOf c.w).bind (fun l => l.manifest) = none → done (.pfxi x) fun t w => t.pages = s.pages ∧ w.regs = c.w.regs ∧ c.tookBadHandle w) ∧
  ∀ part, (s.launchOf c.w).bind (fun l => l.manifest) = some part → s.storesDone c.w = true →
    (∀ k : Fin 32, c.set.getLsbD k = true → c.reg x.a k = key ∧ c.reg x.b k = packed) →
    let set := manifestSet part key
    (packed.toNat % 4096 ≠ 0 → packed.toNat / 4096 ≠ 0 →
      let held := fun (t : State) (p : Nat × MEntry → Prop) => ∃ r, t.lookup part key (packed.toNat % 4096) = some r ∧ r.2.rec_ = packed.toNat / 4096 ∧ r.2.pin = 0 ∧ p r
      (∀ r, s.lookup part key (packed.toNat % 4096) = some r → done (.pfxi x) fun t w => gives w (fun _ => 1) ∧ t.pages.descs = s.pages.descs ∧
        ∃ e, t.lookup part key (packed.toNat % 4096) = some (r.1, e) ∧ e.rec_ = r.2.rec_ ∧ e.pin = r.2.pin) ∧
      (s.lookup part key (packed.toNat % 4096) = none →
        ((∃ n, n < 4 ∧ s.entry? (set + n) = none) →
          done (.pfxi x) fun t w => gives w (fun n => if n = 0 then 0 else 1) ∧ held t fun _ => True) ∧
        (∀ k e, (∀ n, n < 4 → s.entry? (set + n) ≠ none) → (k, e) ∈ s.ways set → e.pin = 0 →
          (∀ r ∈ s.ways set, r.1 ≠ k → r.2.pin = 0 → r.2.age < e.age) →
          done (.pfxi x) fun t w => gives w (fun n => if n = 0 then record e else 1) ∧ held t fun r => r.1 = k) ∧
        ((∀ n, n < 4 → ∃ e, s.entry? (set + n) = some e ∧ e.pin ≠ 0) → done (.pfxi x) fun t w => gives w (fun _ => 2) ∧ t.pages = s.pages))) ∧
    (packed ≠ 0 → packed.toNat ≤ 4095 →
      (s.lookup part key packed.toNat = none → done (.pfxd x) (fun t w => gives w (fun _ => 0) ∧ t.pages = s.pages) ∧
        done (.pfxdUnpin x) fun t w => t.pages = s.pages ∧ w.regs = c.w.regs ∧ c.tookBadHandle w) ∧
      ∀ k e, s.lookup part key packed.toNat = some (k, e) →
        (e.pin ≠ 0 → done (.pfxd x) fun t w => gives w (fun _ => 2) ∧ t.pages = s.pages) ∧
        (e.pin = 0 → (∀ r ∈ s.ways set, r.2.key = key → r.2.cnt = packed.toNat → r.1 = k) →
          done (.pfxd x) fun t w => gives w (fun n => if n = 0 then record e else 0) ∧ t.lookup part key packed.toNat = none ∧ t.entry? k = none ∧
            ∀ r ∈ s.ways set, r.1 ≠ k → ∃ e', t.entry? r.1 = some e' ∧ e'.key = r.2.key ∧ e'.cnt = r.2.cnt ∧ e'.rec_ = r.2.rec_ ∧ e'.pin = r.2.pin) ∧
        (8 ≤ e.pin → done (.pfxdUnpin x) fun t w => gives w (fun n => BitVec.ofNat 64 (e.pin - 1 - n)) ∧
          t.lookup part key packed.toNat = some (k, { e with pin := e.pin - 8 }))) ∧
    (packed ≠ 0 → packed.toNat ≤ 4095 → key.toNat % 8 = 0 → s.mem.failed = [] →
      ∀ bs, s.engGets c.w 0 key (8 * packed.toNat) bs →
        let found := fun (t : State) (n : Nat) => t.lookup part (BitVec.ofNat 64 (natOfBytes ((bs.drop (8 * n)).take 8))) (n + 1)
        ((∀ n, n < packed.toNat → found s n = none) → done (.pfxl x) fun t w => gives w (fun _ => 0) ∧ t.pages = s.pages) ∧
        ∀ n k e, n < packed.toNat → found s n = some (k, e) → (∀ i, n < i → i < packed.toNat → found s i = none) → (x.mb 23 = true → e.pin ≤ 247) →
          done (.pfxl x) fun t w => gives w (fun _ => record e) ∧
            ∃ e', found t n = some (k, e') ∧ e'.rec_ = e.rec_ ∧ e'.pin = if x.mb 23 then e.pin + 8 else e.pin)

/-- R313, R316, R326, R329 to R333, R336, R337, R465, R467: a posted page operation does its work, once its fork has passed. `pgnew` gives the free page an
image in the pool, a summary slot and a descriptor, and then writes the page's number behind its list and the list's new count. `pgapp` converts a
row of its source to BF16 and stores it behind the last page's entries, and a page that becomes full takes a new summary and version.
`pgapp.ref` pins each page of its array and marks it shared, and appends its number. `pgfree` frees the list's own unpinned page, lets go of one
that is pinned, and takes one pin of a page that it shares. `pgtrunc` frees the pages behind the new end. `pgdemote` begins a rewrite on the
page. `pglook` sets REF of a page in the LP tier. `pgsum` makes a summary where the count has changed, and writes the record. Writes to
the list go as an engine's writes do (`State.opWrite`: at the home slice in free class, else staged). -/
def Obligations.PageOperationsMove : Prop := ∀ (s : State) (o : EngOp) (x : Ext), Moves s o → o.forked s = true →
  let b := o.vals
  let list := b.getD 0 0
  let goes := fun (p : State → Prop) => ∃ t, exec (.engineOpFinish o.id) s = .next t ∧ p t
  let freed := fun (d : Desc) => { d with
    tier := 3, ver := (d.ver + 1) % 256, transit := false, hold := false, shared := false, scale := 0, addr := 0, valid := 0, dim := 0, kv := false, fmt := 0
    dep := 0, rdr := 0, lost := false, packed := false }
  let others := fun (t : State) (l : Nat) => ∀ n, n ≠ l → t.desc n = s.desc n
  let summary := fun (t : State) (l : Nat) (vals : List (List Nat)) => Sparse.find t.pages.sums (t.desc l).sumIdx = some
    { n := vals.length, rho := (summaryOf (dimOf (s.desc l).dim) vals).1, lpn := l, ver := (t.desc l).ver, cent := (summaryOf (dimOf (s.desc l).dim) vals).2 }
  (∀ (h : ListHead) (last : Option Nat) (a : Nat), o.instr = .pgnew x → s.listHead o list = .ok h → s.lastPage o list h = .ok last →
    let lpn := bw b 1
    s.newPageFails list h lpn = none → s.lastFull last = true → s.findRun 0 (64 * dimOf h.dim) = some a → s.opRoom o [(entryAddr list h.count, 4), (list, 4)] = true →
    goes fun t => others t lpn ∧ (∃ slot, t.desc lpn = { Desc.init with
        list := list, pos := h.count % 2 ^ 16, sumIdx := slot, ord := s.opOrdered o, ref := true, mass := 0x1000, ver := ((s.desc lpn).ver + 1) % 256
        hold := (b.getD 2 0).getLsbD 0, addr := a, dim := h.dim, kv := h.kv == 1, tier := 0 } ∧
      Sparse.find t.pages.sums slot = some { n := 0, rho := 0, lpn := lpn, ver := ((s.desc lpn).ver + 1) % 256, cent := List.replicate (dimOf h.dim) 0 }) ∧
      ∃ u : State, u.desc lpn = t.desc lpn ∧ (∀ tg, u.mem.of tg = s.mem.of tg) ∧
        let v := u.opWrite o (entryAddr list h.count) (bytesOfNat 4 lpn)
        let v1 := if v.opFailed o then v else v.opWrite o list (bytesOfNat 4 (h.count + 1))
        (∀ tg, t.mem.of tg = v1.mem.of tg) ∧ ∀ n, (t.group? n).map (·.staged) = (v1.group? n).map (·.staged)) ∧
  (∀ (l : List Word) (ls : List (List Word)) (bs : List Byte), o.instr = .pgapp x → o.data = l :: ls → bw l 0 ≠ 0 →
    let lpn := bw l 4
    let d := s.desc lpn
    let n := 2 * dimOf d.dim
    let va := b.getD 1 0 + BitVec.ofNat 64 (o.rows * (b.getD 3 0).toNat)
    let row := (rowDecode (bw b 4) (dimOf d.dim) bs).flatMap fun v => bytesOfNat 2 (narrow 0 false v).1
    lpn < s.pages.count → d.tier < 2 → d.lost = false → d.fmt = 0 → s.imageHeld d = false → s.mem.failed = [] →
    s.engGets (s.warpOfOp o) 0 va (rowBytes (bw b 4) (dimOf d.dim)) bs → row.length = n →
    (d.valid < 31 → goes fun t => others t lpn ∧ t.desc lpn = { d with valid := d.valid + 1 } ∧
      t.tierBytes d.tier (d.addr * 256 + n * d.valid) n = row ∧
      (∀ k, k < d.addr * 256 + n * d.valid ∨ d.addr * 256 + n * (d.valid + 1) ≤ k → t.tierBytes d.tier k 1 = s.tierBytes d.tier k 1)) ∧
    (d.valid = 31 → s.canRetire lpn = true → goes fun t => others t lpn ∧ (t.desc lpn).valid = 32 ∧ (t.desc lpn).packed = true ∧ (t.desc lpn).ver = (d.ver + 1) % 256 ∧
      (t.desc lpn).rdr = 0 ∧ t.tierBytes d.tier (d.addr * 256 + n * 31) n = row ∧
      summary t lpn (imageVals 0 (dimOf d.dim) 0 (t.tierBytes d.tier (d.addr * 256) (64 * dimOf d.dim)) 32))) ∧
  (∀ (h : ListHead) (last : Option Nat) (l : Nat), o.instr = .pgappRef x → bw b 2 = 1 → s.listHead o list = .ok h → s.lpnArray o (b.getD 1 0) 1 = .ok [l] →
    s.lastPage o list h = .ok last → s.refOk h 1 l = true → s.lastFull last = true → h.count < h.cap → s.opRoom o [(entryAddr list h.count, 4), (list, 4)] = true →
    goes fun t => others t l ∧ t.desc l = { s.desc l with pin := (s.desc l).pin + 1, shared := true }) ∧
  (∀ (h : ListHead) (l : Nat), o.instr = .pgfree x → s.listHead o list = .ok h → o.rows < h.count → s.listPage o list o.rows = .ok l → l < s.pages.count →
    (s.desc l).free = false →
    let d := s.desc l
    let next := fun (t : State) => others t l ∧ Moved t o (o.rows + 1) o.data o.claim
    (list ≠ 0 → d.list = list → d.pin = 0 → s.canRetire l = true → goes fun t => next t ∧ t.desc l = freed d) ∧
    (list ≠ 0 → d.list = list → d.pin ≠ 0 → goes fun t => next t ∧ t.desc l = { d with list := 0 }) ∧
    (d.list = 0 → d.pin ≤ 1 → s.canRetire l = true → goes fun t => next t ∧ t.desc l = freed { d with pin := 0 }) ∧
    (d.list ≠ list ∨ d.list = 0 → ¬ (d.list = 0 ∧ d.pin ≤ 1) → goes fun t => next t ∧ t.desc l = { d with pin := d.pin - 1 })) ∧
  (∀ (h : ListHead) (l : Nat), o.instr = .pgtrunc x → bw b 1 = 0 → s.listHead o list = .ok h → h.count = 1 → s.listPages o list 0 1 = .ok [l] → (s.desc l).free = false →
    (s.desc l).valid ≠ 0 → list ≠ 0 → (s.desc l).list = list → (s.desc l).pin = 0 → s.canRetire l = true → s.opRoom o [(list, 4)] = true →
    goes fun t => others t l ∧ t.desc l = freed (s.desc l)) ∧
  (∀ (img : List Byte) (a : Nat), o.instr = .pgdemote x →
    let l := bw b 0
    let d := s.desc l
    let fmt := bw b 1 % 4
    let tier := if (b.getD 1 0).getLsbD 8 then 1 else d.tier
    d.tier < 2 → d.lost = false → d.hold = false → 32 ≤ d.valid → d.fmt < fmt ∨ (d.fmt = fmt ∧ d.tier = 0 ∧ tier = 1) → d.transit = false →
    (∀ r ∈ s.pages.rewrites, r.op ≠ some o.id) → s.imageRead d.tier d.addr d.bytes = .ok img → s.findRun tier (imageBytes fmt (dimOf d.dim)) = some a →
    goes fun t => others t l ∧ t.desc l = { d with transit := true } ∧ ∃ r ∈ t.pages.rewrites, r.lpn = l ∧ r.ver = d.ver ∧ r.valid = d.valid ∧ r.fmt = fmt ∧ r.tier = tier ∧
      r.addr = a ∧ r.hatch = false ∧ r.defer = d.ord ∧ r.op = some o.id) ∧
  (∀ (l : List Word) (ls : List (List Word)), o.instr = .pglook x → o.data = l :: ls → o.rows < bw b 1 → (∀ p ∈ s.lookLists, o.id ≤ p.id) →
    let lpn := (l.getD o.rows 0).toNat
    lpn < s.pages.count → (s.desc lpn).lost = false → (s.desc lpn).tier ≠ 2 →
    goes fun t => others t lpn ∧ Moved t o (o.rows + 1) o.data o.claim ∧
      t.desc lpn = if (s.desc lpn).tier = 1 then { s.desc lpn with ref := true } else s.desc lpn) ∧
  (∀ vals, o.instr = .pgsum x → bw b 1 = 0 → s.mem.failed = [] →
    let l := bw b 0
    let d := s.desc l
    d.tier < 2 → d.lost = false → d.rdr ≠ 255 → s.readVersion d = .ok vals →
    (∀ m, Sparse.find s.pages.sums d.sumIdx = some m → m.n = d.valid → goes fun t => others t l ∧ t.desc l = { d with ref := true } ∧ t.pages.sums = s.pages.sums) ∧
    ((∀ m, Sparse.find s.pages.sums d.sumIdx = some m → m.n ≠ d.valid) → s.canRetire l = true →
      goes fun t => others t l ∧ (∃ slot, t.desc l = { d with ref := true, sumIdx := slot, ver := (d.ver + 1) % 256, rdr := 0 }) ∧ summary t l vals))

/-- R323, R340 to R352: a posted operation of attention, selection or prefix hashes goes on, once its fork has passed and nothing earlier is pending on its
tiles. It reads its list of pages; takes a snapshot of the next page, whose count of readers rises and whose REF is set; reads a page in the
version that the snapshot caught, whose count of readers falls again; and once all pages are read, `atts` leaves each row's new maximum, sum,
scale and probabilities in its tiles, and `attv` the weighted values added to the scaled old ones. `attf` deposits the mass of each page, and
divides the output rows by their sums. `psel` reads each candidate, and writes the numbers of the best in rank order, and their bounds
where they are asked for. `pfxh` hashes one block of 16 tokens and writes the chain value. Writes to memory go as an engine's writes do
(`State.opWrite`). Stated where no page of the list is in flash. -/
def Obligations.AttentionOperationsMove : Prop := ∀ (s : State) (o : EngOp) (x : Ext), Moves s o → o.forked s = true →
  s.tilesClear o.core o.tiles o.id = true → (o.isAtt = true → o.started = true) →
  let b := o.vals
  let goes := fun (p : State → Prop) => ∃ t, exec (.engineOpFinish o.id) s = .next t ∧ p t
  let rows := attRows b
  let dim := dimOf (attDim b)
  let row := fun (i : Nat) => attOrg b + i
  let tile := fun (t : State) (n r k : Nat) => t.tileAt o n r k
  let chunk := 16 + bw b 1 / 2 ^ 48 % 2 ^ 8
  let zero : NVal := .fin { neg := false, m := 0, e := 0 }
  let attention := o.instr = .atts x ∨ o.instr = .attv x
  let wants := fun (d : Desc) (dm : Nat) (kv : Bool) => d.tier < 2 ∧ d.lost = false ∧ d.kv = kv ∧ d.dim = dm ∧ d.rdr ≠ 255
  (∀ n ls, (attention ∧ n = attPages b) ∨ (o.instr = .psel x ∧ n = selNc b) ∨ (o.instr = .attf x ∧ x.mb 24 = true ∧ n = attPages b) → o.data = [] →
    s.lpnArray o (b.getD 0 0) n = .ok ls → goes fun t => t.pages = s.pages ∧ Moved t o o.rows [ls.map (BitVec.ofNat 64)] o.claim) ∧
  (∀ (l : List Word) (ls : List (List Word)), o.data = l :: ls →
    let list := l.map (·.toNat)
    (∀ n ∈ list, s.inFlash n = false) →
    (attention →
      (∀ i lpn, s.nextFetch o list = some (i, lpn) → lpn < s.pages.count → wants (s.desc lpn) (attDim b) (o.instr == .attv x) →
        let d := { s.desc lpn with rdr := (s.desc lpn).rdr + 1, ref := true }
        goes fun t => t.desc lpn = d ∧ (∀ n, n ≠ lpn → t.desc n = s.desc n) ∧
          ∃ p, t.op? o.id = some p ∧ p.done = false ∧ p.pages = o.pages ++ [{ idx := i, lpn := lpn, desc := d, vals := none }]) ∧
      (∀ (r : PageRead) (vals : List (List Nat)), s.nextFetch o list = none → (o.pages.find? fun p => p.vals.isNone) = some r → s.mem.failed = [] →
        s.readVersion r.desc = .ok vals → (s.desc r.lpn).tier < 3 → (s.desc r.lpn).ver = r.desc.ver →
        goes fun t => t.desc r.lpn = { s.desc r.lpn with rdr := (s.desc r.lpn).rdr - 1 } ∧
          ∃ p, t.op? o.id = some p ∧ p.done = false ∧ p.pages = o.pages.map fun q => if q.idx = r.idx then { q with vals := some vals } else q) ∧
      (s.nextFetch o list = none → (∀ p ∈ o.pages, p.vals.isSome) → attPages b ≤ o.pages.length → attBlockOk o.instr b = true →
        let ps := o.fetched (attPages b)
        (o.instr = .atts x → attSt b ∉ scoreTiles b → goes fun t => ∀ i, i < rows →
          let q := ((List.range dim).map fun k => toBf16 (tile s (attQt b) (row i) k)).map bf16.toVal
          let sc := (ps.mapIdx fun p pr => (List.range 32).map fun e => scoreOf b i p e q pr).flatten
          let mo := if x.mb 23 then negInf else tile s (attSt b) (row i) 0
          let lo := if x.mb 23 then 0 else tile s (attSt b) (row i) 1
          let mn := max32 mo (sc.tail.foldl max32 (sc.headD negInf))
          let alpha := if mo = negInf ∧ mn ≠ negInf then 0 else if mn = negInf then one32 else dexp2x (sub32 mo mn)
          let ks := sc.map fun v => if v = negInf then 0 else ofBf16 (toBf16 (dexp2x (sub32 v mn)))
          let sum := (List.range ps.length).foldl (fun a p => add32 a (tree32 5 ((ks.drop (32 * p)).take 32))) 0
          tile t (attSt b) (row i) 0 = mn % 2 ^ 32 ∧ tile t (attSt b) (row i) 1 = add32 (mul32 lo alpha) sum % 2 ^ 32 ∧
            tile t (attSt b) (row i) 2 = alpha % 2 ^ 32 ∧ tile t (attSt b) (row i) chunk = mn % 2 ^ 32 ∧
            ∀ k v, ks[k]? = some v → tile t (attSb b) (row i) k = v % 2 ^ 32) ∧
        (o.instr = .attv x → goes fun t => ∀ i j, i < rows → j < dim →
          let alpha := tile s (attSt b) (row i) 2
          let p := (List.range (32 * attPages b)).map fun k => bf16.toVal (toBf16 (tile s (attSb b) (row i) k))
          let col := (ps.map fun pr => (List.range 32).map fun e => if pr.desc.valid ≤ e then zero else bf16.toVal (((pr.vals.getD []).getD e []).getD j 0)).flatten
          let acc := (passElem 8 (32 * attPages b) false false p col).toNat
          tile t (attOt b) (row i) j = (if alpha = 0 then acc else add32 (mul32 (tile s (attOt b) (row i) j) alpha) acc) % 2 ^ 32))) ∧
    (o.instr = .attf x → x.mb 24 = true → o.rows < attPages b →
      let lpn := (l.getD o.rows 0).toNat
      let mass := depositOf ((List.range rows).flatMap fun i =>
        let sum := tile s (attSt b) (row i) 1
        let weight := dexp2x (sub32 (tile s (attSt b) (row i) chunk) (tile s (attSt b) (row i) 0))
        (List.range 32).map fun e => probOf (tile s (attSb b) (row i) (32 * o.rows + e)) sum weight)
      lpn < s.pages.count → (s.desc lpn).free = false →
      goes fun t => t.desc lpn = { s.desc lpn with dep := min 0xFFFF ((s.desc lpn).dep + mass) } ∧ Moved t o (o.rows + 1) o.data o.claim) ∧
    (o.instr = .psel x → o.pages.length < selNc b →
      let lpn := (l.getD o.pages.length 0).toNat
      lpn < s.pages.count → s.inFlash lpn = false → wants (s.desc lpn) (selDim b) false →
      goes fun t => t.desc lpn = { s.desc lpn with ref := true } ∧ ∃ p, t.op? o.id = some p ∧ p.done = false ∧ p.pages.length = o.pages.length + 1 ∧
        ∃ r, p.pages = o.pages ++ [r] ∧ r.lpn = lpn ∧ r.desc = { s.desc lpn with rdr := (s.desc lpn).rdr + 1, ref := true } ∧
          ∀ m, Sparse.find s.pages.sums (s.desc lpn).sumIdx = some m → r.summary.n = m.n ∧ r.summary.rho = m.rho ∧ r.summary.cent = m.cent) ∧
    (o.instr = .psel x → selNc b ≤ o.pages.length →
      s.opRoom o ((b.getD 2 0, 4 * selK b) :: if b.getD 3 0 = 0 then [] else [(b.getD 3 0, 4 * selK b)]) = true →
      let cands := o.pages.map fun p => ({ b := s.boundOf o p.desc.valid p.summary, mass := p.desc.mass, lpn := p.lpn, idx := p.idx } : Cand)
      ∃ order : List Cand, order.Perm cands ∧ order.Pairwise (fun c d => d.before c = false) ∧
        let v := s.opWrite o (b.getD 2 0) ((order.take (selK b)).flatMap fun c => bytesOfNat 4 c.lpn)
        let v1 := if v.opFailed o ∨ b.getD 3 0 = 0 then v else v.opWrite o (b.getD 3 0) ((order.take (selK b)).flatMap fun c => bytesOfNat 4 c.b)
        goes fun t => ∀ tg, t.mem.of tg = v1.mem.of tg)) ∧
  (o.instr = .attf x → x.mb 23 = true → x.mb 24 = false ∨ (o.data ≠ [] ∧ attPages b ≤ o.rows) → attBlockOk o.instr b = true →
    goes fun t => ∀ i j, i < rows → j < dim →
      let sum := tile s (attSt b) (row i) 1
      tile t (attOt b) (row i) j = (if sum = 0 then 0 else (fpDiv f32 0 false (tile s (attOt b) (row i) j) sum).1) % 2 ^ 32) ∧
  ∀ bs, o.instr = .pfxh x → s.opRoom o [(b.getD 3 0 + BitVec.ofNat 64 (8 * o.rows), 8)] = true →
    let va := b.getD 0 0 + BitVec.ofNat 64 (64 * o.rows)
    s.engGets (s.warpOfOp o) 0 va 64 bs →
    let old := match o.data with
      | (h :: _) :: _ => h
      | _ => if x.mb 23 then b.getD 2 0 else b.getD 2 0 ^^^ 0x3B19E7C25A8406DD
    let h := prefixMix old ((List.range 16).map fun k => natOfBytes ((bs.drop (4 * k)).take 4))
    goes fun t => (∀ tg, t.mem.of tg = (((s.engNote (s.warpOfOp o) 0 va 64).opWrite o (b.getD 3 0 + BitVec.ofNat 64 (8 * o.rows)) (bytesOfNat 8 h.toNat)).mem.of tg)) ∧
      ∀ p, t.op? o.id = some p → p.rows = o.rows + 1 ∧ p.data = [[h]]

/-! ### System instructions, faults, handlers and the timer (spec 18) -/

/-- R38, R47, R399, R403, R409, R410: `trap` and `bkpt` park each active thread with the cause 0x0E or 0x0F: its record names the instruction, the warp, the
lane, the active mask and the device time, and it is to resume at the next instruction. Where a thread of the set is not in privileged mode, a
privileged instruction, and `movs` of a register from 0x40 upwards, parks the whole set with privilege (0x02) and has no effect of its own. -/
def Obligations.TrapsAndPrivilegeFaults : Prop :=
  (∀ (x : Ext) (s : State) (c : Ctx), standing x s = some c →
  (∀ k : Fin 32, c.act.getLsbD k = true → c.w.threads[k].st ≠ .parked) →
  let parks := fun (i : Instr) (cause : Nat) (addr : Word) =>
    ∃ t w, exec i s = .next t ∧ BytesKept s t ∧ t.warp? c.wk = some w ∧ w.regs = c.w.regs ∧ w.guards = c.w.guards ∧
      ∀ k : Fin 32, if c.act.getLsbD k then
          w.threads[k].st = .parked ∧ w.threads[k].pc = c.w.threads[k].pc ∧ w.threads[k].resume = c.next ∧
          ∃ r, w.threads[k].frec = some r ∧ r.cause = cause ∧ r.addr = addr ∧ r.late = false ∧ r.privl = c.w.threads[k].privl ∧ r.warp = c.w.widx ∧
            r.lane = k.val ∧ r.mask = c.act ∧ r.time = BitVec.ofNat 64 s.ns ∧ (r.ordinal, r.offset) = c.w.threads[k].whereIs c.pc
        else w.threads[k] = if c.set.getLsbD k then { c.w.threads[k] with pc := c.next } else c.w.threads[k]
  parks (.trap x) 0x0E (x.l32.setWidth 64) ∧ parks (.bkpt x) 0x0F 0) ∧
  ∀ (x : Ext) (s : State) (c : Ctx) (i : Instr), standing x s = some c →
  (∃ k : Fin 32, c.set.getLsbD k = true ∧ c.w.threads[k].privl = false) → (∀ k : Fin 32, c.set.getLsbD k = true → c.w.threads[k].st ≠ .parked) →
  i ∈ [Instr.rte x, .movsp x, .logrec x, .cntcfgSel x, .cntcfgClr x, .cntcfgFrz x, .cntcfgRun x, .tlbinvVa x, .tlbinvAll x] ∨ (i = .movsRead x ∧ 0x40 ≤ x.m 23 7) →
  ∃ t w, exec i s = .next t ∧ BytesKept s t ∧ t.mem = s.mem ∧ t.warp? c.wk = some w ∧ w.regs = c.w.regs ∧ w.guards = c.w.guards ∧ w.tmr = c.w.tmr ∧ w.handler = c.w.handler ∧
    ∀ k : Fin 32, if c.set.getLsbD k then w.threads[k].parkedWith 0x02 c.pc ∧ w.threads[k].pc = c.w.threads[k].pc ∧ w.threads[k].privl = c.w.threads[k].privl
      else w.threads[k] = c.w.threads[k]

/-- R406, R411 to R416: system instructions of a set in privileged mode: `rte` returns the active threads to their %epc with their records gone, `movsp`
writes %epc or the timer, `cntcfg` selects, clears, freezes or restarts the core's counters, `logrec` posts a record to the trace unit, and
`tlbinv` removes translations, all but the scheduler's own. -/
def Obligations.PrivilegedResults : Prop := ∀ (x : Ext) (s : State) (c : Ctx) (i0 : Fin 32), standing x s = some c → Mask.lowest c.act = some i0 →
  (∀ k : Fin 32, c.set.getLsbD k = true → c.w.threads[k].privl = true) →
  let done := fun (i : Instr) (p : State → Warp → Prop) => ∃ t w, exec i s = .next t ∧ BytesKept s t ∧ t.warp? c.wk = some w ∧ w.regs = c.w.regs ∧ w.guards = c.w.guards ∧ p t w
  let v := c.src x.srcB i0
  (c.w.doomed = false → done (.rte x) fun _ w => w.handler = c.w.handler &&& ~~~ c.act ∧
    w.threads = c.branched fun _ t => { t with privl := false, tcause := 0, pc := t.epc, frec := none }) ∧
  (x.m 23 7 = 0x45 → done (.movsp x) fun _ w => w.tmr = c.w.tmr ∧ w.threads = c.goneWith fun k t => { t with epc := c.reg x.b k }) ∧
  (x.m 23 7 = 0x47 → done (.movsp x) fun _ w => w.tmr = c.reg x.b i0 ∧ w.threads = c.gone) ∧
  done (.cntcfgSel x) (fun t w => w.threads = c.gone ∧
    ∀ n : Fin 8, n.val = x.m 25 3 → (t.coreOf c.core).evSel[n] = if 0x0B < v.toNat then 0 else v.toNat) ∧
  done (.cntcfgClr x) (fun t w => w.threads = c.gone ∧ (∀ n : Fin 8, v.getLsbD n = true → (t.coreOf c.core).evCount[n] = 0) ∧
    (v.getLsbD 8 = true → (t.coreOf c.core).leaves = Vector.replicate 20 0 ∧ (t.coreOf c.core).total s.clock.cycles = 0)) ∧
  done (.cntcfgFrz x) (fun t w => w.threads = c.gone ∧ (t.coreOf c.core).running = false) ∧
  done (.cntcfgRun x) (fun t w => w.threads = c.gone ∧ (t.coreOf c.core).running = true) ∧
  (s.trace.en = true → s.trace.queue.length < 64 → done (.logrec x) fun t w => w.threads = c.gone ∧
    if Config.caps.getLsbD 5 then ∃ r, t.trace.queue = s.trace.queue ++ [r] ∧ r.kind = 1 ∧ r.tag = x.l32.toNat % 2 ^ 16 ∧ r.core = c.core ∧ r.warp = c.w.widx ∧
      r.time = s.ns ∧ r.d0 = c.reg x.a i0 ∧ r.d1 = c.reg x.b i0
    else t.trace = s.trace) ∧
  (s.mem.reqs = [] → (∀ k : Fin 32, c.act.getLsbD k = true → s.timePasses c.w.threads[k].farH = true) → (∀ k : Fin 32, c.set.getLsbD k = true → c.w.threads[k].lateRec = none) →
    done (.tlbinvVa x) (fun t w => (∀ e, e ∈ t.mem.tlb ↔ e ∈ s.mem.tlb ∧ (e.fixed = true ∨ ∀ k : Fin 32, c.act.getLsbD k = true → e.covers (c.ea x k) = false)) ∧
      ∀ k : Fin 32, c.set.getLsbD k = true → w.threads[k].st = .ready ∧ w.threads[k].pc = c.next) ∧
    done (.tlbinvAll x) (fun t w => (∀ e, e ∈ t.mem.tlb ↔ e ∈ s.mem.tlb ∧ e.fixed = true) ∧
      ∀ k : Fin 32, c.set.getLsbD k = true → w.threads[k].st = .ready ∧ w.threads[k].pc = c.next))

/-- R9, R41, R407, R411, R414: `movs` reads and writes of special registers, each thread its own value, and `cntrd`. A register from 0x40 upwards is
read in privileged mode. Device time is within 1 ns of the module's, or what the thread has read last, and never less than that (the copies that the
dies keep are the model's choice, log entry 62). R160, R161: reads of %fsr give its mode and flag fields; writes change those fields in the active
threads and nothing else. -/
def Obligations.SpecialRegisterResults : Prop :=
  (∀ (x : Ext) (s : State),
    let n := x.m 23 7
    let reads := fun (k : Nat) (f : Ctx → Fin 32 → Word) => n = k → Gives (.movsRead x) x s (fun _ _ => 32) (.vec x.d) none fun c i => plain (f c i)
    let readsPriv := fun (k : Nat) (f : Ctx → Fin 32 → Word) => n = k → ∀ c, standing x s = some c → (∀ i : Fin 32, c.set.getLsbD i = true → c.w.threads[i].privl = true) →
      Fits c s x.d 32 → ∃ t, exec (.movsRead x) s = .next t ∧ Completed c s t (.vec x.d) none fun i => plain (f c i)
    let writes := fun (k : Nat) (f : Word → Thread → Thread) => n = k → ∀ c, standing x s = some c →
      ∃ t, exec (.movsWrite x) s = .next t ∧ Elsewhere c.wk s t ∧ t.warp? c.wk = some { c.w with threads := c.goneWith fun i t => f (c.reg x.b i) t }
    let nat := BitVec.ofNat 64
    reads 0x00 (fun c i => nat (32 * c.w.widx + i.val)) ∧ reads 0x01 (fun _ i => nat i.val) ∧ reads 0x02 (fun _ i => nat (i.val / 8)) ∧ reads 0x03 (fun c _ => nat c.w.widx) ∧
    reads 0x08 (fun c _ => nat c.core) ∧  reads 0x0B (fun _ _ => nat s.clock.cycles) ∧ reads 0x0D (fun c _ => nat c.w.quota) ∧
    reads 0x0E (fun c _ => nat c.w.held) ∧ reads 0x0F (fun c i => c.w.threads[i].fsr.setWidth 64) ∧ reads 0x10 (fun c i => c.w.threads[i].isr.setWidth 64) ∧
    reads 0x11 (fun c i => c.w.threads[i].lc0) ∧ reads 0x12 (fun c i => c.w.threads[i].lc1) ∧
    readsPriv 0x40 (fun c i => nat c.w.threads[i].tcause) ∧ readsPriv 0x45 (fun c i => c.w.threads[i].epc) ∧ readsPriv 0x46 (fun c _ => nat c.w.tentry) ∧
    readsPriv 0x47 (fun c _ => c.w.tmr) ∧
    (n = 0x0A → ∀ c, standing x s = some c → Fits c s x.d 32 → ∃ t w, exec (.movsRead x) s = .next t ∧ BytesKept s t ∧ t.warp? c.wk = some w ∧ w.guards = c.w.guards ∧
      ∀ i : Fin 32, if c.act.getLsbD i then ∃ v, w.regs[x.d.toFin].get i = nat v ∧ w.threads[i].lastTime = v ∧ s.ns ≤ v + 1 ∧ c.w.threads[i].lastTime ≤ v ∧
          (v ≤ s.ns + 1 ∨ v = c.w.threads[i].lastTime)
        else w.regs[x.d.toFin].get i = c.regAfter x.d (fun _ => 0) i) ∧
    writes 0x0F (fun v t => { t with fsr := fsrWrite t.fsr v }) ∧ writes 0x10 (fun v t => { t with isr := isrWrite v }) ∧
    writes 0x11 (fun v t => { t with lc0 := v }) ∧ writes 0x12 (fun v t => { t with lc1 := v }) ∧
    Gives (.cntrd x) x s (fun _ _ => 32) (.vec x.d) none fun c _ => plain (nat ((s.coreOf c.core).counter s.clock.cycles n))) ∧
  (∀ (x : Ext) (s : State),
    let sets := fun (i : Instr) (f : BitVec 32 → Word → BitVec 32) =>
      ∀ c, standing x s = some c → ∃ t, exec i s = .next t ∧ Elsewhere c.wk s t ∧
        t.warp? c.wk = some { c.w with threads := c.goneWith fun n t0 => { t0 with fsr := f t0.fsr (c.src x.srcB n) } }
    GivesWord (.fpmodeGet x) x s [.none_, .none_, .none_] (fun c i =>
      (fsrRmode c.w.threads[i].fsr).setWidth 64 ||| ((BitVec.ofBool (fsrFtz c.w.threads[i].fsr)).setWidth 64 <<< 3)) ∧
    GivesWord (.fflagsGet x) x s [.none_, .none_, .none_] (fun c i => (c.w.threads[i].fsr.setWidth 13).setWidth 64) ∧
    sets (.fpmodeRm x) (fun f b => if 5 ≤ (b.setWidth 3).toNat then f else (f &&& ~~~ 0x00070000#32) ||| (((b.setWidth 3).setWidth 32) <<< 16)) ∧
    sets (.fpmodeFtz x) (fun f b => (f &&& ~~~ 0x00100000#32) ||| ((BitVec.ofBool (b.getLsbD 0)).setWidth 32 <<< 20)) ∧
    sets (.fflagsClr x) (fun f b => f &&& ~~~ (b.setWidth 5).setWidth 32) ∧
    sets (.fflagsSet x) (fun f b => f ||| (b.setWidth 5).setWidth 32) ∧
    sets (.fflagsTe x) (fun f b => (f &&& ~~~ 0x00001F00#32) ||| ((b.setWidth 5).setWidth 32 <<< 8)))

/-- R386, R400 to R404, R408: once a warp has stopped, the action for its records is taken: where a cause halts, the launch halts and reports the lowest such
cause; else the warp enters the handler of the lowest cause that has one: every parked or stopped thread goes to the handler's address in
privileged mode, with %epc and %tcause set. An expired timer does so for the stopped threads, and with them for threads that a run overflow
has parked while a save services it. A group that the ordering-wait detector finds is
parked with 0x10. -/
def Obligations.HandlersAreEntered : Prop := ∀ (s : State),
  (∀ (wk : Nat) (w : Warp) (g : Group) (l : Launch), s.warp? wk = some w → s.group? w.gid = some g → s.launch? g.launch = some l → l.status ≠ 3 → w.handler = 0 → w.settled = true →
    let rs := w.records (BitVec.allOnes 32)
    (∀ cause, leastOf ((rs.filter fun r => l.actionOf r == 0).map (·.cause)) = some cause → g.launch < 2 ^ 64 → l.status = 0 →
      ∃ t l', exec (.warpTrapAction wk) s = .next t ∧ t.launch? g.launch = some l' ∧ l'.status = 3 ∧ l'.cause = cause) ∧
    (∀ cause, (∀ r, r ∈ rs → l.actionOf r ≠ 0) → leastOf ((rs.filter fun r => l.actionOf r == 1).map (·.cause)) = some cause → w.stopped &&& w.which Thread.isParked = 0 →
      ∃ t w', exec (.warpTrapAction wk) s = .next t ∧ BytesKept s t ∧ t.warp? wk = some w' ∧ w'.regs = w.regs ∧ w'.guards = w.guards ∧ w'.tentry = cause ∧ w'.stopped = 0 ∧
        ∀ k : Fin 32,
          if w.threads[k].st = .parked then
            w'.threads[k].st = .ready ∧ w'.threads[k].privl = true ∧ w'.threads[k].pc = l.codeVa + BitVec.ofNat 64 (l.trap cause).handler ∧
            w'.threads[k].epc = w.threads[k].resume ∧ w'.threads[k].tcause = (match w.threads[k].frec with | some r => r.cause | none => 0) ∧ w'.handler.getLsbD k = true
          else if w.stopped.getLsbD k then
            w'.threads[k].st = .ready ∧ w'.threads[k].privl = true ∧ w'.threads[k].pc = l.codeVa + BitVec.ofNat 64 (l.trap cause).handler ∧
            w'.threads[k].epc = w.threads[k].pc ∧ w'.threads[k].tcause = 0 ∧ w'.handler.getLsbD k = true
          else w'.threads[k] = w.threads[k] ∧ w'.handler.getLsbD k = false) ∧
    (w.timerDue s.ns = true → w.anyParked = false ∨ ((∃ o, g.mode = .saving o) ∧ ∀ r, r ∈ rs → l.actionOf r = 2) → w.stopped ≠ 0 →
      w.stopped &&& w.which Thread.isParked = 0 → (l.trap 0x0D).action = 1 →
      ∃ t w', exec (.timerExpiry wk) s = .next t ∧ BytesKept s t ∧ t.warp? wk = some w' ∧ w'.regs = w.regs ∧ w'.tmr = 0 ∧ w'.tentry = 0x0D ∧
        w'.handler = w.stopped ||| w.which Thread.isParked ∧
        ∀ k : Fin 32, w'.handler.getLsbD k = true →
          w'.threads[k].st = .ready ∧ w'.threads[k].privl = true ∧ w'.threads[k].pc = l.codeVa + BitVec.ofNat 64 (l.trap 0x0D).handler ∧
          if w.stopped.getLsbD k then w'.threads[k].epc = w.threads[k].pc ∧ w'.threads[k].tcause = 0x0D
          else w'.threads[k].epc = w.threads[k].resume ∧ w'.threads[k].tcause = (match w.threads[k].frec with | some r => r.cause | none => 0))) ∧
  ∀ (launch : Word) (gid : Nat), s.runsOf launch.toNat = [launch.toNat] → s.orderingStuck launch.toNat = some gid →
    ∃ t, exec (.orderingWaitDeadlock launch) s = .next t ∧ BytesKept s t ∧ ∀ wk w, s.warp? wk = some w → w.gid = gid →
      ∃ w', t.warp? wk = some w' ∧ w'.regs = w.regs ∧ ∀ k : Fin 32, w.threads[k].st ≠ .exited → w'.threads[k].parkedWith 0x10 0

/-- R320, R322, R324, R325, R467: the steps that rewrite and move pages. A swap gives a page the image that was made for it and the next version, and has
no effect where the version or the count of valid entries has changed. A visit of an Ebb moves its pass on and begins what it decides, a
visit of the Hatch clears REF or begins a spill, a wanted page comes back from flash with REF set, and while a write to the pool is held the
page with the least MASS moves to the LP tier. -/
def Obligations.PageEngineSteps : Prop := ∀ (s : State) (lpn : Nat),
  let d := s.desc lpn
  let others := fun (t : State) => t.warps = s.warps ∧ ∀ n, n ≠ lpn → t.desc n = s.desc n
  let swapped := fun (t : State) (r : Rewrite) => others t ∧ t.desc lpn =
    if d.ver = r.ver ∧ d.valid = r.valid then
      { d with
        fmt := r.fmt, scale := r.scale, tier := r.tier, addr := r.addr, sumIdx := r.slot.getD d.sumIdx, packed := decide (d.valid = 32)
        ver := (d.ver + 1) % 256, rdr := 0, transit := false }
    else { d with transit := false }
  let begun := fun (t : State) (fmt tier addr : Nat) (hatch : Bool) => others t ∧ t.desc lpn = { d with transit := true } ∧
    ∃ r ∈ t.pages.rewrites, r.lpn = lpn ∧ r.ver = d.ver ∧ r.valid = d.valid ∧ r.fmt = fmt ∧ r.tier = tier ∧ r.addr = addr ∧ r.hatch = hatch ∧ r.op = none
  let ready := fun (u : State) (fmt tier addr : Nat) => u.rewriteOf lpn = none ∧ u.findRun tier (imageBytes fmt (dimOf d.dim)) = some addr ∧
    ∃ img, u.imageRead d.tier d.addr d.bytes = .ok img
  (∀ r, s.rewriteOf lpn = some r → d.free = false → s.retireRoom lpn = true →
    (r.hatch = false → r.defer = false → ∃ t, exec (.ebbSwap lpn) s = .next t ∧ t.mem = s.mem ∧ swapped t r) ∧
    (r.hatch = true → r.tier = 2 → ∃ t, exec (.hatchSpillComplete lpn) s = .next t ∧ t.mem = s.mem ∧ swapped t r)) ∧
  (s.nextVisit (ebbOf lpn) = some lpn → s.actionRoom lpn = true → d.ord = false → s.mem.failed = [] →
    (s.ebbDecide lpn = none → ∃ t, exec (.ebbVisit lpn) s = .next t ∧ others t ∧ BytesKept s t ∧ t.desc lpn = d ∧
      t.pages.passes[Fin.ofNat 4 (ebbOf lpn)] = some (lpn + 1)) ∧
    (∀ fmt addr, s.ebbDecide lpn = some (.rewrite fmt) → ready (s.noteHeader lpn) fmt d.tier addr → ∃ t, exec (.ebbVisit lpn) s = .next t ∧ begun t fmt d.tier addr false ∧
      t.pages.passes[Fin.ofNat 4 (ebbOf lpn)] = some (lpn + 1)) ∧
    ∀ tier addr, s.ebbDecide lpn = some (.move tier) → ready (s.noteHeader lpn) d.fmt tier addr → ∃ t, exec (.ebbVisit lpn) s = .next t ∧ begun t d.fmt tier addr false ∧
      t.pages.passes[Fin.ofNat 4 (ebbOf lpn)] = some (lpn + 1)) ∧
  (s.underHand = some lpn →
    (s.pages.sweeping = false → s.lpUse * 100 ≤ s.pages.wm.toNat % 2 ^ 8 * Config.lpBytes →
      ∃ t, exec .hatchSweepVisit s = .next t ∧ t.mem = s.mem ∧ others t ∧ t.desc lpn = d ∧ t.pages.hand = s.pages.hand) ∧
    (s.pages.wm.toNat % 2 ^ 8 * Config.lpBytes < s.lpUse * 100 → s.pages.sweeping = false →
      (d.tier ≠ 1 → ∃ t, exec .hatchSweepVisit s = .next t ∧ t.mem = s.mem ∧ others t ∧ t.desc lpn = d ∧ t.pages.hand = lpn + 1) ∧
      (d.tier = 1 → d.ref = true → ∃ t, exec .hatchSweepVisit s = .next t ∧ t.mem = s.mem ∧ others t ∧ t.desc lpn = { d with ref := false } ∧ t.pages.hand = lpn + 1) ∧
      ∀ addr, d.tier = 1 → d.ref = false → d.pin = 0 → d.hold = false → d.rdr = 0 → d.transit = false → ready s d.fmt 2 addr →
        ∃ t, exec .hatchSweepVisit s = .next t ∧ begun t d.fmt 2 addr true ∧ t.pages.hand = lpn + 1)) ∧
  (lpn ∈ s.pages.wanted → d.tier = 2 → d.lost = false → s.retireRoom lpn = true →
    (∀ e ∈ s.warps, ∀ (i : Fin 32) (id : Nat), e.2.threads[i].waits ≠ some (.hatch id)) →
    (∀ addr, d.rdr = 0 → ready s d.fmt 1 addr → ∃ t, exec (.hatchFetch lpn true) s = .next t ∧ others t ∧ lpn ∉ t.pages.wanted ∧
      t.desc lpn = { d with tier := 1, addr := addr, packed := decide (d.valid = 32), ver := (d.ver + 1) % 256, transit := false, ref := true }) ∧
    ∃ t, exec (.hatchFetch lpn false) s = .next t ∧ others t ∧ t.mem = s.mem ∧
      t.desc lpn = if (Sparse.find s.pages.fails lpn).isSome then { d with lost := true } else d) ∧
  (s.pressed = some lpn → ∀ addr, ready s d.fmt 1 addr → s.retireRoom lpn = true → (∃ r ∈ s.mem.reqs, s.canPerform r = true ∧ s.poolHeld r = true) → d.tier = 0 → d.rdr = 0 → d.transit = false →
    ∃ t, exec .hpoolPressureMove s = .next t ∧ others t ∧
      t.desc lpn = { d with tier := 1, addr := addr, packed := decide (d.valid = 32), ver := (d.ver + 1) % 256, transit := false }) ∧
  (s.pressed = some lpn → ∃ e ∈ s.pages.descs, e.1 = lpn ∧ e.2.tier = 0 ∧ e.2.pin = 0 ∧ e.2.hold = false ∧ e.2.rdr = 0 ∧ e.2.transit = false ∧
    ∀ q ∈ s.pages.descs, q.2.tier = 0 → q.2.pin = 0 → q.2.hold = false → q.2.rdr = 0 → q.2.transit = false → e.2.mass ≤ q.2.mass) ∧
  ∀ (r : Request) (a : Access), s.mem.reqs = [r] → r.accs = [a] → s.toPool r = true → s.canPerform r = true → s.poolHeld r = false → s.refusal r = none → s.lineBad .hbm a.pa = none →
    ∃ t, exec .heldPoolWriteProceed s = .next t ∧ t.warps = s.warps ∧ (∀ u, u ≠ Target.hbm → t.mem.of u = s.mem.of u) ∧
      t.mem.of .hbm = match (r.newBytes a (s.rawBytes .hbm a.pa a.n)).1 with | some bs => (s.mem.of .hbm).setBytes a.pa bs | none => s.mem.of .hbm

/-! ### The scheduler and the commit of a step (spec 16, 17) -/

/-- R356, R358, R359, R362, R366, R367, R370, R371: a doorbell posts the records up to the new tail, or is refused with ERR; admission leaves a post whose
dependences do not hold, and takes the next one otherwise: a record that fails its checks launches nothing, and a launch that is admitted has
the fields of its record. A dispatched group starts on a core with its warps at the kernel's entry. A launch whose groups are over ends
with status 1. A launch that cannot be placed drains the victim for which draining is the method. Every 100 µs a stage's target follows the
fill of its queues, and a fall pre-empts the stage's highest resident group, here by draining. Stated for one post, one stage, a launch that is no crew and the last launch of the table. -/
def Obligations.SchedulerSteps : Prop := ∀ (s : State), s.firm.running = true →
  (∀ (q : Fin 64) (tail : BitVec 32),
    let lq := s.sched.lq[q]
    (2 ^ lq.log2 < (tail - lq.head).toNat ∨ 2 ^ 31 ≤ (tail - lq.tail).toNat →
      ∃ t, exec (.lqTailDoorbell q.val tail) s = .next t ∧ t = { s with sched := t.sched } ∧ t.sched.lq[q] = { lq with err := true } ∧ t.sched.posted = s.sched.posted) ∧
    ((tail - lq.head).toNat ≤ 2 ^ lq.log2 → (tail - lq.tail).toNat < 2 ^ 31 →
      ∃ t ps, exec (.lqTailDoorbell q.val tail) s = .next t ∧ t = { s with sched := t.sched } ∧ t.sched.lq[q] = { lq with tail := tail } ∧
        t.sched.posted = s.sched.posted ++ ps ∧ ps.length = (tail - lq.tail).toNat ∧
        ∀ p, p ∈ ps → p.host = true ∧ p.callg = false ∧ p.queue = some q.val ∧ p.arrived = true ∧ p.cancelled = false)) ∧
  (∀ (q : Fin 64) (p : Posted) (r : List Byte),
    let lq := s.sched.lq[q]
    let va := lq.base + BitVec.ofNat 64 (128 * (lq.head.toNat % 2 ^ lq.log2))
    s.sched.posted = [p] → p.arrived = true → p.host = true → p.callg = false → p.queue = some q.val → p.poster = none → p.cancelled = false → lq.en = true → s.devRead va 128 = some r →
    (s.judge p r = .wait → exec (.launchAdmission (some q.val)) s = .next s) ∧
    (s.judge p r = .fail → ∃ t, exec (.launchAdmission (some q.val)) s = .next t ∧ t.launches = s.launches ∧ t.sched.posted = [] ∧
      t.sched.lq[q] = { lq with head := lq.head + 1 }) ∧
    ∀ l data const queuePa, s.judge p r = .admitted l data const queuePa →
      (∀ k, k < 4 → fieldW r (0x40 + 16 * k) ≠ 0 → ∃ bs, s.devRead (fieldW r (0x40 + 16 * k)) 8 = some bs ∧ field r 8 (0x48 + 16 * k) ≤ natOfBytes bs) ∧
      l.ident = p.ident ∧ l.kidx = field r 2 0x08 ∧ l.objVa = fieldW r 0 ∧ l.groups = field r 4 0x0C ∧ 1 ≤ l.groups ∧ l.groups < 2 ^ 24 ∧ l.compl = fieldW r 0x20 ∧
      l.tag = fieldW r 0x28 ∧ l.lam = field r 4 0x1C ∧
      ∃ t l', exec (.launchAdmission (some q.val)) s = .next t ∧ t.warps = s.warps ∧ t.groups = s.groups ∧ t.sched.posted = [] ∧
        t.sched.lq[q] = { lq with head := lq.head + 1 } ∧ t.launch? p.ident.toNat = some l' ∧ l'.status = 0 ∧ l'.kern = l.kern ∧ l'.codeVa = l.codeVa ∧
        l'.groups = l.groups ∧ l'.prio = l.prio ∧ l'.constPa = l.constPa ∧ l'.constSize = l.constSize ∧ l'.dataVa = l.dataVa ∧ l'.dataPa = l.dataPa ∧ l'.compl = l.compl) ∧
  (let s0 := s.spawnSamples
   (s0.choose = none → exec .groupDispatch s = .next s0) ∧
   ∀ key l i core, s0.choose = some (key, l, i, [core]) → l.kern.crew ≤ 1 → s0.groupAt key i = none →
    (∀ o, o ∈ s.ops → o.gid ≠ s.fresh) →
    ∃ t gid g, exec .groupDispatch s = .next t ∧ (∀ u, t.mem.of u = s.mem.of u) ∧ (∀ n, (t.coreOf n).vault = (s.coreOf n).vault) ∧ (∀ n, n ≠ gid → t.group? n = s.group? n) ∧
      (∀ wk w, s.warp? wk = some w → ∃ w', t.warp? wk = some w' ∧ w'.regs = w.regs ∧ w'.guards = w.guards ∧ w'.threads = w.threads ∧ w'.pend.map (·.id) = w.pend.map (·.id)) ∧
      ((∀ e, e ∈ (s.coreOf core).l1 → e.way < t.l1Ways core) → t.mem = s.mem ∧ ∀ wk w, s.warp? wk = some w → t.warp? wk = some w) ∧
      t.group? gid = some g ∧ g.launch = key ∧ g.index = i ∧ g.core = core ∧ g.mode = .resident ∧ g.warpsLeft = l.kern.warps ∧
      ∀ n, n < l.kern.warps → ∃ wk w, wkCore wk = core ∧ t.warp? wk = some w ∧ w.gid = gid ∧ w.widx = n ∧ w.quota = l.kern.quota ∧
        ∀ k : Fin 32, w.threads[k].st = .ready ∧ w.threads[k].pc = l.codeVa + BitVec.ofNat 64 l.kern.entry) ∧
  (∀ (lid : Word) (l : Launch), s.launch? lid.toNat = some l → s.runsOf lid.toNat = [lid.toNat] →
    (s.runOver lid.toNat l = false → exec (.launchEnd lid) s = .next s) ∧
    (l.status = 0 → l.cancelled = false → l.resumes = [] → s.runOver lid.toNat l = true → s.writesOut lid.toNat = true → s.steps.run = none →
      ∃ t, exec (.launchEnd lid) s = .next t ∧ t.launch? lid.toNat = none ∧ (∀ wk w, t.warp? wk = some w → ∀ g, s.group? w.gid = some g → g.launch ≠ lid.toNat) ∧
        ∀ pa, l.compl = 0 → s.resolve (l.recVa + 0x38) .write = .ok (.hbm, pa) → s.lineBad .hbm pa = none → t.mem.hbm.bytes pa 4 = bytesOfNat 4 1)) ∧
  ((s.going = [] → (∀ key l i, s.launch? key = some l → s.nextIndex key l = some i → (s.placeFor key l i).isSome = true) → exec .preemption s = .next s) ∧
   ∀ ls key l i gid g, s.going = [] → s.launches = ls ++ [(key, l)] → (∀ e, e ∈ ls → e.1 ≠ key ∧ ∀ q, s.launch? e.1 = some q → s.nextIndex e.1 q = none) →
    s.nextIndex key l = some i → s.placeFor key l i = none → (∀ n, n ∈ l.unitAt i → n ∉ s.savedIndices key) → 0 < l.lam → s.group? gid = some g →
    s.victimsFor key l i (fun _ _ v => decide (v.prio < l.prio)) = some [[gid]] → s.chooseMethod [gid] (some l.lam) = .drain →
    ∃ t, exec .preemption s = .next t ∧ t.mem = s.mem ∧ t.warps = s.warps ∧ t.group? gid = some { g with mode := .draining } ∧ ∀ n, n ≠ gid → t.group? n = s.group? n) ∧
  (s.ns < s.sched.lastAdjust + 100000 → exec .stageTargetAdjust s = .next s) ∧
  ∀ key l, s.sched.lastAdjust + 100000 ≤ s.ns → s.launches = [(key, l)] → l.kern.stage.isSome = true → l.status = 0 →
    let fi := s.fill l.inQueue
    let fo := s.fill l.outQueue
    let target := if 3 * fi.2 ≤ 4 * fi.1 ∧ 4 * fo.1 ≤ fo.2 then min (l.target + 1) l.groups
      else if 4 * fi.1 ≤ fi.2 ∨ 3 * fo.2 ≤ 4 * fo.1 then max (l.target - 1) 1 else l.target
    (l.target ≤ target ∨ (∀ e, e ∈ s.residentOf key → e.2.mode ≠ .resident) →
      ∃ t, exec .stageTargetAdjust s = .next t ∧ t.sched.lastAdjust = s.ns ∧ t.warps = s.warps ∧ t.mem = s.mem ∧ t.launch? key = some { l with target := target }) ∧
    ∀ gid g, target < l.target → (gid, g) ∈ s.residentOf key → s.group? gid = some g → g.mode = .resident →
      (∀ e, e ∈ s.residentOf key → e.2.mode = .resident → e = (gid, g) ∨ e.2.index < g.index) → s.presentUnit gid = [gid] → s.chooseMethod [gid] none = .drain →
      ∃ t, exec .stageTargetAdjust s = .next t ∧ t.sched.lastAdjust = s.ns ∧ t.warps = s.warps ∧ t.mem = s.mem ∧ t.launch? key = some { l with target := target } ∧
        t.group? gid = some { g with mode := .draining } ∧ ∀ n, n ≠ gid → t.group? n = s.group? n

/-- R317, R321, R384, R386, R388, R389, R395, R467: a commit begins once a stepping launch has arrived and not before; phase 3 performs the staged
records in stream order, each once, unless the page pool has no raw storage left for one; a group of which it has performed a record is flushable no
longer, and the performance counts as a release. Phase 5 updates every allocated descriptor, and marks a page with ORD = 1 for which it plans an action;
phase 7 raises STEP_NUM and lets the arrived threads go on, with the number of the commit in the register that the step names, where it names one. A
launch takes a peer's digest once, and RESUME commits what is held. That a commit takes a step for each of its parts is the model's choice
(log entry 17). -/
def Obligations.CommitSteps : Prop := ∀ (s : State), s.firm.running = true →
  (s.steps.run = none →
    ((∀ e, e ∈ s.launches → s.isArrived e.1 = false ∧ s.isEnded e.1 = false) → exec .commit s = .next s) ∧
    ∀ lid l, s.launches = [(lid, l)] → lid < 2 ^ 64 → l.barred = false → s.isArrived lid = true → ∃ t, exec .commit s = .next t ∧ t.warps = s.warps ∧
      t.steps = { s.steps with run := some { n := s.steps.stepNum.toNat + 1, phase := 1, parts := [lid], checked := [], sampled := [], doneAt := 0 } }) ∧
  (∀ (r : CommitRun), s.steps.run = some r →
    (r.phase = 3 → ∀ lid gid x, s.nextRecord r = some (lid, gid, x) →
      (s.recordClear r lid gid x = false → exec .commit s = .next s) ∧
      (s.recordClear r lid gid x = true → s.pages.poolBack < (s.performRecord lid gid x).poolCharge → s.poolCharge < (s.performRecord lid gid x).poolCharge →
        exec .commit s = .next s) ∧
      ∀ a g, let q := x.request gid s.fresh
        s.recordClear r lid gid x = true → q.accs = [a] → s.refusal q = none → (s.performRecord lid gid x).poolCharge ≤ s.pages.poolBack → s.lineBad x.tgt a.pa = none →
        s.group? gid = some g → g.launch % 2 ^ 64 = lid → g.copy < 4 →
        ∃ t g', exec .commit s = .next t ∧ (∀ u, u ≠ x.tgt → t.mem.of u = s.mem.of u) ∧
          t.mem.of x.tgt = (match (q.newBytes a (s.rawBytes x.tgt a.pa a.n)).1 with | some bs => (s.mem.of x.tgt).setBytes a.pa bs | none => s.mem.of x.tgt) ∧
          t.group? gid = some g' ∧ g'.staged = g.staged.eraseP (fun y => x.same y) ∧ g'.released = true ∧
          (∀ l, t.launch? lid = some l → l.lastRelease = s.ns) ∧ ∃ r', t.steps.run = some r' ∧ r'.phase = 3) ∧
    (r.phase = 5 → ∃ t, exec .commit s = .next t ∧ (s.mem.failed = [] → BytesKept s t) ∧ t.warps = s.warps ∧ t.steps.run = some { r with phase := 7 } ∧
      t.pages.thrNow = s.pages.thr ∧ t.pages.ctlNow = s.pages.ctl ∧
      ∀ n, let d := s.desc n
        let aged := if d.tier = 3 then d else { d with mass := min 0xFFFF (d.mass - d.mass / 8 + d.dep), dep := 0, age := min 0xFFFF (d.age + 1) }
        t.desc n = aged ∨ d.ord = true ∧ t.desc n = { aged with transit := true } ∧ ∃ e, e ∈ t.pages.plan ∧ e.lpn = n ∧ e.ver = d.ver ∧ e.valid = d.valid) ∧
    (r.phase = 7 → (∃ e, e ∈ s.launches ∧ keepsImage e = true ∧ s.imageReady e.1 = false) → exec .commit s = .next s) ∧
    (r.phase = 7 → (∀ e, e ∈ s.launches → keepsImage e = true → s.imageReady e.1 = true) → ∀ lid l, s.launches = [(lid, l)] → lid < 2 ^ 64 → r.parts = [lid] → l.dual = false →
      (∀ e, e ∈ s.warps → ∀ k : Fin 32, e.2.threads[k].lateRec = none ∧ ∀ n d, e.2.threads[k].waits ≠ some (.step true n d)) →
      (∀ e, e ∈ s.groups → e.2.savedWarps = []) →
      ∃ t, exec .commit s = .next t ∧ t.steps.stepNum = s.steps.stepNum + 1 ∧ t.steps.run = none ∧ t.mem = s.mem ∧
        ∀ wk w g, s.warp? wk = some w → s.group? w.gid = some g → g.launch = lid → ∃ w', t.warp? wk = some w' ∧ w'.guards = w.guards ∧
          (∀ (k : Fin 32) (n : Nat) (dst : Option (BitVec 6)) (next : Word), w.threads[k].st = .waiting (.step false n dst) next →
            w'.threads[k].st = .ready ∧ w'.threads[k].pc = next ∧
            ∀ d : BitVec 6, w'.regs[d.toFin].get k = if dst = some d then BitVec.ofNat 64 r.n else w.regs[d.toFin].get k) ∧
          ∀ k : Fin 32, (∀ n d, w.threads[k].waits ≠ some (.step false n d)) → w'.threads[k] = w.threads[k] ∧ ∀ d : BitVec 6, w'.regs[d.toFin].get k = w.regs[d.toFin].get k)) ∧
  (∀ (lid : Word) (l : Launch) (digest : BitVec 128), s.steps.peerEn = true → s.launch? lid.toNat = some l →
    ∃ t, exec (.peerDigestExchange lid digest) s = .next t ∧ t.launch? lid.toNat = some { l with peerDigest := if l.peerDigest.isNone then some digest else l.peerDigest } ∧
      ∀ k, k ≠ lid.toNat → t.launch? k = s.launch? k) ∧
  ∀ (r : CommitRun) (lid : Nat) (l : Launch), s.steps.held = true → s.steps.run = some r → s.launches = [(lid, l)] → l.held = true →
    ∃ t, exec .replResume s = .next t ∧ t.steps.held = false ∧ t.mem = s.mem ∧ t.launch? lid = some { l with held := false, peerDigest := some (s.digestOf r lid) }

/-! ### The device and its host (spec 01, 19) -/

/-- R8, R432, R434, R435, R436, R440, R466: a reset leaves no launch, no group and no warp, and HBM, the LP tier and flash as they were, but for stores that
only the home cache held: there what stood in memory before them. A failed boot check is an alarm of level 1, and nothing runs; a reset that an
alarm or a trip makes checks the image of the boot flash too. Each power limit lowers the clock a step, every other limit holds it at 350 MHz, and it
rises again when they clear, as far as firmware lets it. Alarms do what their levels say. A mailbox command that MB_CMD holds acts, ends and gives its status
and result; any other does nothing. An attestation takes its index in one step and delivers in another; DMA writes what the host grants
and discards the rest. That a trip empties HBM, what status a command gives that the tables do not name, and the places of those two steps are the model's choice (log
entries 4, 18, 77 and 120). -/
def Obligations.DeviceSteps : Prop := ∀ (s : State),
  let f := s.firm
  let under := fun (u : Target) (after : Memory) => ∀ b, b < 2 ^ 64 → after.byte b = match (Sparse.find s.mem.lines (lineKey u b)).bind (·.below) with
    | some (bs, _) => bs.getD (b % 128) 0
    | none => (s.mem.of u).byte b
  let cleared := fun (t : State) => t.warps = [] ∧ t.groups = [] ∧ t.launches = [] ∧ t.cores = [] ∧ t.mem.reqs = [] ∧ t.mem.lines = [] ∧ t.ns = 0 ∧ under .lp t.mem.lp ∧
    t.mem.host = s.mem.host ∧ t.pages.flash = s.pages.flash
  let entry := fun (log : List AlarmRec) (time level source : Nat) => (log ++ [({ time := time, level := level, source := source } : AlarmRec)]).drop (log.length + 1 - 256)
  let accepted := Config.bootAccepted f.fuse
  let booted := fun (t : State) (log : List AlarmRec) => t.firm.running = accepted ∧ t.firm.image = 0 ∧ t.firm.log = if accepted then log else entry log 0 1 1
  (∀ good, ∃ t, exec (.deviceReset good) s = .next t ∧ cleared t ∧ under .hbm t.mem.hbm ∧ t.pages.descs = s.pages.descs ∧ t.firm.running = good ∧ t.firm.image = 0 ∧
    t.firm.log = if good then f.log else entry f.log 0 1 1) ∧
  (∃ t, exec .thermalTrip s = .next t ∧ cleared t ∧ t.mem.hbm = [] ∧ booted t f.log) ∧
  (let steps := fun (i : Instr) (p : Clock → Prop) => ∃ t, exec i s = .next t ∧ t = { s with clock := t.clock } ∧ t.clock.ticks = s.clock.ticks ∧ t.clock.cycles = s.clock.cycles ∧ p t.clock
   ((∀ l, l ∈ s.clock.limits → l = ClockLimit.power) → s.clock.limits.length < 3 → steps .breakwaterPowerLimit fun c => c.step = min 3 (max f.stepFloor (s.clock.limits.length + 1))) ∧
   (∀ i l, (i, l) ∈ [(Instr.railCurrentLimit, ClockLimit.current), (.thermalThrottle, .thermal), (.coolantFlowLow, .coolant)] → l ∉ s.clock.limits →
     steps i fun c => c.step = 3 ∧ l ∈ c.limits) ∧
   (∀ l, (∀ k, k ∈ s.clock.limits → k = l) → steps (.clockLimitClears l) fun c => c.step = min 3 f.stepFloor ∧ c.limits = [])) ∧
  (let only := fun (i : Instr) (level source : Nat) => ∃ t, exec i s = .next t ∧ t = { s with firm := t.firm } ∧ t.firm.log = entry f.log s.ns level source ∧ t.firm.erased = f.erased
   let resets := fun (i : Instr) (source : Nat) (erases : Bool) => ∃ t, exec i s = .next t ∧ cleared t ∧ under .hbm t.mem.hbm ∧
     booted t (entry f.log s.ns (if erases then 3 else 2) source) ∧ t.firm.erased = (f.erased || erases)
   only (.portcullisAlarm 1) 1 1 ∧ resets (.portcullisAlarm 3) 3 false ∧ resets (.portcullisAlarm 4) 4 true ∧ resets (.portcullisAlarm 5) 5 true ∧
   resets (.portcullisAlarm 6) 6 true ∧ (f.unlocks < 2 → only .debugUnlockAttempt 1 2 ∧ only (.portcullisAlarm 2) 1 2) ∧ (f.unlocks = 2 → resets .debugUnlockAttempt 2 true)) ∧
  (let ends := fun (i : Instr) (status result : Nat) (p : State → Prop) =>
     ∃ t, exec i s = .next t ∧ t.firm.cmd = 0 ∧ t.firm.status = BitVec.ofNat 64 (status + result * 2 ^ 32) ∧ p t
   let arg := fun (n : Fin 8) => f.args[n]
   let delivered := fun (t : State) (pa : Nat) (bs : List Byte) => t.mem.hbm = s.mem.hbm ∧
     ∀ b, t.mem.host.byte b = if pa ≤ b ∧ b < pa + bs.length ∧ Config.dmaGranted b = true then bs.getD (b - pa) 0 else s.mem.host.byte b
   (f.cmd = 1 → f.signing = false → (f.erased = true ∨ 2 ^ 16 ≤ f.index → ends .attest 1 0 fun t => t.mem = s.mem ∧ t.firm.index = f.index) ∧
     (f.erased = false → f.index < 2 ^ 16 → exec .attest s = .next { s with firm := { f with index := f.index + 1, signing := true } })) ∧
   (f.cmd = 1 → f.signing = true → ∃ report : List Byte, report.length = 2812 ∧ (∀ n : Fin 4, part report (8 * n.val) 8 = bytesOfNat 8 (arg (n.castLE (by decide))).toNat) ∧
     (∀ img, f.code = some img → part report 0x40 32 = ((shake256 img).take 4).flatMap fun w => bytesOfNat 8 w.toNat) ∧
     part report 0x60 24 = bytesOfNat 8 Config.caps.toNat ++ bytesOfNat 8 f.fuse ++ bytesOfNat 8 f.index ∧
     ends .attest 0 2812 fun t => t.firm.index = f.index ∧ t.firm.signing = false ∧ delivered t (arg 4).toNat report) ∧
   (f.cmd = 2 → (arg 1).toNat ≠ 0 → (arg 1).toNat ≤ 2 ^ 28 →
     ((∀ k, k < (arg 1).toNat → Config.dmaGranted ((arg 0).toNat + k) = true) → ends .stageFirmwareImage 0 0 fun t => t.mem = s.mem ∧
       t.firm.staged = some (s.mem.host.bytes (arg 0).toNat (arg 1).toNat)) ∧
     ((∃ k, k < (arg 1).toNat ∧ Config.dmaGranted ((arg 0).toNat + k) = false) → ends .stageFirmwareImage 3 0 fun t => t.mem = s.mem ∧ t.firm.staged = f.staged)) ∧
   (f.cmd = 3 → ∀ img, f.staged = some img → (min 4 f.resetCap ≤ s.recentResets.length → ends .activateFirmwareImage 1 0 fun t => t.warps = s.warps ∧ t.firm.image = f.image) ∧
     (s.recentResets.length < min 4 f.resetCap →
       (Config.imageAccepted img f.fuse = true → ends .activateFirmwareImage 0 0 fun t => cleared t ∧ under .hbm t.mem.hbm ∧ t.firm.running = true ∧ t.firm.image = f.count ∧
         t.firm.code = some img ∧ f.fuse ≤ t.firm.fuse ∧ t.firm.fuse ≤ max f.fuse 64) ∧
       (Config.imageAccepted img f.fuse = false → ends .activateFirmwareImage 3 0 fun t => cleared t ∧ t.firm.running = false ∧ t.firm.fuse = f.fuse))) ∧
   (f.cmd = 4 → ends .readPortcullisLog 0 f.log.length fun t => t.firm.log = f.log ∧ delivered t (arg 0).toNat (f.log.flatMap AlarmRec.bytes)) ∧
   (f.cmd = 5 → (s.launch? (arg 0).toNat = none → ends .clearHaltedLaunch 2 0 fun t => t.warps = s.warps) ∧
     ∀ l, s.launch? (arg 0).toNat = some l → l.status = 3 → s.mem.reqs = [] →
       (s.timePasses (s.runsDone (arg 0).toNat) = true → ends .clearHaltedLaunch 0 0 fun t => t.launch? (arg 0).toNat = none) ∧
       (s.timePasses (s.runsDone (arg 0).toNat) = false → ∃ t, exec .clearHaltedLaunch s = .next t ∧ t.firm = f ∧ (t.launch? (arg 0).toNat).isSome = true ∧
         ∀ n g, s.group? n = some g → g.launch % 2 ^ 64 = (arg 0).toNat → ∃ h, t.group? n = some h ∧ h.staged = [])) ∧
   (f.cmd = 6 → ends .provisionIdentityKey 0 0 fun t => t.mem = s.mem ∧ t.warps = s.warps ∧ t.firm.erased = false ∧ t.firm.index = 0) ∧
   (6 < f.cmd → ends .mailboxUnassignedCommand 2 0 fun t => t.mem = s.mem ∧ t.warps = s.warps) ∧
   ∀ n i, (n, i) ∈ [(1, Instr.attest), (2, .stageFirmwareImage), (3, .activateFirmwareImage), (4, .readPortcullisLog), (5, .clearHaltedLaunch), (6, .provisionIdentityKey)] →
     f.cmd ≠ n → exec i s = .next s)

/-- R312, R318, R356, R395, R416, R420, R424, R425, R427, R430, R435: what the host writes to a register of the management window it reads back, in the writable bits; a
bit that clears when one is written clears, a read-only register and an unassigned offset stay, and with no firmware running nothing but the
mailbox takes a write. The apertures, the trace unit and the translations do what their registers say. -/
def Obligations.ManagementWindowSteps : Prop := ∀ (s : State) (v : Word), s.firm.running = true →
  let writes := fun (off : Nat) (p : State → Prop) => ∃ t, exec (.managementRegisterWrite off v) s = .next t ∧ BytesKept s t ∧ t.warps = s.warps ∧ p t
  let reads := fun (off : Nat) (w : Word) => writes off fun t => t.readWindow off = w
  reads 0x011000 v ∧ reads 0x011008 (v &&& 0x1FFFFFFFF#64) ∧ reads 0x011010 (v &&& 0xFFFF#64) ∧ reads 0x012008 v ∧ reads 0x018000 (v &&& 0x7F3F#64) ∧
  reads 0x100000 v ∧ reads 0x013018 v ∧
  (∀ q : Fin 64, s.sched.lq[q].en = false → reads (0x010000 + 32 * q.val) (v &&& ~~~ 0xFFF#64)) ∧
  (∀ q : Fin 64, s.sched.lq[q].en = true → reads (0x010000 + 32 * q.val) s.sched.lq[q].base) ∧
  (∀ l : Fin 8, reads (0x016008 + 32 * l.val) (v &&& ~~~ 0x3FFFFFFF#64) ∧ reads (0x016010 + 32 * l.val) (v &&& ~~~ 0x3FFFFFFF#64) ∧
    let k := s.links[l]
    reads (0x016000 + 32 * l.val) (BitVec.ofNat 64 ((v.getLsbD 0).toNat + k.up.toNat * 2 + (k.err && !(v.getLsbD 2)).toNat * 4
      + min (min 200 s.firm.rateCap) (max 1 (v.toNat / 2 ^ 32 % 2 ^ 16)) * 2 ^ 32))) ∧
  reads 0x012018 (s.steps.stat &&& ~~~ v) ∧ reads 0x012020 (s.steps.fence0 &&& ~~~ v) ∧ reads 0x012028 (s.steps.fence1 &&& ~~~ v) ∧
  exec (.managementRegisterWrite 0x012010 v) s = .next s ∧ exec (.managementRegisterWrite 0x000000 v) s = .next s ∧ exec (.managementRegisterWrite 0x019000 v) s = .next s ∧
  reads 0x017010 v ∧ (s.firm.cmd = 0 → writes 0x017000 fun t => t.firm.cmd = v.toNat % 2 ^ 8) ∧ (s.firm.cmd ≠ 0 → exec (.managementRegisterWrite 0x017000 v) s = .next s) ∧
  (∀ off, off < 0x017000 ∨ 0x017050 ≤ off →
    let off0 := { s with firm := { s.firm with running := false } }
    exec (.managementRegisterWrite off v) off0 = .next off0) ∧
  (let lpn := s.firm.ptIdx.toNat
   (lpn < s.pages.count → ∃ t, exec (.descriptorApertureWrite 1 v) s = .next t ∧ t.mem = s.mem ∧ t.warps = s.warps ∧
     t.desc lpn = { s.desc lpn with mass := v.toNat / 2 ^ 24 % 2 ^ 16 } ∧ ∀ n, n ≠ lpn → t.desc n = s.desc n) ∧
   ∀ word, word ≠ 1 → exec (.descriptorApertureWrite word v) s = .next s) ∧
  (∃ t, exec (.trcCtlWrite v) s = .next t ∧ t = { s with trace := t.trace } ∧ t.trace.wrap = v.getLsbD 2 ∧ t.trace.flt = v.getLsbD 1 ∧ t.trace.en = v.getLsbD 0 ∧
    (s.trace.en = false → v.getLsbD 0 = true → t.trace.page = 0 ∧ t.trace.slot = 0 ∧ t.trace.npg = v.toNat / 2 ^ 8 % 2 ^ 8) ∧
    (s.trace.en = true → v.getLsbD 0 = true → t.trace.page = s.trace.page ∧ t.trace.slot = s.trace.slot ∧ t.trace.npg = s.trace.npg)) ∧
  ∃ t, exec .ttInv s = .next t ∧ t = { s with mem := t.mem, trace := t.trace } ∧ ∀ e, e ∈ t.mem.tlb ↔ e ∈ s.mem.tlb ∧ e.fixed = true

/-- R253, R420, R421, R426, R430, R431: accesses of the host and of peers to device memory: a store changes its bytes and no other, an RMW gives its location the new
value, a load changes none, brings its line into the home cache, and is answered once device time has passed the release time that it met (R253), and an
access outside the memory or outside the inbound window has no effect. A link that goes down leaves no
request on it. The trace unit writes its oldest record at its place and moves on. None of them changes a warp or a group, but for a link that takes
requests down with it. The effects are stated where no line fails its check, no write from outside
waits, and the HBM image pool is not written. -/
def Obligations.HostAndPeerSteps : Prop :=
  (∀ (s : State),
    let keeps := fun (i : Instr) => ∃ t, exec i s = .next t ∧ t.warps = s.warps ∧ t.groups = s.groups
    (∀ lp pa n, keeps (.hostCxlRead lp pa n)) ∧ (∀ lp pa bs, keeps (.hostCxlWrite lp pa bs)) ∧ (∀ l a, keeps (.peerInboundAccess l a)) ∧
    (∀ l, (∀ q, q ∈ s.mem.reqs → q.tgt ≠ .peer (l % 8)) → keeps (.peerLinkDown l)) ∧ (∀ l, keeps (.peerLinkTrained l)) ∧ keeps .traceRecordWrite) ∧
  ∀ (s : State), s.firm.running = true → s.mem.failed = [] → (∀ q, q ∈ s.mem.reqs → q.gid ≠ outsideGid) →
  let mine := fun (t : State) (lp : Bool) => (∀ u, u ≠ tierOf lp → t.mem.of u = s.mem.of u) ∧ t.warps = s.warps ∧ t.groups = s.groups
  let clear := fun (lp : Bool) (pa n : Nat) => lp = true ∨ pa + n ≤ s.pages.poolBase ∨ s.pages.poolBase + s.pages.poolSize ≤ pa
  let answers := fun (i : Instr) (lp : Bool) (pa n : Nat) => ∃ t, exec i s = .next t ∧ BytesKept s t ∧ t.warps = s.warps ∧
    (0 < n → pa % 128 + n ≤ 128 → (Sparse.find t.mem.lines (lineKey (tierOf lp) pa)).isSome = true ∧
      if s.timePasses (t.relAt (tierOf lp) pa n) then t.mem.reqs = s.mem.reqs
      else ∃ q, t.mem.reqs = s.mem.reqs ++ [q] ∧ q.gid = outsideGid ∧ q.kind = .load .zx ∧ q.stage = .performed s.ns s.ns [] [t.relAt (tierOf lp) pa n] 0)
  (∀ lp pa n, (pa + n ≤ capOf lp → answers (.hostCxlRead lp pa n) lp pa n) ∧ (capOf lp < pa + n → exec (.hostCxlRead lp pa n) s = .next s)) ∧
  (∀ lp pa bs, (pa + bs.length ≤ capOf lp → clear lp pa bs.length → ∃ t, exec (.hostCxlWrite lp pa bs) s = .next t ∧ mine t lp ∧
      t.mem.of (tierOf lp) = (s.mem.of (tierOf lp)).setBytes pa bs) ∧
    (capOf lp < pa + bs.length → exec (.hostCxlWrite lp pa bs) s = .next s)) ∧
  (∀ (l : Fin 8) (lp : Bool) (pa : Nat),
    let k := s.links[l]
    let inside := fun (n : Nat) => k.en = true ∧ k.up = true ∧ k.base * 2 ^ 30 ≤ pa ∧ pa + n ≤ (k.base + k.size) * 2 ^ 30 ∧ pa + n ≤ capOf lp
    (∀ n, (inside n → answers (.peerInboundAccess l.val (.load lp pa n)) lp pa n) ∧ (¬ inside n → exec (.peerInboundAccess l.val (.load lp pa n)) s = .next s)) ∧
    (∀ bs rel, (inside bs.length → clear lp pa bs.length → ∃ t, exec (.peerInboundAccess l.val (.store lp pa bs rel)) s = .next t ∧ mine t lp ∧
        t.mem.of (tierOf lp) = (s.mem.of (tierOf lp)).setBytes pa bs) ∧
      (¬ inside bs.length → exec (.peerInboundAccess l.val (.store lp pa bs rel)) s = .next s)) ∧
    (∀ n op flt sgn b, ¬ inside n → exec (.peerInboundAccess l.val (.atom lp pa n op flt sgn b)) s = .next s) ∧
    (∀ n new old, ¬ inside n → exec (.peerInboundAccess l.val (.cas lp pa n new old)) s = .next s) ∧
    (∀ n op flt sgn b, inside n → clear lp pa n → ∃ t, exec (.peerInboundAccess l.val (.atom lp pa n op flt sgn b)) s = .next t ∧ mine t lp ∧
      t.mem.of (tierOf lp) = (s.mem.of (tierOf lp)).setBytes pa (bytesOfNat n (atomNew op n flt sgn (natOfBytes (s.rawBytes (tierOf lp) pa n)) b.toNat).1)) ∧
    ∀ n new old, inside n → clear lp pa n → ∃ t, exec (.peerInboundAccess l.val (.cas lp pa n new old)) s = .next t ∧ mine t lp ∧
      t.mem.of (tierOf lp) = if natOfBytes (s.rawBytes (tierOf lp) pa n) = old.toNat % 2 ^ (8 * n)
        then (s.mem.of (tierOf lp)).setBytes pa (bytesOfNat n (new.toNat % 2 ^ (8 * n))) else s.mem.of (tierOf lp)) ∧
  (∀ l : Fin 8, (∃ t, exec (.peerLinkDown l.val) s = .next t ∧ BytesKept s t ∧ t.links[l].up = false ∧
      (∀ r, r ∈ t.mem.reqs ↔ r ∈ s.mem.reqs ∧ ∀ q, q ∈ s.mem.reqs → q.space = 0 → q.tgt = .peer l.val → r.id ≠ q.id) ∧
      ((∃ q, q ∈ s.mem.reqs ∧ q.space = 0 ∧ q.tgt = .peer l.val) → t.links[l].err = true)) ∧
    ∃ t, exec (.peerLinkTrained l.val) s = .next t ∧ t = { s with links := t.links } ∧ t.links[l] = { s.links[l] with up := true }) ∧
  ∀ r rs tg pa, s.trace.en = true → s.trace.queue = r :: rs → s.trace.gap = none → s.trace.cur = some (tg, pa) → s.trace.slot < 2047 →
    ∃ t, exec .traceRecordWrite s = .next t ∧ t.warps = s.warps ∧ t.mem.of tg = (s.mem.of tg).setBytes (pa + 32 * s.trace.slot) r.bytes ∧
      (∀ u, u ≠ tg → t.mem.of u = s.mem.of u) ∧ t.trace = { s.trace with queue := rs, slot := s.trace.slot + 1 }

/-! ### Encodings, steps, reset and the canonical memory (spec 02, 01) -/

/-- R26 to R40, R47: for every instruction word of every family, decoding what the encoder lays out gives the instruction back with every operand, and
leaves the bytes that follow; and words that decode are the words of a well-formed instruction, so each has one meaning. -/
def Obligations.DecodingInvertsEncoding : Prop :=
  (∀ (i : Instr) (rest : List Byte), i.coded = true → i.wf = true → decodeBytes true (encodeBytes i ++ rest) = .ok (i, rest)) ∧
  ∀ (privileged : Bool) (w0 w1 w2 w3 w4 : Half) (i : Instr), decodeWords privileged w0 w1 w2 w3 w4 = .ok i →
    i.coded = true ∧ i.wf = true ∧ encode i = [w0, w1, w2, w3, w4].take ((lenOf w0).bytes / 4)

/-- R27 to R47, and the printed encodings of spec 02 to 18: words that the manual prints decode to what they stand for. An opcode that no class table lists,
a reserved bit of word 0 that is set, and an instruction that needs privileged mode outside it are no instructions. -/
def Obligations.PrintedWordsDecode : Prop :=
  let z : Ext := { len := .w64, ge := false, gn := false, gp := 0, s := false, a := 0, d := 0, mod := 0, lsel := 0, sat := false, z := false, rm := 0, ty := 0
                   c := 0, b := 0, l32 := 0, l64 := 0 }
  let reads := fun (w0 w1 w2 : Half) (i : Instr) => decodeWords true w0 w1 w2 0 0 = .ok i
  reads 0x0810E400 0 0 (.ffmaF64Compact { ge := false, gn := false, gp := 0, s := false, b := 2, a := 1, d := 3 }) ∧
  reads 0x0111063D 0x000090C2 0 (.ffma { z with ge := true, gp := 3, s := true, d := 4, a := 1, b := 2, c := 3, ty := 9 }) ∧
  reads 0x06148002 0x00201000 0x00001234 (.iadd { z with len := .w96, d := 5, a := 6, ty := 1, lsel := 1, l32 := 0x1234 }) ∧
  reads 0x010D8429 0x05805002 0 (.vsel { z with ge := true, gp := 2, d := 3, a := 1, b := 2, ty := 5, mod := 0x00B }) ∧
  reads 0x02188E01 0x00004003 0 (.idiv { z with d := 6, a := 2, b := 3, ty := 4 }) ∧
  reads 0x01089E02 0x01202000 0 (.icmp { z with len := .w96, d := 2, a := 1, ty := 2, lsel := 1, mod := 2 }) ∧
  reads 0x01090A01 0x00009000 0 (.fsqrt { z with d := 2, a := 1, ty := 9 }) ∧
  reads 0x02195001 0x04834000 0 (.cvt { z with d := 6, a := 2, ty := 4, rm := 3, mod := 9 }) ∧
  reads 0x0109C801 0x04009000 0 (.vred { z with d := 2, a := 1, ty := 9, mod := 8 }) ∧
  reads 0x02060002 0x00600000 0x40 (.ld { z with len := .w96, d := 1, a := 2, lsel := 3, l32 := 0x40 }) ∧
  reads 0x02164001 0x14001003 0 (.atom { z with d := 5, a := 2, b := 3, ty := 1, mod := 0x28 }) ∧
  reads 0x06068002 0x00000400 0xA (.mma { z with len := .w96, d := 1, a := 6, c := 16, l32 := 0xA }) ∧
  reads 0x0406CA01 0x04000000 0 (.tconv { z with d := 1, a := 4, mod := 8 }) ∧
  reads 0x02170E01 0x00800000 0 (.pginfo { z with d := 5, a := 2, mod := 1 }) ∧
  reads 0x04074201 0x00800000 0 (.atts { z with d := 1, a := 4, mod := 1 }) ∧
  reads 0x08144201 0x00000002 0 (.callg { z with d := 5, a := 8, b := 2 }) ∧
  reads 0x00038006 0 7 (.trap { z with len := .w96, s := true, l32 := 7 }) ∧
  reads 0x00278401 0x07800000 0 (.movsRead { z with d := 9, mod := 0xF }) ∧
  (∀ (p : Bool) (w0 w1 w2 w3 w4 : Half), lenOf w0 ≠ .w32 → opRow (opcOf w0) = none ∨ Half.field w0 30 2 ≠ 0 → decodeWords p w0 w1 w2 w3 w4 = .error .illegal) ∧
  decodeWords false 0x00038205 0 0 0 0 = .error .privilege ∧ decodeWords false 0x00038601 0x22800002 0 0 0 = .error .privilege

/-- R26, R28, R43, R47 to R49, R97, R98, R400: where the turn is a warp's to issue, its next set stands at an instruction, and the words there decode, the step
is `exec` of that instruction for that thread set, and then the pick is over, the bay's pointer moves and a cycle passes. Where `exec` shows
that a resource held the instruction, nothing of it is done, and the set keeps its place as the next (R98). An instruction
with a marker waits for outstanding results, its set keeping its place, and stops its set where the warp is to stop; what threads that wait at
a waitv are owed does not keep it from stopping. A timer is disarmed where the warp has stopped for a save (R404). Words that are no instruction
park the set with the cause of R47, and a fetch that faults parks it with the fetch's. Bytes that an encoder laid out at the program counter, in
executable memory with no store still to complete, are fetched as its words. The order of turns is the model's choice (log entries 1 and 2). -/
def Obligations.StepRunsTheDecodedInstruction : Prop := ∀ (s : State) (rest : List Turn) (core slot : Nat) (w : Warp) (pc : Word) (set : Mask),
  slot < 64 → s.turns = .issue core slot :: rest → s.warp? (core * 64 + slot) = some w → w.upNext = some (pc, set) →
  let wk := core * 64 + slot
  let s1 := { s with turns := rest }
  let iss : Issue := { core := core, slot := slot, set := set, pc := pc }
  let halted := match s1.launchOf w with | some l => l.status == 3 | none => false
  let after := fun (s2 t : State) => if issuedBy wk s2 t then afterIssue core slot t else afterPick (s1.heldBack core slot)
  let reads := fun (ws : List Half) => decodeWords ((Mask.lanes set).all fun k => w.threads[k].privl) (ws.getD 0 0) (ws.getD 1 0) (ws.getD 2 0) (ws.getD 3 0) (ws.getD 4 0)
  (∀ ws i, s1.fetch pc = .ok ws → reads ws = .ok i →
    (Instr.marked i = false → let s2 := { (s1.useTlb pc).noteFetch pc ws.length with issue := some iss }
      s2.warp? wk = some w ∧ (∀ x, ∃ c, standing x s2 = some c ∧ c.wk = wk ∧ c.set = set ∧ c.pc = pc ∧ c.next = pc + BitVec.ofNat 64 x.len.bytes ∧
        c.act = activeMask (w.noteIssue set) set x.ge x.gn x.gp) ∧
      ∀ t, exec i s2 = .next t → step s = .next (after s2 t)) ∧
    (Instr.marked i = true → w.pend ≠ [] → ((∃ p, p ∈ w.pend ∧ p.watch = false) ∨ w.mustStop s1.ns halted = false) →
      step s = .next (afterPick ((s1.useTlb pc).holdSet wk pc true))) ∧
    (Instr.marked i = true → w.pend = [] → w.mustStop s1.ns halted = false → let s2 := { ((s1.useTlb pc).noteFetch pc ws.length).passSafe wk set pc with issue := some iss }
      ∀ t, exec i s2 = .next t → step s = .next (after s2 t)) ∧
    (Instr.marked i = true → (∀ p, p ∈ w.pend → p.watch = true) → w.mustStop s1.ns halted = true →
      ∃ t m, step s = .next t ∧ (s.mem.failed = [] → BytesKept s t) ∧ t.warp? wk = some { w with stopped := w.stopped ||| set, latch := none, tmr := m } ∧
        (m = w.tmr ∨ m = 0))) ∧
  (∀ ws f, s1.fetch pc = .ok ws → reads ws = .error f → ∃ t w', step s = .next t ∧ (s.mem.failed = [] → BytesKept s t) ∧ t.warp? wk = some w' ∧ w'.regs = w.regs ∧
    w'.guards = w.guards ∧ ∀ k : Fin 32, if set.getLsbD k then w'.threads[k].parkedWith f.cause pc else w'.threads[k] = w.threads[k]) ∧
  (∀ cause a, s1.fetch pc = .error (cause, a) → ∃ t w', step s = .next t ∧ (s.mem.failed = [] → BytesKept s t) ∧ t.warp? wk = some w' ∧ w'.regs = w.regs ∧
    w'.guards = w.guards ∧ ∀ k : Fin 32, if set.getLsbD k then w'.threads[k].parkedWith cause a else w'.threads[k] = w.threads[k]) ∧
  (∀ t : State, let u := afterIssue core slot t
    u.issue = none ∧ u.groups = t.groups ∧ u.mem = t.mem ∧ u.pages = t.pages ∧ u.clock.ticks = t.clock.ticks + acTicks t.clock.step ∧
    ∀ k v, t.warp? k = some v → ∃ m, u.warp? k = some { v with tmr := m } ∧ (m = v.tmr ∨ m = 0)) ∧
  ∀ (i : Instr) (tg : Target) (pa : Nat), i.coded = true → i.wf = true → pc.toNat % 4 = 0 → s1.mem.young = [] → (s1.mem.of tg).bytes pa (encodeBytes i).length = encodeBytes i →
    (∀ k, 4 * k < (encodeBytes i).length → s1.resolve (pc + BitVec.ofNat 64 (4 * k)) .exec = .ok (tg, pa + 4 * k) ∧ s1.lineBad tg (pa + 4 * k) = none ∧
      s1.peerFault tg (pa + 4 * k) = none) →
    s1.fetch pc = .ok (encode i)

/-- R318, R356, R362, R395, R420, R424, R427, R430: after reset no launch is known and no warp is placed, device time is 0, and the registers of the management
window hold the values of their tables. Memory reads as zero: that, and its canonical form, is the model's choice (log entry 4). -/
def Obligations.ResetState : Prop :=
  let s := State.reset
  s.warps = [] ∧ s.groups = [] ∧ s.launches = [] ∧ s.ns = 0 ∧ s.mem.reqs = [] ∧ MemoryCanonical s ∧ RingsBalanced s ∧ (∀ t a, (s.mem.of t).byte a = 0) ∧
  s.readWindow 0x000000 = Config.caps ∧ s.readWindow 0x011000 = 0x0004001000400100 ∧ s.readWindow 0x011008 = 0x0000000104080040 ∧ s.readWindow 0x011010 = 0x555A ∧
  s.readWindow 0x012000 = 2 ∧ s.readWindow 0x012010 = 0 ∧ s.readWindow 0x013000 = 0 ∧ s.readWindow 0x015000 = 12 ∧
  (∀ q : Fin 64, s.readWindow (0x010000 + 32 * q.val) = 0 ∧ s.readWindow (0x010008 + 32 * q.val) = 4 ∧ s.readWindow (0x010010 + 32 * q.val) = 0) ∧
  (∀ l : Fin 8, s.readWindow (0x016000 + 32 * l.val) = 0x000000C800000000 ∧ s.readWindow (0x016010 + 32 * l.val) = 0)

/-- Log entry 4: the canonical form of memories is the model's own. Every step keeps it: whatever a step does, in every memory the addresses rise and no listed
byte is zero, so equal memories are equal data. -/
def Obligations.StepsKeepMemoryCanonical : Prop := ∀ (s t : State), MemoryCanonical s → step s = .next t → MemoryCanonical t

/-- R234: the counts of every ring, in the groups and in the images of launches, make up its slots: free + np + full + nr = S. Every step keeps that, whatever
it does. -/
def Obligations.StepsKeepRingCounts : Prop := ∀ (s t : State), RingsBalanced s → step s = .next t → RingsBalanced t
end

