-- ==== Sys2Proof/Laws/Runs.lean ====
section
/-! SUPPORT. Runs: a written register gives every thread the value that its tag leaves (R62, R63), a name never changes contents
(R70), and what the masks of threads say. -/

namespace Sys2Proof.Machine

theorem lanes_eq : lanes = List.finRange 32 := by decide

theorem mem_lanes (i : Fin 32) : i ∈ lanes := by rw [lanes_eq]; exact List.mem_finRange i

theorem lanes_length : lanes.length = 32 := rfl

theorem lanes_getElem (i : Nat) (h : i < lanes.length) : lanes[i] = ⟨i, h⟩ := by
  have : ∀ j : Fin 32, lanes[j.val]'(j.isLt) = j := by decide
  exact this ⟨i, h⟩

@[simp] theorem getLsbD_maskOf (p : Fin 32 → Bool) (i : Fin 32) : (maskOf p).getLsbD i = p i := by
  simp [maskOf]

theorem Mask.ext_lanes {a b : Mask} (h : ∀ i : Fin 32, a.getLsbD i = b.getLsbD i) : a = b :=
  BitVec.eq_of_getLsbD_eq fun i hi => h ⟨i, hi⟩

theorem Mask.mem_lanes (m : Mask) (i : Fin 32) : i ∈ Mask.lanes m ↔ m.getLsbD i = true := by
  simp [Mask.lanes, Sys2Proof.Machine.mem_lanes]

theorem Mask.lanes_eq_nil (m : Mask) : Mask.lanes m = [] ↔ m = 0 := by
  constructor
  · intro h
    apply Mask.ext_lanes
    intro i
    have : i ∉ Mask.lanes m := by rw [h]; exact List.not_mem_nil
    rw [Mask.mem_lanes] at this
    simpa using this
  · intro h
    subst h
    rw [List.eq_nil_iff_forall_not_mem]
    intro i
    rw [Mask.mem_lanes]
    simp

theorem Mask.lowest_isSome (m : Mask) : (Mask.lowest m).isSome = true ↔ m ≠ 0 := by
  rw [Mask.lowest, List.isSome_head?, ne_eq, Mask.lanes_eq_nil]

theorem runsOfTags_cons (t u : Tag) (us : List Tag) (r : Run) (rs : List Run) (h : runsOfTags (u :: us) = r :: rs) :
    runsOfTags (t :: u :: us) =
      if t.joins u then { value := t.value, count := r.count + 1 } :: rs else { value := t.value, count := 1 } :: r :: rs := by
  conv_lhs => unfold runsOfTags
  rw [h]

theorem runsOfTags_single (t : Tag) : runsOfTags [t] = [{ value := t.value, count := 1 }] := rfl

/-- The runs of tags start with the first tag's value, in a run that is not empty. -/
theorem runsOfTags_head (u : Tag) (us : List Tag) : ∃ n rs, runsOfTags (u :: us) = { value := u.value, count := n + 1 } :: rs := by
  induction us generalizing u with
  | nil => exact ⟨0, [], runsOfTags_single u⟩
  | cons v vs ih =>
    obtain ⟨n, rs, h⟩ := ih v
    rw [runsOfTags_cons u v vs _ _ h]
    split
    · exact ⟨n + 1, rs, rfl⟩
    · exact ⟨0, _, rfl⟩

/-- The runs of tags give each place its tag's value, where tags that join have one value. -/
theorem runsGet_runsOfTags (ts : List Tag) (hj : ∀ t ∈ ts, ∀ u ∈ ts, t.joins u = true → t.value = u.value) (i : Nat) (h : i < ts.length) :
    runsGet (runsOfTags ts) i = ts[i].value := by
  induction ts generalizing i with
  | nil => simp at h
  | cons t ts ih =>
    cases ts with
    | nil =>
      have : i = 0 := by simpa using h
      subst this
      simp [runsOfTags, runsGet]
    | cons u us =>
      obtain ⟨n, rs, hr⟩ := runsOfTags_head u us
      rw [runsOfTags_cons t u us _ _ hr]
      cases i with
      | zero => split <;> simp [runsGet]
      | succ i =>
        have hi : i < (u :: us).length := by simpa using h
        have e := ih (fun a ha b hb => hj a (List.mem_cons_of_mem _ ha) b (List.mem_cons_of_mem _ hb)) i hi
        rw [hr] at e
        rw [List.getElem_cons_succ, ← e]
        split
        · rename_i hjoin
          have hv := hj t (by simp) u (by simp) hjoin
          by_cases hc : i < n + 1
          · simp only [runsGet, hc, if_true, show i + 1 < n + 1 + 1 by omega, hv]
          · have : ¬ i + 1 < n + 1 + 1 := by omega
            have e : i + 1 - (n + 1 + 1) = i - (n + 1) := by omega
            simp only [runsGet, hc, this, if_false, e]
        · simp [runsGet]

/-- Threads of one run have one value. -/
theorem runsGet_of_runsIdx (rs : List Run) (i j : Nat) (h : runsIdx rs i = runsIdx rs j) : runsGet rs i = runsGet rs j := by
  induction rs generalizing i j with
  | nil => rfl
  | cons r rs ih =>
    by_cases hi : i < r.count <;> by_cases hj : j < r.count
    · simp [runsGet, hi, hj]
    · simp [runsIdx, hi, hj] at h
    · simp [runsIdx, hi, hj] at h
    · simp only [runsIdx, hi, hj, if_false, Nat.add_right_cancel_iff] at h
      simp only [runsGet, hi, hj, if_false]
      exact ih _ _ h

theorem tagsOf_length (old : List Run) (act zero : Mask) (val : Fin 32 → Word) : (tagsOf old act zero val).length = 32 := by
  rw [tagsOf, List.length_map, lanes_length]

/-- A piece that is kept in a write is the old run of some thread (R63). -/
theorem tagsOf_keep (old : List Run) (act zero : Mask) (val : Fin 32 → Word) (r : Nat) (v : Word)
    (h : Tag.keep r v ∈ tagsOf old act zero val) : ∃ i : Nat, r = runsIdx old i ∧ v = runsGet old i := by
  rw [tagsOf, List.mem_map] at h
  obtain ⟨a, -, h⟩ := h
  by_cases h1 : act.getLsbD a = true
  · rw [if_pos h1] at h; exact absurd h Tag.noConfusion
  · rw [if_neg h1] at h
    by_cases h2 : zero.getLsbD a = true
    · rw [if_pos h2] at h; exact absurd h Tag.noConfusion
    · rw [if_neg h2] at h
      injection h with h3 h4
      exact ⟨a.val, h3.symm, h4.symm⟩

/-- Two tags of a write that join have one value. -/
theorem tagsOf_joins (old : List Run) (act zero : Mask) (val : Fin 32 → Word) (t : Tag) (ht : t ∈ tagsOf old act zero val) (u : Tag)
    (hu : u ∈ tagsOf old act zero val) (hj : t.joins u = true) : t.value = u.value := by
  cases t with
  | act v => cases u with
    | act w => exact eq_of_beq hj
    | keep _ _ => exact absurd hj Bool.noConfusion
    | zero => exact absurd hj Bool.noConfusion
  | keep r v => cases u with
    | act w => exact absurd hj Bool.noConfusion
    | keep q w =>
      obtain ⟨i, hi, hv⟩ := tagsOf_keep _ _ _ _ _ _ ht
      obtain ⟨j, hq, hw⟩ := tagsOf_keep _ _ _ _ _ _ hu
      have e : r = q := eq_of_beq hj
      show v = w
      rw [hv, hw]
      exact runsGet_of_runsIdx _ _ _ (by rw [← hi, ← hq, e])
    | zero => exact absurd hj Bool.noConfusion
  | zero => cases u with
    | act w => exact absurd hj Bool.noConfusion
    | keep _ _ => exact absurd hj Bool.noConfusion
    | zero => rfl

/-- A register that is written holds in each thread what R63 says: the result, zero, or what it held. -/
theorem runsGet_tagsOf (old : List Run) (act zero : Mask) (val : Fin 32 → Word) (i : Fin 32) :
    runsGet (runsOfTags (tagsOf old act zero val)) i =
      if act.getLsbD i then val i else if zero.getLsbD i then 0 else runsGet old i := by
  have hl : i.val < (tagsOf old act zero val).length := (tagsOf_length old act zero val).symm ▸ i.isLt
  rw [runsGet_runsOfTags _ (tagsOf_joins old act zero val) i.val hl]
  simp only [tagsOf, List.getElem_map, lanes_getElem]
  split
  · rfl
  · split <;> rfl

theorem freeWay_runs (live : List VecReg) (rs : List Run) (f serial : Nat) : (freeWay live rs f serial).runs = rs := by
  unfold freeWay
  dsimp only
  split <;> rfl

/-- The name that contents get changes no value. -/
theorem nameRuns_runs (live : List VecReg) (rs : List Run) (serial : Nat) : (nameRuns live rs serial).runs = rs := by
  unfold nameRuns
  split
  · rename_i h; exact h.symm
  · split
    · rename_i r h
      have := List.find?_some h
      rw [VecReg.isNamed, Bool.and_eq_true, decide_eq_true_eq] at this
      exact this.1
    · exact freeWay_runs _ _ _ _

end Sys2Proof.Machine
end

