-- ==== Sys2Proof/Laws/Sparse.lean ====
section
/-! SUPPORT. Tables by number: what a lookup gives after each operation, and that every operation on a memory keeps its
canonical form. -/

namespace Sys2Proof.Machine

theorem Sparse.find_insert_self {α : Type} (m : Sparse α) (j : Nat) (w : α) : Sparse.find (Sparse.insert m j w) j = some w := by
  induction m with
  | nil => simp [Sparse.insert, Sparse.find]
  | cons e m ih =>
    obtain ⟨k, v⟩ := e
    unfold Sparse.insert
    split
    · simp [Sparse.find]
    · split
      · simp [Sparse.find]
      · rename_i h; simp [Sparse.find, h, ih]

theorem Sparse.find_insert_ne {α : Type} (m : Sparse α) {i j : Nat} (w : α) (h : i ≠ j) :
    Sparse.find (Sparse.insert m j w) i = Sparse.find m i := by
  induction m with
  | nil => simp [Sparse.insert, Sparse.find, h]
  | cons e m ih =>
    obtain ⟨k, v⟩ := e
    unfold Sparse.insert
    split
    · simp [Sparse.find, h]
    · split
      · rename_i hk; subst hk; simp [Sparse.find, h]
      · simp [Sparse.find, ih]

theorem Sparse.find_insert {α : Type} (m : Sparse α) (i j : Nat) (w : α) :
    Sparse.find (Sparse.insert m j w) i = if i = j then some w else Sparse.find m i := by
  split
  · rename_i h; subst h; exact Sparse.find_insert_self m i w
  · rename_i h; exact Sparse.find_insert_ne m w h

theorem Sparse.find_modify {α : Type} (m : Sparse α) (i j : Nat) (f : α → α) :
    Sparse.find (Sparse.modify m j f) i = if i = j then (Sparse.find m i).map f else Sparse.find m i := by
  induction m with
  | nil => simp [Sparse.modify, Sparse.find]
  | cons e m ih =>
    obtain ⟨k, v⟩ := e
    unfold Sparse.modify
    by_cases hj : j = k
    · subst hj
      by_cases hi : i = j
      · subst hi; simp [Sparse.find]
      · simp [Sparse.find, hi, ih]
    · by_cases hi : i = k
      · subst hi; simp [Sparse.find, hj, Ne.symm hj]
      · simp [Sparse.find, hj, hi, ih]

theorem Sparse.find_erase {α : Type} (m : Sparse α) (i j : Nat) :
    Sparse.find (Sparse.erase m j) i = if i = j then none else Sparse.find m i := by
  induction m with
  | nil => simp [Sparse.erase, Sparse.find]
  | cons e m ih =>
    obtain ⟨k, v⟩ := e
    unfold Sparse.erase
    by_cases hj : j = k
    · subst hj
      by_cases hi : i = j
      · subst hi; simpa using ih
      · simp [Sparse.find, hi, ih]
    · by_cases hi : i = k
      · subst hi; simp [Sparse.find, hj, Ne.symm hj]
      · simp [Sparse.find, hj, hi, ih]

/-! ### Order -/

theorem Sparse.sortedFrom_mono {α : Type} (m : Sparse α) {a b : Nat} (h : a ≤ b) (hm : Sparse.sortedFrom b m = true) :
    Sparse.sortedFrom a m = true := by
  cases m with
  | nil => rfl
  | cons e m =>
    obtain ⟨k, v⟩ := e
    simp only [Sparse.sortedFrom, Bool.and_eq_true, decide_eq_true_eq] at hm ⊢
    exact ⟨by omega, hm.2⟩

theorem Sparse.sortedFrom_insert {α : Type} (m : Sparse α) (lo j : Nat) (w : α) (hj : lo ≤ j) (hm : Sparse.sortedFrom lo m = true) :
    Sparse.sortedFrom lo (Sparse.insert m j w) = true := by
  induction m generalizing lo with
  | nil => simp [Sparse.insert, Sparse.sortedFrom, hj]
  | cons e m ih =>
    obtain ⟨k, v⟩ := e
    simp only [Sparse.sortedFrom, Bool.and_eq_true, decide_eq_true_eq] at hm
    unfold Sparse.insert
    split
    · simp only [Sparse.sortedFrom, Bool.and_eq_true, decide_eq_true_eq]; exact ⟨hj, by omega, hm.2⟩
    · split
      · rename_i h; subst h; simp only [Sparse.sortedFrom, Bool.and_eq_true, decide_eq_true_eq]; exact ⟨hj, hm.2⟩
      · simp only [Sparse.sortedFrom, Bool.and_eq_true, decide_eq_true_eq]; exact ⟨hm.1, ih (k + 1) (by omega) hm.2⟩

theorem Sparse.sortedFrom_erase {α : Type} (m : Sparse α) (lo j : Nat) (hm : Sparse.sortedFrom lo m = true) :
    Sparse.sortedFrom lo (Sparse.erase m j) = true := by
  induction m generalizing lo with
  | nil => rfl
  | cons e m ih =>
    obtain ⟨k, v⟩ := e
    simp only [Sparse.sortedFrom, Bool.and_eq_true, decide_eq_true_eq] at hm
    unfold Sparse.erase
    split
    · exact Sparse.sortedFrom_mono _ (by omega) (ih (k + 1) hm.2)
    · simp only [Sparse.sortedFrom, Bool.and_eq_true, decide_eq_true_eq]; exact ⟨hm.1, ih (k + 1) hm.2⟩

/-- In a sorted table only the keys that a lookup finds are listed. -/
theorem Sparse.find_eq_none_of_lt {α : Type} (m : Sparse α) {lo i : Nat} (hm : Sparse.sortedFrom lo m = true) (hi : i < lo) :
    Sparse.find m i = none := by
  induction m generalizing lo with
  | nil => rfl
  | cons e m ih =>
    obtain ⟨k, v⟩ := e
    simp only [Sparse.sortedFrom, Bool.and_eq_true, decide_eq_true_eq] at hm
    have : i ≠ k := by omega
    simp [Sparse.find, this, ih hm.2 (by omega)]

/-! ### Memories -/

theorem Memory.all_insert (m : Memory) (a : Nat) (b : Byte) (hb : b ≠ 0) (hm : (m.all fun c => c.2 != 0) = true) :
    ((Sparse.insert m a b).all fun c => c.2 != 0) = true := by
  induction m with
  | nil => simpa [Sparse.insert] using hb
  | cons e m ih =>
    obtain ⟨k, v⟩ := e
    simp only [List.all_cons, Bool.and_eq_true] at hm
    unfold Sparse.insert
    split
    · simp only [List.all_cons, Bool.and_eq_true]; exact ⟨by simpa using hb, hm.1, hm.2⟩
    · split
      · simp only [List.all_cons, Bool.and_eq_true]; exact ⟨by simpa using hb, hm.2⟩
      · simp only [List.all_cons, Bool.and_eq_true]; exact ⟨hm.1, ih hm.2⟩

theorem Memory.all_erase (m : Memory) (a : Nat) (hm : (m.all fun c => c.2 != 0) = true) :
    ((Sparse.erase m a).all fun c => c.2 != 0) = true := by
  induction m with
  | nil => rfl
  | cons e m ih =>
    obtain ⟨k, v⟩ := e
    simp only [List.all_cons, Bool.and_eq_true] at hm
    unfold Sparse.erase
    split
    · exact ih hm.2
    · simp only [List.all_cons, Bool.and_eq_true]; exact ⟨hm.1, ih hm.2⟩

/-- A byte written keeps the canonical form. -/
theorem Memory.wf_setByte (m : Memory) (a : Nat) (b : Byte) (h : m.wf = true) : (m.setByte a b).wf = true := by
  simp only [Memory.wf, Bool.and_eq_true, Sparse.sorted] at h ⊢
  unfold Memory.setByte
  split
  · exact ⟨Sparse.sortedFrom_erase m 0 a h.1, Memory.all_erase m a h.2⟩
  · rename_i hb; exact ⟨Sparse.sortedFrom_insert m 0 a b (Nat.zero_le a) h.1, Memory.all_insert m a b hb h.2⟩

/-- Bytes written keep the canonical form. -/
theorem Memory.wf_setBytes (m : Memory) (a : Nat) (bs : List Byte) (h : m.wf = true) : (m.setBytes a bs).wf = true := by
  induction bs generalizing m a with
  | nil => exact h
  | cons b bs ih => exact ih _ _ (Memory.wf_setByte m a b h)

/-- A read after a write of one byte. -/
theorem Memory.byte_setByte (m : Memory) (a j : Nat) (b : Byte) : (m.setByte a b).byte j = if j = a then b else m.byte j := by
  unfold Memory.byte Memory.setByte
  split
  · rename_i hb; subst hb; rw [Sparse.find_erase]; split <;> rfl
  · rw [Sparse.find_insert]; split <;> rfl

/-- A read after a write of successive bytes. -/
theorem Memory.byte_setBytes (m : Memory) (a j : Nat) (bs : List Byte) :
    (m.setBytes a bs).byte j = if h : a ≤ j ∧ j - a < bs.length then bs[j - a]'h.2 else m.byte j := by
  induction bs generalizing m a with
  | nil => simp [Memory.setBytes]
  | cons b bs ih =>
    simp only [Memory.setBytes, ih, Memory.byte_setByte, List.length_cons]
    by_cases h1 : a + 1 ≤ j ∧ j - (a + 1) < bs.length
    · have h2 : a ≤ j ∧ j - a < bs.length + 1 := ⟨by omega, by omega⟩
      have h3 : j - a = (j - (a + 1)) + 1 := by omega
      rw [dif_pos h1, dif_pos h2]
      simp only [h3, List.getElem_cons_succ]
    · by_cases h4 : j = a
      · subst h4; simp
      · have h2 : ¬ (a ≤ j ∧ j - a < bs.length + 1) := by omega
        rw [dif_neg h1, dif_neg h2, if_neg h4]

/-- Bytes outside those that are written stay. -/
theorem Memory.byte_setBytes_outside (m : Memory) (a j : Nat) (bs : List Byte) (h : j < a ∨ a + bs.length ≤ j) :
    (m.setBytes a bs).byte j = m.byte j := by
  rw [Memory.byte_setBytes, dif_neg (by omega)]

theorem Memory.bytes_eq_map (m : Memory) (a n : Nat) : m.bytes a n = (List.range n).map fun k => m.byte (a + k) := by
  induction n generalizing a with
  | zero => rfl
  | succ n ih =>
    rw [Memory.bytes, ih, List.range_succ_eq_map]
    simp only [List.map_cons, List.map_map, Nat.add_zero]
    congr 1
    apply List.map_congr_left
    intro k _
    simp only [Function.comp]
    congr 1
    omega

/-- What has just been written is read. -/
theorem Memory.bytes_setBytes (m : Memory) (a : Nat) (bs : List Byte) : (m.setBytes a bs).bytes a bs.length = bs := by
  rw [Memory.bytes_eq_map]
  apply List.ext_getElem
  · simp
  · intro n h1 h2
    simp only [List.getElem_map, List.getElem_range, Memory.byte_setBytes]
    rw [dif_pos (by omega)]
    congr 1
    omega

theorem Memory.wf_nil : Memory.wf [] = true := rfl

/-- The bytes of a memory in canonical form determine it: equal memories are equal data. -/
theorem Memory.ext_of_wf (m n : Memory) (hm : m.wf = true) (hn : n.wf = true) (h : ∀ a, m.byte a = n.byte a) : m = n := by
  have key : ∀ (m n : Memory) (lo : Nat), Sparse.sortedFrom lo m = true → (m.all fun c => c.2 != 0) = true →
      Sparse.sortedFrom lo n = true → (n.all fun c => c.2 != 0) = true → (∀ a, m.byte a = n.byte a) → m = n := by
    intro m
    induction m with
    | nil =>
      intro n lo _ _ hn1 hn2 h
      cases n with
      | nil => rfl
      | cons e n =>
        obtain ⟨k, v⟩ := e
        have := h k
        simp only [List.all_cons, Bool.and_eq_true] at hn2
        simp [Memory.byte, Sparse.find] at this
        simp [← this] at hn2
    | cons e m ih =>
      obtain ⟨k, v⟩ := e
      intro n lo hm1 hm2 hn1 hn2 h
      simp only [Sparse.sortedFrom, Bool.and_eq_true, decide_eq_true_eq] at hm1
      simp only [List.all_cons, Bool.and_eq_true, bne_iff_ne, ne_eq] at hm2
      cases n with
      | nil =>
        have := h k
        simp [Memory.byte, Sparse.find] at this
        exact absurd this hm2.1
      | cons e' n =>
        obtain ⟨k', v'⟩ := e'
        simp only [Sparse.sortedFrom, Bool.and_eq_true, decide_eq_true_eq] at hn1
        simp only [List.all_cons, Bool.and_eq_true, bne_iff_ne, ne_eq] at hn2
        have hk : k = k' := by
          rcases Nat.lt_trichotomy k k' with hlt | heq | hgt
          · have hh := h k
            have hne : k ≠ k' := by omega
            simp [Memory.byte, Sparse.find, hne, Sparse.find_eq_none_of_lt n hn1.2 (by omega : k < k' + 1)] at hh
            exact absurd hh hm2.1
          · exact heq
          · have hh := h k'
            have hne : k' ≠ k := by omega
            simp [Memory.byte, Sparse.find, hne, Sparse.find_eq_none_of_lt m hm1.2 (by omega : k' < k + 1)] at hh
            exact absurd hh.symm hn2.1
        subst hk
        have hv : v = v' := by simpa [Memory.byte, Sparse.find] using h k
        subst hv
        have hrest : m = n := by
          refine ih n (k + 1) hm1.2 (by simpa using hm2.2) hn1.2 (by simpa using hn2.2) ?_
          intro a
          by_cases ha : a = k
          · subst ha
            simp [Memory.byte, Sparse.find_eq_none_of_lt m hm1.2 (by omega : a < a + 1), Sparse.find_eq_none_of_lt n hn1.2 (by omega : a < a + 1)]
          · simpa [Memory.byte, Sparse.find, ha] using h a
        rw [hrest]
  simp only [Memory.wf, Bool.and_eq_true, Sparse.sorted] at hm hn
  exact key m n 0 hm.1 hm.2 hn.1 hn.2 h

end Sys2Proof.Machine
end

