-- ==== Sys2Proof/Laws/Ops.lean ====
section
/-! SUPPORT. The operations over the state: what each does to a warp, and that everything else stays. -/

namespace Sys2Proof.Machine

/-! ### Warps and cores -/

@[simp] theorem State.warp?_setWarp (s : State) (wk k : Nat) (w : Warp) :
    (s.setWarp wk w).warp? k = if k = wk then some w else s.warp? k := Sparse.find_insert _ _ _ _

@[simp] theorem State.warp?_modWarp (s : State) (wk k : Nat) (f : Warp → Warp) :
    (s.modWarp wk f).warp? k = if k = wk then (s.warp? k).map f else s.warp? k := Sparse.find_modify _ _ _ _

@[simp] theorem State.warp?_setCore (s : State) (n k : Nat) (q : Core) : (s.setCore n q).warp? k = s.warp? k := rfl

@[simp] theorem State.warp?_modCore (s : State) (n k : Nat) (f : Core → Core) : (s.modCore n f).warp? k = s.warp? k := rfl

@[simp] theorem State.warp?_bump (s : State) (k : Nat) : s.bump.warp? k = s.warp? k := rfl

@[simp] theorem State.warp?_count (s : State) (n ev m k : Nat) : (s.count n ev m).warp? k = s.warp? k := rfl

@[simp] theorem State.warp?_leaf (s : State) (n l m k : Nat) : (s.leaf n l m).warp? k = s.warp? k := rfl

theorem State.coreOf_setCore (s : State) (n m : Nat) (q : Core) :
    (s.setCore n q).coreOf m = if m = n then q else s.coreOf m := by
  unfold State.coreOf State.setCore
  rw [Sparse.find_insert]
  split <;> rfl

theorem State.coreOf_modCore (s : State) (n m : Nat) (f : Core → Core) :
    (s.modCore n f).coreOf m = if m = n then f (s.coreOf m) else s.coreOf m := by
  rw [State.modCore, State.coreOf_setCore]
  split
  · rename_i h; rw [h]
  · rfl

@[simp] theorem State.coreOf_setWarp (s : State) (wk n : Nat) (w : Warp) : (s.setWarp wk w).coreOf n = s.coreOf n := rfl

@[simp] theorem State.coreOf_modWarp (s : State) (wk n : Nat) (f : Warp → Warp) : (s.modWarp wk f).coreOf n = s.coreOf n := rfl

/-! ### What stays -/

theorem Elsewhere.refl (wk : Nat) (s : State) : Elsewhere wk s s :=
  ⟨rfl, fun _ _ => rfl, fun _ _ => rfl, rfl⟩

theorem Elsewhere.trans {wk : Nat} {s t u : State} (h : Elsewhere wk s t) (g : Elsewhere wk t u) : Elsewhere wk s u := by
  refine ⟨?_, fun k hk => (g.warps k hk).trans (h.warps k hk), fun n hn => (g.cores n hn).trans (h.cores n hn), ?_⟩
  · rw [g.device, h.device]
  · rw [g.core, h.core]

theorem Elsewhere.setWarp (s : State) (wk : Nat) (w : Warp) : Elsewhere wk s (s.setWarp wk w) :=
  ⟨rfl, fun k hk => by simp [hk], fun _ _ => rfl, rfl⟩

theorem Elsewhere.modWarp (s : State) (wk : Nat) (f : Warp → Warp) : Elsewhere wk s (s.modWarp wk f) :=
  ⟨rfl, fun k hk => by simp [hk], fun _ _ => rfl, rfl⟩

theorem Elsewhere.bump (s : State) (wk : Nat) : Elsewhere wk s s.bump := ⟨rfl, fun _ _ => rfl, fun _ _ => rfl, rfl⟩

/-- A change of a core's reuse table or counters. -/
theorem Elsewhere.modCore (s : State) (wk : Nat) (f : Core → Core)
    (hf : ∀ k, f k = { k with reuse := (f k).reuse, leaves := (f k).leaves, evCount := (f k).evCount }) :
    Elsewhere wk s (s.modCore (wkCore wk) f) := by
  refine ⟨rfl, fun _ _ => rfl, fun n hn => ?_, ?_⟩
  · rw [State.coreOf_modCore, if_neg hn]
  · rw [State.coreOf_modCore, if_pos rfl]
    exact hf _

theorem Elsewhere.count (s : State) (wk ev n : Nat) : Elsewhere wk s (s.count (wkCore wk) ev n) :=
  Elsewhere.modCore s wk _ fun k => by unfold Core.count; split <;> rfl

theorem Elsewhere.leaf (s : State) (wk l n : Nat) : Elsewhere wk s (s.leaf (wkCore wk) l n) :=
  Elsewhere.modCore s wk _ fun k => by unfold Core.leaf; split <;> rfl

theorem Elsewhere.executed (c : Ctx) (s : State) (b : Nat) : Elsewhere c.wk s (c.executed s b) :=
  (Elsewhere.leaf s c.wk 0 1).trans (Elsewhere.count _ c.wk 4 b)

theorem Elsewhere.goTo (s : State) (wk : Nat) (m : Mask) (pc : Word) : Elsewhere wk s (s.goTo wk m pc) := Elsewhere.modWarp s wk _

theorem Elsewhere.advance (c : Ctx) (s : State) (m : Mask) : Elsewhere c.wk s (c.advance s m) := Elsewhere.goTo s c.wk _ _

theorem Elsewhere.releaseName (s : State) (wk : Nat) (r : VecReg) : Elsewhere wk s (s.releaseName (wkCore wk) r) := by
  unfold State.releaseName
  split
  · exact Elsewhere.refl wk s
  · split
    · exact Elsewhere.refl wk s
    · split
      · exact Elsewhere.refl wk s
      · exact Elsewhere.modCore s wk _ fun _ => rfl

@[simp] theorem State.warp?_releaseName (s : State) (n k : Nat) (r : VecReg) : (s.releaseName n r).warp? k = s.warp? k := by
  unfold State.releaseName
  split
  · rfl
  · split
    · rfl
    · split <;> rfl

theorem Elsewhere.mapReg (s : State) (wk : Nat) (d : BitVec 6) (r : VecReg) : Elsewhere wk s (s.mapReg wk d r) := by
  unfold State.mapReg
  split
  · exact Elsewhere.refl wk s
  · exact (Elsewhere.setWarp s wk _).trans (Elsewhere.releaseName _ wk _)

theorem Elsewhere.writeRuns (s : State) (wk : Nat) (d : BitVec 6) (rs : List Run) : Elsewhere wk s (s.writeRuns wk d rs) := by
  unfold State.writeRuns
  dsimp only
  split
  · exact Elsewhere.mapReg s wk d _
  · exact ((Elsewhere.bump s wk).trans (Elsewhere.count _ wk 5 1)).trans (Elsewhere.mapReg _ wk d _)

theorem Elsewhere.writeVec (s : State) (wk : Nat) (d : BitVec 6) (act zero : Mask) (val : Fin 32 → Word) :
    Elsewhere wk s (s.writeVec wk d act zero val) := by
  unfold State.writeVec
  split
  · exact Elsewhere.refl wk s
  · split
    · exact Elsewhere.refl wk s
    · exact Elsewhere.writeRuns s wk d _

theorem Elsewhere.enterReuse (s : State) (wk : Nat) (e : Entry) (dst : Dst) : Elsewhere wk s (s.enterReuse wk e dst) := by
  have key : ∀ r, Elsewhere wk s (s.modCore (wkCore wk) fun k => k.reuseEnter r) := fun r =>
    Elsewhere.modCore s wk _ fun k => by unfold Core.reuseEnter; rfl
  unfold State.enterReuse
  split
  · exact Elsewhere.refl wk s
  · split
    · exact Elsewhere.refl wk s
    · split
      · split
        · exact key _
        · exact Elsewhere.refl wk s
      · exact key _

@[simp] theorem State.warp?_enterReuse (s : State) (wk k : Nat) (e : Entry) (dst : Dst) : (s.enterReuse wk e dst).warp? k = s.warp? k := by
  unfold State.enterReuse
  split
  · rfl
  · split
    · rfl
    · split
      · split <;> rfl
      · rfl

/-! ### Registers -/

/-- A register mapped: that register and no other. -/
theorem State.warp?_mapReg (s : State) (wk : Nat) (d : BitVec 6) (r : VecReg) (w : Warp) (h : s.warp? wk = some w) :
    (s.mapReg wk d r).warp? wk = some { w with regs := w.regs.set d.toFin r } := by
  unfold State.mapReg
  rw [h]
  simp

/-- A register written with runs: some register with these runs. -/
theorem State.warp?_writeRuns (s : State) (wk : Nat) (d : BitVec 6) (rs : List Run) (w : Warp) (h : s.warp? wk = some w) :
    ∃ r : VecReg, r.runs = rs ∧ (s.writeRuns wk d rs).warp? wk = some { w with regs := w.regs.set d.toFin r } := by
  refine ⟨nameRuns (s.liveRegs (wkCore wk)) rs s.fresh, nameRuns_runs _ _ _, ?_⟩
  unfold State.writeRuns
  dsimp only
  split
  · exact State.warp?_mapReg s wk d _ w h
  · exact State.warp?_mapReg _ wk d _ w (by simpa using h)

/-- A register written under R63: in each thread the result, zero, or what it held. -/
theorem State.warp?_writeVec (s : State) (wk : Nat) (d : BitVec 6) (act zero : Mask) (val : Fin 32 → Word) (w : Warp) (h : s.warp? wk = some w) :
    ∃ r : VecReg, (∀ i : Fin 32, r.get i = if act.getLsbD i then val i else if zero.getLsbD i then 0 else w.regs[d.toFin].get i) ∧
      (s.writeVec wk d act zero val).warp? wk = some { w with regs := w.regs.set d.toFin r } := by
  unfold State.writeVec
  rw [h]
  dsimp only
  split
  · rename_i h0
    refine ⟨w.regs[d.toFin], fun i => ?_, ?_⟩
    · have ha : act.getLsbD i = false ∧ zero.getLsbD i = false := by
        have : (act ||| zero).getLsbD i = false := by rw [h0]; simp
        simpa [BitVec.getLsbD_or] using this
      rw [ha.1, ha.2]; rfl
    · rw [h]; simp
  · obtain ⟨r, hr, hw⟩ := State.warp?_writeRuns s wk d (runsOfTags (tagsOf w.regs[d.toFin].runs act zero val)) w h
    refine ⟨r, fun i => ?_, hw⟩
    rw [VecReg.get, hr, runsGet_tagsOf]
    rfl

/-! ### Threads and guards -/

theorem Warp.threads_modThreads (w : Warp) (m : Mask) (f : Fin 32 → Thread → Thread) (i : Fin 32) :
    (w.modThreads m f).threads[i] = if m.getLsbD i then f i w.threads[i] else w.threads[i] := by
  simp [Warp.modThreads]

theorem Warp.modThreads_rest (w : Warp) (m : Mask) (f : Fin 32 → Thread → Thread) :
    w.modThreads m f = { w with threads := (w.modThreads m f).threads } := rfl

/-- A guard written: the active threads take their bits, the zeroed ones 0. -/
theorem Warp.guards_writeGuard (w : Warp) (g : Nat) (act zero bits : Mask) (n : Fin 16) (i : Fin 32) :
    (w.writeGuard g act zero bits).guards[n].getLsbD i =
      if n = guardIdx g then (if act.getLsbD i then bits.getLsbD i else if zero.getLsbD i then false else w.guards[n].getLsbD i)
      else w.guards[n].getLsbD i := by
  unfold Warp.writeGuard
  by_cases hn : n = guardIdx g
  · subst hn
    simp only [Fin.getElem_fin, Vector.getElem_set_self, BitVec.getLsbD_or, BitVec.getLsbD_and, BitVec.getLsbD_not, i.isLt, decide_true, if_true]
    cases act.getLsbD i <;> cases zero.getLsbD i <;> simp
  · have : (guardIdx g).val ≠ n.val := fun h => hn (Fin.ext h.symm)
    simp [hn, Vector.getElem_set_ne, this]

theorem Warp.writeGuard_rest (w : Warp) (g : Nat) (act zero bits : Mask) :
    w.writeGuard g act zero bits = { w with guards := (w.writeGuard g act zero bits).guards } := rfl

/-! ### Parking -/

theorem State.park_none (s : State) (wk : Nat) (f : FaultAt) (a r : Fin 32 → Word) (h : f.mask = 0) : s.park wk f a r = s := by
  unfold State.park
  rw [if_pos h]

/-! ### Issue -/

/-- An instruction issues for what stands at it, or nothing happens. -/
theorem issuing_eq (x : Ext) (s : State) (f : Ctx → State → State) :
    issuing x s f = match standing x s with | none => s | some c => f c (s.setWarp c.wk c.w) := by
  unfold issuing standing
  cases s.issue with
  | none => rfl
  | some iss =>
    dsimp only
    cases s.warp? (iss.core * 64 + iss.slot) with
    | none => rfl
    | some w0 => rfl

theorem issuing_some (x : Ext) (s : State) (f : Ctx → State → State) (c : Ctx) (h : standing x s = some c) :
    issuing x s f = f c (s.setWarp c.wk c.w) := by
  rw [issuing_eq, h]

theorem State.advance_warp (c : Ctx) (s : State) (m : Mask) (w : Warp) (h : s.warp? c.wk = some w) :
    (c.advance s m).warp? c.wk = some (w.modThreads (c.set &&& ~~~ m) fun _ t => { t with pc := c.next }) := by
  simp [Ctx.advance, State.goTo, h]

end Sys2Proof.Machine
end

