-- ==== Sys2Proof/Laws/Results.lean ====
section
/-! SUPPORT. How results come about: the shared operations of instructions with register or guard results, each said once. -/

namespace Sys2Proof.Machine

/-! ### Delivery -/

theorem trapsOf_zero (w : Warp) (m : Mask) (outs : Fin 32 → LaneOut) (h : ∀ i : Fin 32, m.getLsbD i = true → (outs i).trap w.threads[i] = none) :
    trapsOf w m outs = 0 := by
  apply Mask.ext_lanes
  intro i
  unfold trapsOf
  rw [getLsbD_maskOf]
  cases hm : m.getLsbD i with
  | false => simp
  | true => rw [h i hm]; simp

theorem trapsWith_zero (w : Warp) (m : Mask) (outs : Fin 32 → LaneOut) (cause : Nat)
    (h : ∀ i : Fin 32, m.getLsbD i = true → (outs i).trap w.threads[i] = none) : trapsWith w m outs cause = 0 := by
  apply Mask.ext_lanes
  intro i
  unfold trapsWith
  rw [getLsbD_maskOf]
  cases hm : m.getLsbD i with
  | false => simp
  | true => rw [h i hm]; simp

/-- A fold that changes nothing at any element. -/
theorem foldl_same {α β : Type} (l : List β) (g : α → β → α) (a : α) (h : ∀ a b, g a b = a) : l.foldl g a = a := by
  induction l with
  | nil => rfl
  | cons b l ih => rw [List.foldl_cons, h]; exact ih

/-- Where no lane traps, none is parked. -/
theorem State.parkTraps_none (s : State) (wk : Nat) (w : Warp) (act : Mask) (outs : Fin 32 → LaneOut) (parkAt : Word) (resume : Fin 32 → Word)
    (h : ∀ i : Fin 32, act.getLsbD i = true → (outs i).trap w.threads[i] = none) : s.parkTraps wk w act outs parkAt resume = s := by
  unfold State.parkTraps
  refine foldl_same _ _ s fun s n => State.park_none s wk _ _ _ ?_
  simp [trapsWith_zero w act outs n h]

/-- The warp that a delivery leaves when no lane traps, with its threads' flags raised and still at the instruction. -/
structure GaveWarp (w0 w : Warp) (dst : Dst) (dst2 : Option Nat) (act zero : Mask) (out : Fin 32 → LaneOut) : Prop where
  reg     : ∀ d, dst = .vec d → ∀ i : Fin 32, w.regs[d.toFin].get i =
    if act.getLsbD i then (out i).word else if zero.getLsbD i then 0 else w0.regs[d.toFin].get i
  regs    : ∀ r : BitVec 6, dst ≠ .vec r → w.regs[r.toFin] = w0.regs[r.toFin]
  guard   : ∀ g : Nat, (dst = .guard g ∨ dst2 = some g) → ∀ i : Fin 32, w.guards[guardIdx g].getLsbD i =
    if act.getLsbD i then (out i).bit else if zero.getLsbD i then false else w0.guards[guardIdx g].getLsbD i
  guards  : ∀ n : Fin 16, (∀ g, dst = .guard g ∨ dst2 = some g → guardIdx g ≠ n) → w.guards[n] = w0.guards[n]
  threads : ∀ i : Fin 32, w.threads[i] = if act.getLsbD i then (w0.threads[i]).raise (out i).fflags (out i).iflags else w0.threads[i]
  rest    : w = { w0 with regs := w.regs, guards := w.guards, threads := w.threads }

theorem gaveWarp_regs_set (w0 w1 : Warp) (d r : BitVec 6) (v : VecReg) (h : w1.regs = w0.regs.set d.toFin v) (hr : Dst.vec d ≠ .vec r) :
    w1.regs[r.toFin] = w0.regs[r.toFin] := by
  have : d.toFin.val ≠ r.toFin.val := by
    intro e
    apply hr
    congr 1
    exact BitVec.eq_of_toFin_eq (Fin.ext e)
  rw [Fin.getElem_fin, Fin.getElem_fin]
  simp only [h]
  exact Vector.getElem_set_ne _ _ this

/-- Flags are raised, and nothing else changes. -/
theorem State.raiseFlags_gave (s : State) (wk : Nat) (act : Mask) (outs : Fin 32 → LaneOut) (w0 : Warp) (hw : s.warp? wk = some w0) :
    ∃ w1, (s.raiseFlags wk act outs).warp? wk = some w1 ∧ w1 = { w0 with threads := w1.threads } ∧
      ∀ i : Fin 32, w1.threads[i] = if act.getLsbD i then (w0.threads[i]).raise (outs i).fflags (outs i).iflags else w0.threads[i] := by
  refine ⟨w0.modThreads act fun i t => t.raise (outs i).fflags (outs i).iflags, ?_, rfl, fun i => Warp.threads_modThreads _ _ _ i⟩
  unfold State.raiseFlags
  rw [State.warp?_modWarp, if_pos rfl, hw]
  rfl

/-- A destination written, in a warp whose flags have been raised. -/
theorem State.putDst_gave (s : State) (wk : Nat) (dst : Dst) (act zero : Mask) (outs : Fin 32 → LaneOut) (w0 w1 : Warp) (hw : s.warp? wk = some w1)
    (r1 : w1 = { w0 with threads := w1.threads })
    (t1 : ∀ i : Fin 32, w1.threads[i] = if act.getLsbD i then (w0.threads[i]).raise (outs i).fflags (outs i).iflags else w0.threads[i]) :
    Elsewhere wk s (s.putDst wk dst act zero outs) ∧
    ∃ w, (s.putDst wk dst act zero outs).warp? wk = some w ∧ GaveWarp w0 w dst none act zero outs := by
  have v1 : w1.regs = w0.regs := by rw [r1]
  have g1 : w1.guards = w0.guards := by rw [r1]
  cases dst with
  | vec d =>
    have ⟨r, hr, hw2⟩ := State.warp?_writeVec s wk d act zero (fun i => (outs i).word) w1 hw
    refine ⟨Elsewhere.writeVec s wk d act zero _, _, hw2, ?_⟩
    constructor
    · intro d' hd i
      injection hd with hd
      subst hd
      have h3 : (w1.regs.set d.toFin r)[d.toFin] = r := Vector.getElem_set_self _
      show ((w1.regs.set d.toFin r)[d.toFin]).get i = _
      rw [h3, hr i, v1]
    · intro r' hr'
      exact gaveWarp_regs_set w0 _ d r' r (by rw [v1]) hr'
    · intro g hg; rcases hg with hg | hg <;> cases hg
    · intro n _; exact congrArg (fun v : Vector Mask 16 => v[n]) g1
    · exact t1
    · rw [r1]
  | guard g =>
    refine ⟨Elsewhere.modWarp s wk _, w1.writeGuard g act zero (maskOf fun i => (outs i).bit), ?_, ?_⟩
    · show (s.modWarp wk _).warp? wk = _
      rw [State.warp?_modWarp, if_pos rfl, hw]
      rfl
    constructor
    · intro d hd; cases hd
    · intro r _; exact congrArg (fun v : Vector VecReg 64 => v[r.toFin]) v1
    · intro g' hg i
      have : g = g' := by
        rcases hg with hg | hg
        · injection hg
        · cases hg
      subst this
      rw [Warp.guards_writeGuard, if_pos rfl, getLsbD_maskOf, g1]
    · intro n hn
      apply Mask.ext_lanes
      intro i
      rw [Warp.guards_writeGuard, if_neg (Ne.symm (hn g (.inl rfl))), g1]
    · exact t1
    · rw [r1]; rfl
  | nowhere =>
    refine ⟨Elsewhere.refl wk s, w1, hw, ?_⟩
    constructor
    · intro d hd; cases hd
    · intro r _; exact congrArg (fun v : Vector VecReg 64 => v[r.toFin]) v1
    · intro g hg; rcases hg with hg | hg <;> cases hg
    · intro n _; exact congrArg (fun v : Vector Mask 16 => v[n]) g1
    · exact t1
    · rw [r1]

/-- A second guard written. -/
theorem State.putSecond_gave (s : State) (wk : Nat) (dst : Dst) (dst2 : Option Nat) (act zero : Mask) (outs : Fin 32 → LaneOut) (w0 w2 : Warp)
    (hw : s.warp? wk = some w2) (G : GaveWarp w0 w2 dst none act zero outs) :
    Elsewhere wk s (s.putSecond wk dst2 act zero outs) ∧
    ∃ w, (s.putSecond wk dst2 act zero outs).warp? wk = some w ∧ GaveWarp w0 w dst dst2 act zero outs := by
  cases dst2 with
  | none => exact ⟨Elsewhere.refl wk s, w2, hw, G⟩
  | some g =>
    refine ⟨Elsewhere.modWarp s wk _, w2.writeGuard g act zero (maskOf fun i => (outs i).bit), ?_, ?_⟩
    · show (s.modWarp wk _).warp? wk = _
      rw [State.warp?_modWarp, if_pos rfl, hw]
      rfl
    constructor
    · exact G.reg
    · exact G.regs
    · intro g' hg i
      rw [Warp.guards_writeGuard, getLsbD_maskOf]
      have old : w2.guards[guardIdx g'].getLsbD i = w0.guards[guardIdx g'].getLsbD i ∨
          w2.guards[guardIdx g'].getLsbD i = if act.getLsbD i then (outs i).bit else if zero.getLsbD i then false else w0.guards[guardIdx g'].getLsbD i := by
        by_cases hx : ∃ g'', dst = .guard g'' ∧ guardIdx g'' = guardIdx g'
        · obtain ⟨g'', h1, h2⟩ := hx
          have := G.guard g'' (.inl h1) i
          simp only [h2] at this
          exact .inr this
        · refine .inl ?_
          rw [G.guards (guardIdx g') ?_]
          intro g'' h
          rcases h with h | h
          · exact fun he => hx ⟨g'', h, he⟩
          · cases h
      split
      · rcases old with old | old <;> rw [old]
        split
        · rfl
        · split <;> rfl
      · rename_i hne
        rcases hg with hg | hg
        · exact G.guard g' (.inl hg) i
        · exact absurd (congrArg guardIdx (Option.some.inj hg).symm) hne
    · intro n hn
      have hne : guardIdx g ≠ n := hn g (.inr rfl)
      have : w2.guards[n] = w0.guards[n] := G.guards n fun g' h => hn g' (h.elim .inl fun h => by cases h)
      rw [← this]
      apply Mask.ext_lanes
      intro i
      rw [Warp.guards_writeGuard, if_neg (Ne.symm hne)]
    · exact G.threads
    · have := G.rest
      calc w2.writeGuard g act zero (maskOf fun i => (outs i).bit)
          = { w2 with guards := (w2.writeGuard g act zero (maskOf fun i => (outs i).bit)).guards } := rfl
        _ = _ := by rw [this]; rfl

theorem Mask.and_not_zero (m : Mask) : m &&& ~~~ (0 : Mask) = m := by
  rw [BitVec.ofNat_eq_ofNat, BitVec.not_zero, BitVec.and_allOnes]

/-- Everything a delivery without a trap can do. -/
theorem deliverTo_untrapped (s : State) (wk : Nat) (dst : Dst) (dst2 : Option Nat) (act zero : Mask) (outs : Fin 32 → LaneOut)
    (parkAt : Word) (resume : Fin 32 → Word) (w0 : Warp) (hw : s.warp? wk = some w0)
    (ht : ∀ i : Fin 32, act.getLsbD i = true → (outs i).trap w0.threads[i] = none) :
    Elsewhere wk s (deliverTo s wk dst dst2 act zero outs parkAt resume) ∧
    ∃ w, (deliverTo s wk dst dst2 act zero outs parkAt resume).warp? wk = some w ∧ GaveWarp w0 w dst dst2 act zero outs := by
  unfold deliverTo
  rw [hw]
  dsimp only
  rw [trapsOf_zero w0 act outs ht, Mask.and_not_zero, State.parkTraps_none _ _ _ _ _ _ _ ht]
  obtain ⟨w1, h1, r1, t1⟩ := State.raiseFlags_gave s wk act outs w0 hw
  obtain ⟨e2, w2, h2, G2⟩ := State.putDst_gave _ wk dst act zero outs w0 w1 h1 r1 t1
  obtain ⟨e3, w3, h3, G3⟩ := State.putSecond_gave _ wk dst dst2 act zero outs w0 w2 h2 G2
  exact ⟨((Elsewhere.modWarp s wk _).trans e2).trans e3, w3, h3, G3⟩

/-- A result that raises no flag traps nowhere. -/
theorem trap_plain (v : Word) (g : Bool) (t : Thread) : (LaneOut.value v g 0 0).trap t = none := by
  simp [LaneOut.trap, Thread.fpTraps, Thread.intTraps]

theorem untrapped_plain (c : Ctx) (f : Fin 32 → Word) : Untrapped c fun i => plain (f i) := fun i _ => trap_plain (f i) false _

theorem untrapped_bits (c : Ctx) (f : Fin 32 → Word) (g : Fin 32 → Bool) : Untrapped c fun i => .value (f i) (g i) 0 0 :=
  fun i _ => trap_plain (f i) (g i) _

/-! ### Completion -/

theorem Warp.rest_threads (w w0 : Warp) (T : Vector Thread 32) (h : w = { w0 with regs := w.regs, guards := w.guards, threads := w.threads }) :
    { w with threads := T } = { w0 with regs := w.regs, guards := w.guards, threads := T } := by
  rw [h]

/-- A delivery and the step to the next instruction complete an instruction without traps. -/
theorem completed_of_gave (c : Ctx) (s t : State) (dst : Dst) (dst2 : Option Nat) (out : Fin 32 → LaneOut) (w : Warp)
    (e : Elsewhere c.wk s t) (hw : t.warp? c.wk = some w) (G : GaveWarp c.w w dst dst2 c.act c.zero out) :
    Completed c s (c.advance t) dst dst2 out := by
  have h1 := State.advance_warp c t 0 w hw
  rw [Mask.and_not_zero] at h1
  have ht : ∀ i : Fin 32, (w.modThreads c.set fun _ t => { t with pc := c.next }).threads[i] = c.threadAfter out i := by
    intro i
    rw [Warp.threads_modThreads, G.threads i, Ctx.threadAfter]
  have hr : (w.modThreads c.set fun _ t => { t with pc := c.next }) =
      { c.w with regs := w.regs, guards := w.guards, threads := (w.modThreads c.set fun _ t => { t with pc := c.next }).threads } :=
    Warp.rest_threads w c.w _ G.rest
  generalize (w.modThreads c.set fun _ t => { t with pc := c.next }) = w' at h1 ht hr
  have v : w'.regs = w.regs := by rw [hr]
  have g : w'.guards = w.guards := by rw [hr]
  refine ⟨e.trans (Elsewhere.advance c t 0), w', h1, ?_⟩
  constructor
  · intro d hd i; rw [v]; exact G.reg d hd i
  · intro r hr; rw [v]; exact G.regs r hr
  · intro n hn i; rw [g]; exact G.guard n hn i
  · intro n hn; rw [g]; exact G.guards n hn
  · exact ht
  · rw [v, g]; exact hr

@[simp] theorem State.warp?_executed (c : Ctx) (s : State) (b k : Nat) : (c.executed s b).warp? k = s.warp? k := rfl

theorem Elsewhere.noteLookup (c : Ctx) (s : State) (keyed hit : Bool) (bound : Nat) : Elsewhere c.wk s (c.noteLookup s keyed hit bound) := by
  unfold Ctx.noteLookup
  cases keyed <;> cases hit <;> simp only [Bool.false_eq_true, if_false, if_true]
  · exact Elsewhere.executed c s bound
  · exact (Elsewhere.count s c.wk 2 1).trans (Elsewhere.leaf _ c.wk 1 1)
  · exact (Elsewhere.count s c.wk 1 1).trans (Elsewhere.executed c _ bound)
  · exact ((Elsewhere.count s c.wk 1 1).trans (Elsewhere.count _ c.wk 2 1)).trans (Elsewhere.leaf _ c.wk 1 1)

@[simp] theorem State.warp?_noteLookup (c : Ctx) (s : State) (keyed hit : Bool) (bound k : Nat) :
    (c.noteLookup s keyed hit bound).warp? k = s.warp? k := by
  unfold Ctx.noteLookup
  cases keyed <;> cases hit <;> rfl

theorem Elsewhere.noteWritten (c : Ctx) (s : State) (key : Option (List Word × List (BitVec 26))) (hit : Bool) (m : Mask) (dst : Dst)
    (outs : Fin 32 → LaneOut) : Elsewhere c.wk s (c.noteWritten s key hit m dst outs) := by
  unfold Ctx.noteWritten
  split
  · split
    · exact Elsewhere.modCore s c.wk _ fun _ => rfl
    · split
      · exact Elsewhere.enterReuse s c.wk _ _
      · exact Elsewhere.refl c.wk s
  · exact Elsewhere.refl c.wk s

@[simp] theorem State.warp?_noteWritten (c : Ctx) (s : State) (key : Option (List Word × List (BitVec 26))) (hit : Bool) (m : Mask) (dst : Dst)
    (outs : Fin 32 → LaneOut) (k : Nat) : (c.noteWritten s key hit m dst outs).warp? k = s.warp? k := by
  unfold Ctx.noteWritten
  split
  · split
    · rfl
    · split
      · exact State.warp?_enterReuse _ _ _ _ _
      · rfl
  · rfl

theorem Elsewhere.outstanding (c : Ctx) (s : State) (p : Pending) : Elsewhere c.wk s (c.outstanding s p) :=
  (Elsewhere.bump s c.wk).trans (Elsewhere.modWarp _ c.wk _)

/-- What an instruction whose results come from the warp alone does when no lane traps: it completes, unless its result stays
outstanding. -/
theorem Ctx.results_completes (c : Ctx) (x : Ext) (o : VOp) (s : State) (hw : s.warp? c.wk = some c.w) (ht : Untrapped c o.out)
    (hs : c.act = 0 ∨ o.long = false ∨ c.served x o s = true) : Completed c s (c.results x o s) o.dst o.dst2 o.out := by
  unfold Ctx.results
  dsimp only
  split
  · rename_i h0
    obtain ⟨e, w, h, G⟩ := deliverTo_untrapped s c.wk o.dst o.dst2 0 c.zero o.out c.pc (fun _ => c.pc) c.w hw (fun i hi => by simp at hi)
    refine completed_of_gave c s _ o.dst o.dst2 o.out w (e.trans (Elsewhere.executed c _ _)) h ?_
    rw [h0]
    exact G
  · rename_i h0
    have hl : (o.long && !c.served x o s) = false := by
      rcases hs with h | h | h
      · exact absurd h h0
      · rw [h]; rfl
      · rw [h]; simp
    rw [hl, if_neg Bool.false_ne_true, trapsOf_zero c.w c.act o.out ht]
    generalize hs2 : c.noteLookup s _ _ _ = s2
    have e2 : Elsewhere c.wk s s2 := by rw [← hs2]; exact Elsewhere.noteLookup _ _ _ _ _
    have h2 : s2.warp? c.wk = some c.w := by rw [← hs2, State.warp?_noteLookup]; exact hw
    obtain ⟨e, w, h, G⟩ := deliverTo_untrapped s2 c.wk o.dst o.dst2 c.act c.zero o.out c.pc (fun _ => c.pc) c.w h2 ht
    refine completed_of_gave c s _ o.dst o.dst2 o.out w ((e2.trans e).trans (Elsewhere.noteWritten c _ _ _ _ _ _)) ?_ G
    rw [State.warp?_noteWritten]
    exact h

/-- A long-latency result that is not served from the reuse table stays outstanding (R42). -/
theorem Ctx.results_outstanding (c : Ctx) (x : Ext) (o : VOp) (s : State) (hw : s.warp? c.wk = some c.w) (ha : c.act ≠ 0)
    (hl : o.long = true) (hs : c.served x o s = false) : LeftOutstanding c s (c.results x o s) (c.pendingOf x o s.fresh) := by
  unfold Ctx.results
  dsimp only
  rw [if_neg ha, hl, hs]
  simp only [Bool.not_false, Bool.and_self, if_true]
  refine ⟨((Elsewhere.noteLookup c s _ _ _).trans (Elsewhere.outstanding c _ _)).trans (Elsewhere.advance c _ 0), ?_⟩
  have h1 : (c.outstanding (c.noteLookup s (c.keyOf x o).isSome false (refinement (o.srcs.map c.srcRuns) c.act)) (c.pendingOf x o s.fresh)).warp? c.wk =
      some { c.w with pend := c.w.pend ++ [c.pendingOf x o s.fresh] } := by
    unfold Ctx.outstanding
    rw [State.warp?_modWarp, if_pos rfl, State.warp?_bump, State.warp?_noteLookup, hw]
    rfl
  rw [State.advance_warp c _ 0 _ h1]
  rw [Mask.and_not_zero]
  rfl

/-- The charge test passes (R66). -/
theorem Ctx.charged_fits (c : Ctx) (s : State) (d : BitVec 6) (bound : Nat) (go : State → State) (h : Fits c s d bound) :
    c.charged s d bound go = go s := by
  unfold Ctx.charged
  rw [if_pos]
  rcases h with h | h
  · exact .inl h
  · exact .inr (by unfold Ctx.missing; omega)

/-- The charge test fails (R66, R67). -/
theorem Ctx.charged_overflows (c : Ctx) (s : State) (d : BitVec 6) (bound : Nat) (go : State → State) (h : ¬ Fits c s d bound) :
    c.charged s d bound go = c.overflow s (c.missing s d bound) := by
  unfold Ctx.charged
  rw [if_neg]
  intro h'
  rcases h' with h' | h'
  · exact h (.inl h')
  · exact h (.inr (by unfold Ctx.missing at h'; omega))

/-! ### From the state in which the set stands -/

theorem Sparse.filter_insert {α : Type} (m : Sparse α) (j : Nat) (w : α) (p : Nat × α → Bool) :
    ((Sparse.insert m j w).filter p).filter (fun e => e.1 != j) = (m.filter p).filter fun e => e.1 != j := by
  rw [List.filter_filter, List.filter_filter]
  induction m with
  | nil => simp [Sparse.insert]
  | cons e m ih =>
    obtain ⟨k, v⟩ := e
    unfold Sparse.insert
    split
    · rw [List.filter_cons_of_neg (by simp)]
    · split
      · rename_i h
        subst h
        rw [List.filter_cons_of_neg (by simp), List.filter_cons_of_neg (by simp)]
      · rw [List.filter_cons, List.filter_cons, ih]

/-- What the other warps borrow does not depend on this one. -/
theorem State.othersBorrow_setWarp (s : State) (wk gid : Nat) (w : Warp) : (s.setWarp wk w).othersBorrow gid wk = s.othersBorrow gid wk := by
  unfold State.othersBorrow State.warpsOf State.setWarp
  rw [Sparse.filter_insert]

theorem State.lendableTo_setWarp (s : State) (wk : Nat) (v w : Warp) : (s.setWarp wk v).lendableTo w wk = s.lendableTo w wk := by
  unfold State.lendableTo
  rw [State.othersBorrow_setWarp]
  rfl

theorem Fits.setWarp {c : Ctx} {s : State} {d : BitVec 6} {b : Nat} (w : Warp) (h : Fits c s d b) : Fits c (s.setWarp c.wk w) d b := by
  unfold Fits at h ⊢
  rw [State.lendableTo_setWarp]
  exact h

theorem State.warp?_self (s : State) (wk : Nat) (w : Warp) : (s.setWarp wk w).warp? wk = some w := by
  rw [State.warp?_setWarp, if_pos rfl]

theorem Completed.of_setWarp {c : Ctx} {s t : State} {w : Warp} {dst : Dst} {dst2 : Option Nat} {out : Fin 32 → LaneOut}
    (h : Completed c (s.setWarp c.wk w) t dst dst2 out) : Completed c s t dst dst2 out :=
  ⟨(Elsewhere.setWarp s c.wk w).trans h.1, h.2⟩

theorem LeftOutstanding.of_setWarp {c : Ctx} {s t : State} {w : Warp} {p : Pending} (h : LeftOutstanding c (s.setWarp c.wk w) t p) :
    LeftOutstanding c s t p :=
  ⟨(Elsewhere.setWarp s c.wk w).trans h.1, h.2⟩

/-- The bound that an instruction is charged for its vector destination, if it has one (R66). -/
def VOp.room (o : VOp) (c : Ctx) (x : Ext) (s : State) : Prop :=
  ∀ d, o.dst = .vec d → Fits c s d (o.bound.getD (c.elemBound x o.srcs d))

/-- The shared operation of instructions whose results come from the warp alone, when no lane traps and the cells suffice: the results are
written, unless they stay outstanding. -/
theorem vectorOp_completes (x : Ext) (o : Ctx → VOp) (s : State) (c : Ctx) (h : standing x s = some c) (hr : (o c).room c x s)
    (ht : Untrapped c (o c).out) (hs : c.act = 0 ∨ (o c).long = false ∨ c.served x (o c) s = true) :
    Completed c s (vectorOp x o s) (o c).dst (o c).dst2 (o c).out := by
  unfold vectorOp
  rw [issuing_some x s _ c h]
  apply Completed.of_setWarp (w := c.w)
  have main := Ctx.results_completes c x (o c) (s.setWarp c.wk c.w) (State.warp?_self s c.wk c.w) ht hs
  dsimp only
  split
  · rename_i d hd
    rw [Ctx.charged_fits _ _ _ _ _ ((hr d hd).setWarp c.w)]
    exact main
  · exact main

/-- The same of a long-latency result that the reuse table does not serve: it stays outstanding. -/
theorem vectorOp_outstanding (x : Ext) (o : Ctx → VOp) (s : State) (c : Ctx) (h : standing x s = some c) (hr : (o c).room c x s)
    (ha : c.act ≠ 0) (hl : (o c).long = true) (hs : c.served x (o c) s = false) :
    LeftOutstanding c s (vectorOp x o s) (c.pendingOf x (o c) s.fresh) := by
  unfold vectorOp
  rw [issuing_some x s _ c h]
  apply LeftOutstanding.of_setWarp (w := c.w)
  have main := Ctx.results_outstanding c x (o c) (s.setWarp c.wk c.w) (State.warp?_self s c.wk c.w) ha hl hs
  dsimp only
  split
  · rename_i d hd
    rw [Ctx.charged_fits _ _ _ _ _ ((hr d hd).setWarp c.w)]
    exact main
  · exact main

end Sys2Proof.Machine
end

