-- ==== Sys2Proof/Laws/Gives.lean ====
section
/-! SUPPORT. The shared operations of instructions in the terms of statements: each gives its results where its set stands, its charge fits
and no lane traps. -/

namespace Sys2Proof.Machine

/-- An instruction that is a `vectorOp` with a short latency gives its results. -/
theorem gives_of_vectorOp (i : Instr) (x : Ext) (s : State) (o : Ctx → VOp) (bound : Ctx → BitVec 6 → Nat) (dst : Dst) (dst2 : Option Nat)
    (out : Ctx → Fin 32 → LaneOut) (he : exec i s = .next (vectorOp x o s)) (hl : ∀ c, (o c).long = false) (hd : ∀ c, (o c).dst = dst)
    (hd2 : ∀ c, (o c).dst2 = dst2) (ho : ∀ c n, (o c).out n = out c n)
    (hb : ∀ c d, dst = .vec d → (o c).bound.getD (c.elemBound x (o c).srcs d) = bound c d) : Gives i x s bound dst dst2 out := by
  intro c hc hf ht
  have ho' : (o c).out = out c := funext (ho c)
  refine ⟨_, he, ?_⟩
  have h := vectorOp_completes x o s c hc (fun d h => by rw [hd] at h; rw [hb c d h]; exact hf d h) (by rw [ho']; exact ht) (.inr (.inl (hl c)))
  rw [hd, hd2, ho'] at h
  exact h

theorem find_lanes (f : Fin 32 → LaneOut) (i : Fin 32) : Sparse.find (lanes.map fun n => (n.val, f n)) i.val = some (f i) := by
  have key : ∀ l : List (Fin 32), i ∈ l → Sparse.find (l.map fun n => (n.val, f n)) i.val = some (f i) := by
    intro l
    induction l with
    | nil => intro h; exact absurd h List.not_mem_nil
    | cons n l ih =>
      intro h
      rw [List.map_cons, Sparse.find]
      by_cases hn : i.val = n.val
      · rw [if_pos hn]
        have : i = n := Fin.ext hn
        rw [this]
      · rw [if_neg hn]
        refine ih ?_
        rcases List.mem_cons.mp h with h | h
        · exact absurd (congrArg Fin.val h) hn
        · exact h
  exact key lanes (mem_lanes i)

/-- An instruction that is a long-latency `vectorOp` leaves its results outstanding, or gives them at once where the reuse table serves it. -/
theorem givesLater_of_vectorOp (i : Instr) (x : Ext) (s : State) (o : Ctx → VOp) (bound : Ctx → BitVec 6 → Nat) (dst : Dst)
    (out : Ctx → Fin 32 → LaneOut) (he : exec i s = .next (vectorOp x o s)) (hl : ∀ c, (o c).long = true) (hd : ∀ c, (o c).dst = dst)
    (hd2 : ∀ c, (o c).dst2 = none) (ho : ∀ c n, (o c).out n = out c n)
    (hb : ∀ c d, dst = .vec d → (o c).bound.getD (c.elemBound x (o c).srcs d) = bound c d) : GivesLater i x s bound dst out := by
  intro c hc hf ht
  have ho' : (o c).out = out c := funext (ho c)
  have hroom : (o c).room c x s := fun d h => by rw [hd] at h; rw [hb c d h]; exact hf d h
  refine ⟨_, he, ?_⟩
  by_cases ha : c.act = 0
  · have h := vectorOp_completes x o s c hc hroom (by rw [ho']; exact ht) (.inl ha)
    rw [hd, hd2, ho'] at h
    exact .inl ⟨.inl ha, h⟩
  · cases hs : c.served x (o c) s with
    | true =>
      have h := vectorOp_completes x o s c hc hroom (by rw [ho']; exact ht) (.inr (.inr hs))
      rw [hd, hd2, ho'] at h
      refine .inl ⟨.inr fun he => ?_, h⟩
      unfold Ctx.served Ctx.hits at hs
      rw [Bool.and_eq_true] at hs
      split at hs
      · simp [Core.reuseFind, he] at hs
      · exact Bool.false_ne_true hs.1
    | false =>
      refine .inr ⟨ha, _, vectorOp_outstanding x o s c hc hroom ha (hl c) hs, rfl, rfl, hd c, rfl, rfl, rfl, fun n => ?_⟩
      rw [← ho c n]
      exact find_lanes _ n

/-- Every `wordOp` gives its word. -/
theorem givesWord_of_wordOp (i : Instr) (opc : Nat) (x : Ext) (a b c : Src) (f : Word → Word → Word → Word) (s : State)
    (he : exec i s = .next (wordOp opc x a b c f s)) :
    GivesWord i x s [a, b, c] fun q n => f (q.src a n) (q.src b n) (q.src c n) := by
  unfold wordOp at he
  exact gives_of_vectorOp i x s _ _ _ _ _ he (fun _ => rfl) (fun _ => rfl) (fun _ => rfl) (fun _ _ => rfl) fun c d h => by cases h; rfl

/-- Every short `fpOp` gives its lanes. -/
theorem gives_of_fpOp (i : Instr) (opc : Nat) (x : Ext) (a b c : Src) (f : FFmt → Nat → Bool → Nat → Nat → Nat → Nat × BitVec 5) (s : State)
    (long : Bool) (hl : long = false) (he : exec i s = .next (fpOp opc x a b c f s long)) :
    Gives i x s (chargeOver x [a, b, c]) (.vec x.d) none fun q n =>
      fpLane x.ty.toNat (fun u v w => f (tyFmt x.ty.toNat) (q.w.threads[n].rounding x.rm) (q.w.threads[n].flushes x.ty.toNat)
        ((tyFmt x.ty.toNat).read (q.w.threads[n].flushes x.ty.toNat) u) ((tyFmt x.ty.toNat).read (q.w.threads[n].flushes x.ty.toNat) v)
        ((tyFmt x.ty.toNat).read (q.w.threads[n].flushes x.ty.toNat) w)) (q.src a n) (q.src b n) (q.src c n) := by
  unfold fpOp at he
  exact gives_of_vectorOp i x s _ _ _ _ _ he (fun _ => hl) (fun _ => rfl) (fun _ => rfl) (fun _ _ => rfl) fun c d h => by cases h; rfl

/-- Every long `fpOp` leaves its lanes outstanding. -/
theorem givesLater_of_fpOp (i : Instr) (opc : Nat) (x : Ext) (a b c : Src) (f : FFmt → Nat → Bool → Nat → Nat → Nat → Nat × BitVec 5) (s : State)
    (long : Bool) (hl : long = true) (he : exec i s = .next (fpOp opc x a b c f s long)) :
    GivesLater i x s (chargeOver x [a, b, c]) (.vec x.d) fun q n =>
      fpLane x.ty.toNat (fun u v w => f (tyFmt x.ty.toNat) (q.w.threads[n].rounding x.rm) (q.w.threads[n].flushes x.ty.toNat)
        ((tyFmt x.ty.toNat).read (q.w.threads[n].flushes x.ty.toNat) u) ((tyFmt x.ty.toNat).read (q.w.threads[n].flushes x.ty.toNat) v)
        ((tyFmt x.ty.toNat).read (q.w.threads[n].flushes x.ty.toNat) w)) (q.src a n) (q.src b n) (q.src c n) := by
  unfold fpOp at he
  exact givesLater_of_vectorOp i x s _ _ _ _ he (fun _ => hl) (fun _ => rfl) (fun _ => rfl) (fun _ _ => rfl) fun c d h => by cases h; rfl

/-- Every `guardOp` gives its bit. -/
theorem givesBit_of_guardOp (i : Instr) (opc : Nat) (x : Ext) (d : Nat) (a : Src) (f : Ctx → Fin 32 → Bool) (s : State)
    (he : exec i s = .next (guardOp opc x d a f s)) : GivesBit i x s d f :=
  gives_of_vectorOp i x s _ _ _ _ _ he (fun _ => rfl) (fun _ => rfl) (fun _ => rfl) (fun _ _ => rfl) fun c d h => by cases h

end Sys2Proof.Machine
end

