-- ==== Sys2Proof/Laws/State.lean ====
section
/-! SUPPORT. The fields of the state after each of its updates: what an update does not name stays, and what it writes reads back. -/

namespace Sys2Proof.Machine

/-! ### setCore -/

@[simp] theorem State.clock_setCore (s : State) (n : Nat) (k : Core) : (s.setCore n k).clock = s.clock := rfl
@[simp] theorem State.warps_setCore (s : State) (n : Nat) (k : Core) : (s.setCore n k).warps = s.warps := rfl
@[simp] theorem State.groups_setCore (s : State) (n : Nat) (k : Core) : (s.setCore n k).groups = s.groups := rfl
@[simp] theorem State.launches_setCore (s : State) (n : Nat) (k : Core) : (s.setCore n k).launches = s.launches := rfl
@[simp] theorem State.gantries_setCore (s : State) (n : Nat) (k : Core) : (s.setCore n k).gantries = s.gantries := rfl
@[simp] theorem State.ops_setCore (s : State) (n : Nat) (k : Core) : (s.setCore n k).ops = s.ops := rfl
@[simp] theorem State.qwait_setCore (s : State) (n : Nat) (k : Core) : (s.setCore n k).qwait = s.qwait := rfl
@[simp] theorem State.pages_setCore (s : State) (n : Nat) (k : Core) : (s.setCore n k).pages = s.pages := rfl
@[simp] theorem State.mem_setCore (s : State) (n : Nat) (k : Core) : (s.setCore n k).mem = s.mem := rfl
@[simp] theorem State.sched_setCore (s : State) (n : Nat) (k : Core) : (s.setCore n k).sched = s.sched := rfl
@[simp] theorem State.steps_setCore (s : State) (n : Nat) (k : Core) : (s.setCore n k).steps = s.steps := rfl
@[simp] theorem State.images_setCore (s : State) (n : Nat) (k : Core) : (s.setCore n k).images = s.images := rfl
@[simp] theorem State.links_setCore (s : State) (n : Nat) (k : Core) : (s.setCore n k).links = s.links := rfl
@[simp] theorem State.firm_setCore (s : State) (n : Nat) (k : Core) : (s.setCore n k).firm = s.firm := rfl
@[simp] theorem State.trace_setCore (s : State) (n : Nat) (k : Core) : (s.setCore n k).trace = s.trace := rfl
@[simp] theorem State.issue_setCore (s : State) (n : Nat) (k : Core) : (s.setCore n k).issue = s.issue := rfl
@[simp] theorem State.turns_setCore (s : State) (n : Nat) (k : Core) : (s.setCore n k).turns = s.turns := rfl
@[simp] theorem State.fresh_setCore (s : State) (n : Nat) (k : Core) : (s.setCore n k).fresh = s.fresh := rfl

/-! ### modCore -/

@[simp] theorem State.clock_modCore (s : State) (n : Nat) (f : Core → Core) : (s.modCore n f).clock = s.clock := rfl
@[simp] theorem State.warps_modCore (s : State) (n : Nat) (f : Core → Core) : (s.modCore n f).warps = s.warps := rfl
@[simp] theorem State.groups_modCore (s : State) (n : Nat) (f : Core → Core) : (s.modCore n f).groups = s.groups := rfl
@[simp] theorem State.launches_modCore (s : State) (n : Nat) (f : Core → Core) : (s.modCore n f).launches = s.launches := rfl
@[simp] theorem State.gantries_modCore (s : State) (n : Nat) (f : Core → Core) : (s.modCore n f).gantries = s.gantries := rfl
@[simp] theorem State.ops_modCore (s : State) (n : Nat) (f : Core → Core) : (s.modCore n f).ops = s.ops := rfl
@[simp] theorem State.qwait_modCore (s : State) (n : Nat) (f : Core → Core) : (s.modCore n f).qwait = s.qwait := rfl
@[simp] theorem State.pages_modCore (s : State) (n : Nat) (f : Core → Core) : (s.modCore n f).pages = s.pages := rfl
@[simp] theorem State.mem_modCore (s : State) (n : Nat) (f : Core → Core) : (s.modCore n f).mem = s.mem := rfl
@[simp] theorem State.sched_modCore (s : State) (n : Nat) (f : Core → Core) : (s.modCore n f).sched = s.sched := rfl
@[simp] theorem State.steps_modCore (s : State) (n : Nat) (f : Core → Core) : (s.modCore n f).steps = s.steps := rfl
@[simp] theorem State.images_modCore (s : State) (n : Nat) (f : Core → Core) : (s.modCore n f).images = s.images := rfl
@[simp] theorem State.links_modCore (s : State) (n : Nat) (f : Core → Core) : (s.modCore n f).links = s.links := rfl
@[simp] theorem State.firm_modCore (s : State) (n : Nat) (f : Core → Core) : (s.modCore n f).firm = s.firm := rfl
@[simp] theorem State.trace_modCore (s : State) (n : Nat) (f : Core → Core) : (s.modCore n f).trace = s.trace := rfl
@[simp] theorem State.issue_modCore (s : State) (n : Nat) (f : Core → Core) : (s.modCore n f).issue = s.issue := rfl
@[simp] theorem State.turns_modCore (s : State) (n : Nat) (f : Core → Core) : (s.modCore n f).turns = s.turns := rfl
@[simp] theorem State.fresh_modCore (s : State) (n : Nat) (f : Core → Core) : (s.modCore n f).fresh = s.fresh := rfl

/-! ### setWarp -/

@[simp] theorem State.clock_setWarp (s : State) (wk : Nat) (w : Warp) : (s.setWarp wk w).clock = s.clock := rfl
@[simp] theorem State.groups_setWarp (s : State) (wk : Nat) (w : Warp) : (s.setWarp wk w).groups = s.groups := rfl
@[simp] theorem State.launches_setWarp (s : State) (wk : Nat) (w : Warp) : (s.setWarp wk w).launches = s.launches := rfl
@[simp] theorem State.cores_setWarp (s : State) (wk : Nat) (w : Warp) : (s.setWarp wk w).cores = s.cores := rfl
@[simp] theorem State.gantries_setWarp (s : State) (wk : Nat) (w : Warp) : (s.setWarp wk w).gantries = s.gantries := rfl
@[simp] theorem State.ops_setWarp (s : State) (wk : Nat) (w : Warp) : (s.setWarp wk w).ops = s.ops := rfl
@[simp] theorem State.qwait_setWarp (s : State) (wk : Nat) (w : Warp) : (s.setWarp wk w).qwait = s.qwait := rfl
@[simp] theorem State.pages_setWarp (s : State) (wk : Nat) (w : Warp) : (s.setWarp wk w).pages = s.pages := rfl
@[simp] theorem State.mem_setWarp (s : State) (wk : Nat) (w : Warp) : (s.setWarp wk w).mem = s.mem := rfl
@[simp] theorem State.sched_setWarp (s : State) (wk : Nat) (w : Warp) : (s.setWarp wk w).sched = s.sched := rfl
@[simp] theorem State.steps_setWarp (s : State) (wk : Nat) (w : Warp) : (s.setWarp wk w).steps = s.steps := rfl
@[simp] theorem State.images_setWarp (s : State) (wk : Nat) (w : Warp) : (s.setWarp wk w).images = s.images := rfl
@[simp] theorem State.links_setWarp (s : State) (wk : Nat) (w : Warp) : (s.setWarp wk w).links = s.links := rfl
@[simp] theorem State.firm_setWarp (s : State) (wk : Nat) (w : Warp) : (s.setWarp wk w).firm = s.firm := rfl
@[simp] theorem State.trace_setWarp (s : State) (wk : Nat) (w : Warp) : (s.setWarp wk w).trace = s.trace := rfl
@[simp] theorem State.issue_setWarp (s : State) (wk : Nat) (w : Warp) : (s.setWarp wk w).issue = s.issue := rfl
@[simp] theorem State.turns_setWarp (s : State) (wk : Nat) (w : Warp) : (s.setWarp wk w).turns = s.turns := rfl
@[simp] theorem State.fresh_setWarp (s : State) (wk : Nat) (w : Warp) : (s.setWarp wk w).fresh = s.fresh := rfl

/-! ### modWarp -/

@[simp] theorem State.clock_modWarp (s : State) (wk : Nat) (f : Warp → Warp) : (s.modWarp wk f).clock = s.clock := rfl
@[simp] theorem State.groups_modWarp (s : State) (wk : Nat) (f : Warp → Warp) : (s.modWarp wk f).groups = s.groups := rfl
@[simp] theorem State.launches_modWarp (s : State) (wk : Nat) (f : Warp → Warp) : (s.modWarp wk f).launches = s.launches := rfl
@[simp] theorem State.cores_modWarp (s : State) (wk : Nat) (f : Warp → Warp) : (s.modWarp wk f).cores = s.cores := rfl
@[simp] theorem State.gantries_modWarp (s : State) (wk : Nat) (f : Warp → Warp) : (s.modWarp wk f).gantries = s.gantries := rfl
@[simp] theorem State.ops_modWarp (s : State) (wk : Nat) (f : Warp → Warp) : (s.modWarp wk f).ops = s.ops := rfl
@[simp] theorem State.qwait_modWarp (s : State) (wk : Nat) (f : Warp → Warp) : (s.modWarp wk f).qwait = s.qwait := rfl
@[simp] theorem State.pages_modWarp (s : State) (wk : Nat) (f : Warp → Warp) : (s.modWarp wk f).pages = s.pages := rfl
@[simp] theorem State.mem_modWarp (s : State) (wk : Nat) (f : Warp → Warp) : (s.modWarp wk f).mem = s.mem := rfl
@[simp] theorem State.sched_modWarp (s : State) (wk : Nat) (f : Warp → Warp) : (s.modWarp wk f).sched = s.sched := rfl
@[simp] theorem State.steps_modWarp (s : State) (wk : Nat) (f : Warp → Warp) : (s.modWarp wk f).steps = s.steps := rfl
@[simp] theorem State.images_modWarp (s : State) (wk : Nat) (f : Warp → Warp) : (s.modWarp wk f).images = s.images := rfl
@[simp] theorem State.links_modWarp (s : State) (wk : Nat) (f : Warp → Warp) : (s.modWarp wk f).links = s.links := rfl
@[simp] theorem State.firm_modWarp (s : State) (wk : Nat) (f : Warp → Warp) : (s.modWarp wk f).firm = s.firm := rfl
@[simp] theorem State.trace_modWarp (s : State) (wk : Nat) (f : Warp → Warp) : (s.modWarp wk f).trace = s.trace := rfl
@[simp] theorem State.issue_modWarp (s : State) (wk : Nat) (f : Warp → Warp) : (s.modWarp wk f).issue = s.issue := rfl
@[simp] theorem State.turns_modWarp (s : State) (wk : Nat) (f : Warp → Warp) : (s.modWarp wk f).turns = s.turns := rfl
@[simp] theorem State.fresh_modWarp (s : State) (wk : Nat) (f : Warp → Warp) : (s.modWarp wk f).fresh = s.fresh := rfl

/-! ### setGroup -/

@[simp] theorem State.clock_setGroup (s : State) (g : Nat) (v : Group) : (s.setGroup g v).clock = s.clock := rfl
@[simp] theorem State.warps_setGroup (s : State) (g : Nat) (v : Group) : (s.setGroup g v).warps = s.warps := rfl
@[simp] theorem State.launches_setGroup (s : State) (g : Nat) (v : Group) : (s.setGroup g v).launches = s.launches := rfl
@[simp] theorem State.cores_setGroup (s : State) (g : Nat) (v : Group) : (s.setGroup g v).cores = s.cores := rfl
@[simp] theorem State.gantries_setGroup (s : State) (g : Nat) (v : Group) : (s.setGroup g v).gantries = s.gantries := rfl
@[simp] theorem State.ops_setGroup (s : State) (g : Nat) (v : Group) : (s.setGroup g v).ops = s.ops := rfl
@[simp] theorem State.qwait_setGroup (s : State) (g : Nat) (v : Group) : (s.setGroup g v).qwait = s.qwait := rfl
@[simp] theorem State.pages_setGroup (s : State) (g : Nat) (v : Group) : (s.setGroup g v).pages = s.pages := rfl
@[simp] theorem State.mem_setGroup (s : State) (g : Nat) (v : Group) : (s.setGroup g v).mem = s.mem := rfl
@[simp] theorem State.sched_setGroup (s : State) (g : Nat) (v : Group) : (s.setGroup g v).sched = s.sched := rfl
@[simp] theorem State.steps_setGroup (s : State) (g : Nat) (v : Group) : (s.setGroup g v).steps = s.steps := rfl
@[simp] theorem State.images_setGroup (s : State) (g : Nat) (v : Group) : (s.setGroup g v).images = s.images := rfl
@[simp] theorem State.links_setGroup (s : State) (g : Nat) (v : Group) : (s.setGroup g v).links = s.links := rfl
@[simp] theorem State.firm_setGroup (s : State) (g : Nat) (v : Group) : (s.setGroup g v).firm = s.firm := rfl
@[simp] theorem State.trace_setGroup (s : State) (g : Nat) (v : Group) : (s.setGroup g v).trace = s.trace := rfl
@[simp] theorem State.issue_setGroup (s : State) (g : Nat) (v : Group) : (s.setGroup g v).issue = s.issue := rfl
@[simp] theorem State.turns_setGroup (s : State) (g : Nat) (v : Group) : (s.setGroup g v).turns = s.turns := rfl
@[simp] theorem State.fresh_setGroup (s : State) (g : Nat) (v : Group) : (s.setGroup g v).fresh = s.fresh := rfl

/-! ### modGroup -/

@[simp] theorem State.clock_modGroup (s : State) (g : Nat) (f : Group → Group) : (s.modGroup g f).clock = s.clock := rfl
@[simp] theorem State.warps_modGroup (s : State) (g : Nat) (f : Group → Group) : (s.modGroup g f).warps = s.warps := rfl
@[simp] theorem State.launches_modGroup (s : State) (g : Nat) (f : Group → Group) : (s.modGroup g f).launches = s.launches := rfl
@[simp] theorem State.cores_modGroup (s : State) (g : Nat) (f : Group → Group) : (s.modGroup g f).cores = s.cores := rfl
@[simp] theorem State.gantries_modGroup (s : State) (g : Nat) (f : Group → Group) : (s.modGroup g f).gantries = s.gantries := rfl
@[simp] theorem State.ops_modGroup (s : State) (g : Nat) (f : Group → Group) : (s.modGroup g f).ops = s.ops := rfl
@[simp] theorem State.qwait_modGroup (s : State) (g : Nat) (f : Group → Group) : (s.modGroup g f).qwait = s.qwait := rfl
@[simp] theorem State.pages_modGroup (s : State) (g : Nat) (f : Group → Group) : (s.modGroup g f).pages = s.pages := rfl
@[simp] theorem State.mem_modGroup (s : State) (g : Nat) (f : Group → Group) : (s.modGroup g f).mem = s.mem := rfl
@[simp] theorem State.sched_modGroup (s : State) (g : Nat) (f : Group → Group) : (s.modGroup g f).sched = s.sched := rfl
@[simp] theorem State.steps_modGroup (s : State) (g : Nat) (f : Group → Group) : (s.modGroup g f).steps = s.steps := rfl
@[simp] theorem State.images_modGroup (s : State) (g : Nat) (f : Group → Group) : (s.modGroup g f).images = s.images := rfl
@[simp] theorem State.links_modGroup (s : State) (g : Nat) (f : Group → Group) : (s.modGroup g f).links = s.links := rfl
@[simp] theorem State.firm_modGroup (s : State) (g : Nat) (f : Group → Group) : (s.modGroup g f).firm = s.firm := rfl
@[simp] theorem State.trace_modGroup (s : State) (g : Nat) (f : Group → Group) : (s.modGroup g f).trace = s.trace := rfl
@[simp] theorem State.issue_modGroup (s : State) (g : Nat) (f : Group → Group) : (s.modGroup g f).issue = s.issue := rfl
@[simp] theorem State.turns_modGroup (s : State) (g : Nat) (f : Group → Group) : (s.modGroup g f).turns = s.turns := rfl
@[simp] theorem State.fresh_modGroup (s : State) (g : Nat) (f : Group → Group) : (s.modGroup g f).fresh = s.fresh := rfl

/-! ### modLaunch -/

@[simp] theorem State.clock_modLaunch (s : State) (l : Nat) (f : Launch → Launch) : (s.modLaunch l f).clock = s.clock := rfl
@[simp] theorem State.warps_modLaunch (s : State) (l : Nat) (f : Launch → Launch) : (s.modLaunch l f).warps = s.warps := rfl
@[simp] theorem State.groups_modLaunch (s : State) (l : Nat) (f : Launch → Launch) : (s.modLaunch l f).groups = s.groups := rfl
@[simp] theorem State.cores_modLaunch (s : State) (l : Nat) (f : Launch → Launch) : (s.modLaunch l f).cores = s.cores := rfl
@[simp] theorem State.gantries_modLaunch (s : State) (l : Nat) (f : Launch → Launch) : (s.modLaunch l f).gantries = s.gantries := rfl
@[simp] theorem State.ops_modLaunch (s : State) (l : Nat) (f : Launch → Launch) : (s.modLaunch l f).ops = s.ops := rfl
@[simp] theorem State.qwait_modLaunch (s : State) (l : Nat) (f : Launch → Launch) : (s.modLaunch l f).qwait = s.qwait := rfl
@[simp] theorem State.pages_modLaunch (s : State) (l : Nat) (f : Launch → Launch) : (s.modLaunch l f).pages = s.pages := rfl
@[simp] theorem State.mem_modLaunch (s : State) (l : Nat) (f : Launch → Launch) : (s.modLaunch l f).mem = s.mem := rfl
@[simp] theorem State.sched_modLaunch (s : State) (l : Nat) (f : Launch → Launch) : (s.modLaunch l f).sched = s.sched := rfl
@[simp] theorem State.steps_modLaunch (s : State) (l : Nat) (f : Launch → Launch) : (s.modLaunch l f).steps = s.steps := rfl
@[simp] theorem State.images_modLaunch (s : State) (l : Nat) (f : Launch → Launch) : (s.modLaunch l f).images = s.images := rfl
@[simp] theorem State.links_modLaunch (s : State) (l : Nat) (f : Launch → Launch) : (s.modLaunch l f).links = s.links := rfl
@[simp] theorem State.firm_modLaunch (s : State) (l : Nat) (f : Launch → Launch) : (s.modLaunch l f).firm = s.firm := rfl
@[simp] theorem State.trace_modLaunch (s : State) (l : Nat) (f : Launch → Launch) : (s.modLaunch l f).trace = s.trace := rfl
@[simp] theorem State.issue_modLaunch (s : State) (l : Nat) (f : Launch → Launch) : (s.modLaunch l f).issue = s.issue := rfl
@[simp] theorem State.turns_modLaunch (s : State) (l : Nat) (f : Launch → Launch) : (s.modLaunch l f).turns = s.turns := rfl
@[simp] theorem State.fresh_modLaunch (s : State) (l : Nat) (f : Launch → Launch) : (s.modLaunch l f).fresh = s.fresh := rfl

/-! ### bump -/

@[simp] theorem State.clock_bump (s : State) : s.bump.clock = s.clock := rfl
@[simp] theorem State.warps_bump (s : State) : s.bump.warps = s.warps := rfl
@[simp] theorem State.groups_bump (s : State) : s.bump.groups = s.groups := rfl
@[simp] theorem State.launches_bump (s : State) : s.bump.launches = s.launches := rfl
@[simp] theorem State.cores_bump (s : State) : s.bump.cores = s.cores := rfl
@[simp] theorem State.gantries_bump (s : State) : s.bump.gantries = s.gantries := rfl
@[simp] theorem State.ops_bump (s : State) : s.bump.ops = s.ops := rfl
@[simp] theorem State.qwait_bump (s : State) : s.bump.qwait = s.qwait := rfl
@[simp] theorem State.pages_bump (s : State) : s.bump.pages = s.pages := rfl
@[simp] theorem State.mem_bump (s : State) : s.bump.mem = s.mem := rfl
@[simp] theorem State.sched_bump (s : State) : s.bump.sched = s.sched := rfl
@[simp] theorem State.steps_bump (s : State) : s.bump.steps = s.steps := rfl
@[simp] theorem State.images_bump (s : State) : s.bump.images = s.images := rfl
@[simp] theorem State.links_bump (s : State) : s.bump.links = s.links := rfl
@[simp] theorem State.firm_bump (s : State) : s.bump.firm = s.firm := rfl
@[simp] theorem State.trace_bump (s : State) : s.bump.trace = s.trace := rfl
@[simp] theorem State.issue_bump (s : State) : s.bump.issue = s.issue := rfl
@[simp] theorem State.turns_bump (s : State) : s.bump.turns = s.turns := rfl

/-! ### count -/

@[simp] theorem State.clock_count (s : State) (core ev n : Nat) : (s.count core ev n).clock = s.clock := rfl
@[simp] theorem State.warps_count (s : State) (core ev n : Nat) : (s.count core ev n).warps = s.warps := rfl
@[simp] theorem State.groups_count (s : State) (core ev n : Nat) : (s.count core ev n).groups = s.groups := rfl
@[simp] theorem State.launches_count (s : State) (core ev n : Nat) : (s.count core ev n).launches = s.launches := rfl
@[simp] theorem State.gantries_count (s : State) (core ev n : Nat) : (s.count core ev n).gantries = s.gantries := rfl
@[simp] theorem State.ops_count (s : State) (core ev n : Nat) : (s.count core ev n).ops = s.ops := rfl
@[simp] theorem State.qwait_count (s : State) (core ev n : Nat) : (s.count core ev n).qwait = s.qwait := rfl
@[simp] theorem State.pages_count (s : State) (core ev n : Nat) : (s.count core ev n).pages = s.pages := rfl
@[simp] theorem State.mem_count (s : State) (core ev n : Nat) : (s.count core ev n).mem = s.mem := rfl
@[simp] theorem State.sched_count (s : State) (core ev n : Nat) : (s.count core ev n).sched = s.sched := rfl
@[simp] theorem State.steps_count (s : State) (core ev n : Nat) : (s.count core ev n).steps = s.steps := rfl
@[simp] theorem State.images_count (s : State) (core ev n : Nat) : (s.count core ev n).images = s.images := rfl
@[simp] theorem State.links_count (s : State) (core ev n : Nat) : (s.count core ev n).links = s.links := rfl
@[simp] theorem State.firm_count (s : State) (core ev n : Nat) : (s.count core ev n).firm = s.firm := rfl
@[simp] theorem State.trace_count (s : State) (core ev n : Nat) : (s.count core ev n).trace = s.trace := rfl
@[simp] theorem State.issue_count (s : State) (core ev n : Nat) : (s.count core ev n).issue = s.issue := rfl
@[simp] theorem State.turns_count (s : State) (core ev n : Nat) : (s.count core ev n).turns = s.turns := rfl
@[simp] theorem State.fresh_count (s : State) (core ev n : Nat) : (s.count core ev n).fresh = s.fresh := rfl

/-! ### leaf -/

@[simp] theorem State.clock_leaf (s : State) (core l n : Nat) : (s.leaf core l n).clock = s.clock := rfl
@[simp] theorem State.warps_leaf (s : State) (core l n : Nat) : (s.leaf core l n).warps = s.warps := rfl
@[simp] theorem State.groups_leaf (s : State) (core l n : Nat) : (s.leaf core l n).groups = s.groups := rfl
@[simp] theorem State.launches_leaf (s : State) (core l n : Nat) : (s.leaf core l n).launches = s.launches := rfl
@[simp] theorem State.gantries_leaf (s : State) (core l n : Nat) : (s.leaf core l n).gantries = s.gantries := rfl
@[simp] theorem State.ops_leaf (s : State) (core l n : Nat) : (s.leaf core l n).ops = s.ops := rfl
@[simp] theorem State.qwait_leaf (s : State) (core l n : Nat) : (s.leaf core l n).qwait = s.qwait := rfl
@[simp] theorem State.pages_leaf (s : State) (core l n : Nat) : (s.leaf core l n).pages = s.pages := rfl
@[simp] theorem State.mem_leaf (s : State) (core l n : Nat) : (s.leaf core l n).mem = s.mem := rfl
@[simp] theorem State.sched_leaf (s : State) (core l n : Nat) : (s.leaf core l n).sched = s.sched := rfl
@[simp] theorem State.steps_leaf (s : State) (core l n : Nat) : (s.leaf core l n).steps = s.steps := rfl
@[simp] theorem State.images_leaf (s : State) (core l n : Nat) : (s.leaf core l n).images = s.images := rfl
@[simp] theorem State.links_leaf (s : State) (core l n : Nat) : (s.leaf core l n).links = s.links := rfl
@[simp] theorem State.firm_leaf (s : State) (core l n : Nat) : (s.leaf core l n).firm = s.firm := rfl
@[simp] theorem State.trace_leaf (s : State) (core l n : Nat) : (s.leaf core l n).trace = s.trace := rfl
@[simp] theorem State.issue_leaf (s : State) (core l n : Nat) : (s.leaf core l n).issue = s.issue := rfl
@[simp] theorem State.turns_leaf (s : State) (core l n : Nat) : (s.leaf core l n).turns = s.turns := rfl
@[simp] theorem State.fresh_leaf (s : State) (core l n : Nat) : (s.leaf core l n).fresh = s.fresh := rfl

/-! ### goTo -/

@[simp] theorem State.clock_goTo (s : State) (wk : Nat) (m : Mask) (pc : Word) : (s.goTo wk m pc).clock = s.clock := rfl
@[simp] theorem State.groups_goTo (s : State) (wk : Nat) (m : Mask) (pc : Word) : (s.goTo wk m pc).groups = s.groups := rfl
@[simp] theorem State.launches_goTo (s : State) (wk : Nat) (m : Mask) (pc : Word) : (s.goTo wk m pc).launches = s.launches := rfl
@[simp] theorem State.cores_goTo (s : State) (wk : Nat) (m : Mask) (pc : Word) : (s.goTo wk m pc).cores = s.cores := rfl
@[simp] theorem State.gantries_goTo (s : State) (wk : Nat) (m : Mask) (pc : Word) : (s.goTo wk m pc).gantries = s.gantries := rfl
@[simp] theorem State.ops_goTo (s : State) (wk : Nat) (m : Mask) (pc : Word) : (s.goTo wk m pc).ops = s.ops := rfl
@[simp] theorem State.qwait_goTo (s : State) (wk : Nat) (m : Mask) (pc : Word) : (s.goTo wk m pc).qwait = s.qwait := rfl
@[simp] theorem State.pages_goTo (s : State) (wk : Nat) (m : Mask) (pc : Word) : (s.goTo wk m pc).pages = s.pages := rfl
@[simp] theorem State.mem_goTo (s : State) (wk : Nat) (m : Mask) (pc : Word) : (s.goTo wk m pc).mem = s.mem := rfl
@[simp] theorem State.sched_goTo (s : State) (wk : Nat) (m : Mask) (pc : Word) : (s.goTo wk m pc).sched = s.sched := rfl
@[simp] theorem State.steps_goTo (s : State) (wk : Nat) (m : Mask) (pc : Word) : (s.goTo wk m pc).steps = s.steps := rfl
@[simp] theorem State.images_goTo (s : State) (wk : Nat) (m : Mask) (pc : Word) : (s.goTo wk m pc).images = s.images := rfl
@[simp] theorem State.links_goTo (s : State) (wk : Nat) (m : Mask) (pc : Word) : (s.goTo wk m pc).links = s.links := rfl
@[simp] theorem State.firm_goTo (s : State) (wk : Nat) (m : Mask) (pc : Word) : (s.goTo wk m pc).firm = s.firm := rfl
@[simp] theorem State.trace_goTo (s : State) (wk : Nat) (m : Mask) (pc : Word) : (s.goTo wk m pc).trace = s.trace := rfl
@[simp] theorem State.issue_goTo (s : State) (wk : Nat) (m : Mask) (pc : Word) : (s.goTo wk m pc).issue = s.issue := rfl
@[simp] theorem State.turns_goTo (s : State) (wk : Nat) (m : Mask) (pc : Word) : (s.goTo wk m pc).turns = s.turns := rfl
@[simp] theorem State.fresh_goTo (s : State) (wk : Nat) (m : Mask) (pc : Word) : (s.goTo wk m pc).fresh = s.fresh := rfl

/-! ### setMem -/

@[simp] theorem State.clock_setMem (s : State) (m : MemSys) : (s.setMem m).clock = s.clock := rfl
@[simp] theorem State.warps_setMem (s : State) (m : MemSys) : (s.setMem m).warps = s.warps := rfl
@[simp] theorem State.groups_setMem (s : State) (m : MemSys) : (s.setMem m).groups = s.groups := rfl
@[simp] theorem State.launches_setMem (s : State) (m : MemSys) : (s.setMem m).launches = s.launches := rfl
@[simp] theorem State.cores_setMem (s : State) (m : MemSys) : (s.setMem m).cores = s.cores := rfl
@[simp] theorem State.gantries_setMem (s : State) (m : MemSys) : (s.setMem m).gantries = s.gantries := rfl
@[simp] theorem State.ops_setMem (s : State) (m : MemSys) : (s.setMem m).ops = s.ops := rfl
@[simp] theorem State.qwait_setMem (s : State) (m : MemSys) : (s.setMem m).qwait = s.qwait := rfl
@[simp] theorem State.pages_setMem (s : State) (m : MemSys) : (s.setMem m).pages = s.pages := rfl
@[simp] theorem State.sched_setMem (s : State) (m : MemSys) : (s.setMem m).sched = s.sched := rfl
@[simp] theorem State.steps_setMem (s : State) (m : MemSys) : (s.setMem m).steps = s.steps := rfl
@[simp] theorem State.images_setMem (s : State) (m : MemSys) : (s.setMem m).images = s.images := rfl
@[simp] theorem State.links_setMem (s : State) (m : MemSys) : (s.setMem m).links = s.links := rfl
@[simp] theorem State.firm_setMem (s : State) (m : MemSys) : (s.setMem m).firm = s.firm := rfl
@[simp] theorem State.trace_setMem (s : State) (m : MemSys) : (s.setMem m).trace = s.trace := rfl
@[simp] theorem State.issue_setMem (s : State) (m : MemSys) : (s.setMem m).issue = s.issue := rfl
@[simp] theorem State.turns_setMem (s : State) (m : MemSys) : (s.setMem m).turns = s.turns := rfl
@[simp] theorem State.fresh_setMem (s : State) (m : MemSys) : (s.setMem m).fresh = s.fresh := rfl

/-! ### rawWrite -/

@[simp] theorem State.clock_rawWrite (s : State) (t : Target) (pa : Nat) (bs : List Byte) : (s.rawWrite t pa bs).clock = s.clock := rfl
@[simp] theorem State.warps_rawWrite (s : State) (t : Target) (pa : Nat) (bs : List Byte) : (s.rawWrite t pa bs).warps = s.warps := rfl
@[simp] theorem State.groups_rawWrite (s : State) (t : Target) (pa : Nat) (bs : List Byte) : (s.rawWrite t pa bs).groups = s.groups := rfl
@[simp] theorem State.launches_rawWrite (s : State) (t : Target) (pa : Nat) (bs : List Byte) : (s.rawWrite t pa bs).launches = s.launches := rfl
@[simp] theorem State.cores_rawWrite (s : State) (t : Target) (pa : Nat) (bs : List Byte) : (s.rawWrite t pa bs).cores = s.cores := rfl
@[simp] theorem State.gantries_rawWrite (s : State) (t : Target) (pa : Nat) (bs : List Byte) : (s.rawWrite t pa bs).gantries = s.gantries := rfl
@[simp] theorem State.ops_rawWrite (s : State) (t : Target) (pa : Nat) (bs : List Byte) : (s.rawWrite t pa bs).ops = s.ops := rfl
@[simp] theorem State.qwait_rawWrite (s : State) (t : Target) (pa : Nat) (bs : List Byte) : (s.rawWrite t pa bs).qwait = s.qwait := rfl
@[simp] theorem State.pages_rawWrite (s : State) (t : Target) (pa : Nat) (bs : List Byte) : (s.rawWrite t pa bs).pages = s.pages := rfl
@[simp] theorem State.sched_rawWrite (s : State) (t : Target) (pa : Nat) (bs : List Byte) : (s.rawWrite t pa bs).sched = s.sched := rfl
@[simp] theorem State.steps_rawWrite (s : State) (t : Target) (pa : Nat) (bs : List Byte) : (s.rawWrite t pa bs).steps = s.steps := rfl
@[simp] theorem State.images_rawWrite (s : State) (t : Target) (pa : Nat) (bs : List Byte) : (s.rawWrite t pa bs).images = s.images := rfl
@[simp] theorem State.links_rawWrite (s : State) (t : Target) (pa : Nat) (bs : List Byte) : (s.rawWrite t pa bs).links = s.links := rfl
@[simp] theorem State.firm_rawWrite (s : State) (t : Target) (pa : Nat) (bs : List Byte) : (s.rawWrite t pa bs).firm = s.firm := rfl
@[simp] theorem State.trace_rawWrite (s : State) (t : Target) (pa : Nat) (bs : List Byte) : (s.rawWrite t pa bs).trace = s.trace := rfl
@[simp] theorem State.issue_rawWrite (s : State) (t : Target) (pa : Nat) (bs : List Byte) : (s.rawWrite t pa bs).issue = s.issue := rfl
@[simp] theorem State.turns_rawWrite (s : State) (t : Target) (pa : Nat) (bs : List Byte) : (s.rawWrite t pa bs).turns = s.turns := rfl
@[simp] theorem State.fresh_rawWrite (s : State) (t : Target) (pa : Nat) (bs : List Byte) : (s.rawWrite t pa bs).fresh = s.fresh := rfl

/-! ### modPages -/

@[simp] theorem State.clock_modPages (s : State) (f : PageSys → PageSys) : (s.modPages f).clock = s.clock := rfl
@[simp] theorem State.warps_modPages (s : State) (f : PageSys → PageSys) : (s.modPages f).warps = s.warps := rfl
@[simp] theorem State.groups_modPages (s : State) (f : PageSys → PageSys) : (s.modPages f).groups = s.groups := rfl
@[simp] theorem State.launches_modPages (s : State) (f : PageSys → PageSys) : (s.modPages f).launches = s.launches := rfl
@[simp] theorem State.cores_modPages (s : State) (f : PageSys → PageSys) : (s.modPages f).cores = s.cores := rfl
@[simp] theorem State.gantries_modPages (s : State) (f : PageSys → PageSys) : (s.modPages f).gantries = s.gantries := rfl
@[simp] theorem State.ops_modPages (s : State) (f : PageSys → PageSys) : (s.modPages f).ops = s.ops := rfl
@[simp] theorem State.qwait_modPages (s : State) (f : PageSys → PageSys) : (s.modPages f).qwait = s.qwait := rfl
@[simp] theorem State.mem_modPages (s : State) (f : PageSys → PageSys) : (s.modPages f).mem = s.mem := rfl
@[simp] theorem State.sched_modPages (s : State) (f : PageSys → PageSys) : (s.modPages f).sched = s.sched := rfl
@[simp] theorem State.steps_modPages (s : State) (f : PageSys → PageSys) : (s.modPages f).steps = s.steps := rfl
@[simp] theorem State.images_modPages (s : State) (f : PageSys → PageSys) : (s.modPages f).images = s.images := rfl
@[simp] theorem State.links_modPages (s : State) (f : PageSys → PageSys) : (s.modPages f).links = s.links := rfl
@[simp] theorem State.firm_modPages (s : State) (f : PageSys → PageSys) : (s.modPages f).firm = s.firm := rfl
@[simp] theorem State.trace_modPages (s : State) (f : PageSys → PageSys) : (s.modPages f).trace = s.trace := rfl
@[simp] theorem State.issue_modPages (s : State) (f : PageSys → PageSys) : (s.modPages f).issue = s.issue := rfl
@[simp] theorem State.turns_modPages (s : State) (f : PageSys → PageSys) : (s.modPages f).turns = s.turns := rfl
@[simp] theorem State.fresh_modPages (s : State) (f : PageSys → PageSys) : (s.modPages f).fresh = s.fresh := rfl

/-! ### setDesc -/

@[simp] theorem State.clock_setDesc (s : State) (lpn : Nat) (d : Desc) : (s.setDesc lpn d).clock = s.clock := rfl
@[simp] theorem State.warps_setDesc (s : State) (lpn : Nat) (d : Desc) : (s.setDesc lpn d).warps = s.warps := rfl
@[simp] theorem State.groups_setDesc (s : State) (lpn : Nat) (d : Desc) : (s.setDesc lpn d).groups = s.groups := rfl
@[simp] theorem State.launches_setDesc (s : State) (lpn : Nat) (d : Desc) : (s.setDesc lpn d).launches = s.launches := rfl
@[simp] theorem State.cores_setDesc (s : State) (lpn : Nat) (d : Desc) : (s.setDesc lpn d).cores = s.cores := rfl
@[simp] theorem State.gantries_setDesc (s : State) (lpn : Nat) (d : Desc) : (s.setDesc lpn d).gantries = s.gantries := rfl
@[simp] theorem State.ops_setDesc (s : State) (lpn : Nat) (d : Desc) : (s.setDesc lpn d).ops = s.ops := rfl
@[simp] theorem State.qwait_setDesc (s : State) (lpn : Nat) (d : Desc) : (s.setDesc lpn d).qwait = s.qwait := rfl
@[simp] theorem State.mem_setDesc (s : State) (lpn : Nat) (d : Desc) : (s.setDesc lpn d).mem = s.mem := rfl
@[simp] theorem State.sched_setDesc (s : State) (lpn : Nat) (d : Desc) : (s.setDesc lpn d).sched = s.sched := rfl
@[simp] theorem State.steps_setDesc (s : State) (lpn : Nat) (d : Desc) : (s.setDesc lpn d).steps = s.steps := rfl
@[simp] theorem State.images_setDesc (s : State) (lpn : Nat) (d : Desc) : (s.setDesc lpn d).images = s.images := rfl
@[simp] theorem State.links_setDesc (s : State) (lpn : Nat) (d : Desc) : (s.setDesc lpn d).links = s.links := rfl
@[simp] theorem State.firm_setDesc (s : State) (lpn : Nat) (d : Desc) : (s.setDesc lpn d).firm = s.firm := rfl
@[simp] theorem State.trace_setDesc (s : State) (lpn : Nat) (d : Desc) : (s.setDesc lpn d).trace = s.trace := rfl
@[simp] theorem State.issue_setDesc (s : State) (lpn : Nat) (d : Desc) : (s.setDesc lpn d).issue = s.issue := rfl
@[simp] theorem State.turns_setDesc (s : State) (lpn : Nat) (d : Desc) : (s.setDesc lpn d).turns = s.turns := rfl
@[simp] theorem State.fresh_setDesc (s : State) (lpn : Nat) (d : Desc) : (s.setDesc lpn d).fresh = s.fresh := rfl

/-! ### putSummary -/

@[simp] theorem State.clock_putSummary (s : State) (slot : Nat) (m : Summary) : (s.putSummary slot m).clock = s.clock := rfl
@[simp] theorem State.warps_putSummary (s : State) (slot : Nat) (m : Summary) : (s.putSummary slot m).warps = s.warps := rfl
@[simp] theorem State.groups_putSummary (s : State) (slot : Nat) (m : Summary) : (s.putSummary slot m).groups = s.groups := rfl
@[simp] theorem State.launches_putSummary (s : State) (slot : Nat) (m : Summary) : (s.putSummary slot m).launches = s.launches := rfl
@[simp] theorem State.cores_putSummary (s : State) (slot : Nat) (m : Summary) : (s.putSummary slot m).cores = s.cores := rfl
@[simp] theorem State.gantries_putSummary (s : State) (slot : Nat) (m : Summary) : (s.putSummary slot m).gantries = s.gantries := rfl
@[simp] theorem State.ops_putSummary (s : State) (slot : Nat) (m : Summary) : (s.putSummary slot m).ops = s.ops := rfl
@[simp] theorem State.qwait_putSummary (s : State) (slot : Nat) (m : Summary) : (s.putSummary slot m).qwait = s.qwait := rfl
@[simp] theorem State.mem_putSummary (s : State) (slot : Nat) (m : Summary) : (s.putSummary slot m).mem = s.mem := rfl
@[simp] theorem State.sched_putSummary (s : State) (slot : Nat) (m : Summary) : (s.putSummary slot m).sched = s.sched := rfl
@[simp] theorem State.steps_putSummary (s : State) (slot : Nat) (m : Summary) : (s.putSummary slot m).steps = s.steps := rfl
@[simp] theorem State.images_putSummary (s : State) (slot : Nat) (m : Summary) : (s.putSummary slot m).images = s.images := rfl
@[simp] theorem State.links_putSummary (s : State) (slot : Nat) (m : Summary) : (s.putSummary slot m).links = s.links := rfl
@[simp] theorem State.firm_putSummary (s : State) (slot : Nat) (m : Summary) : (s.putSummary slot m).firm = s.firm := rfl
@[simp] theorem State.trace_putSummary (s : State) (slot : Nat) (m : Summary) : (s.putSummary slot m).trace = s.trace := rfl
@[simp] theorem State.issue_putSummary (s : State) (slot : Nat) (m : Summary) : (s.putSummary slot m).issue = s.issue := rfl
@[simp] theorem State.turns_putSummary (s : State) (slot : Nat) (m : Summary) : (s.putSummary slot m).turns = s.turns := rfl
@[simp] theorem State.fresh_putSummary (s : State) (slot : Nat) (m : Summary) : (s.putSummary slot m).fresh = s.fresh := rfl

/-! ### modGantry -/

@[simp] theorem State.clock_modGantry (s : State) (u : Nat) (f : Gantry → Gantry) : (s.modGantry u f).clock = s.clock := rfl
@[simp] theorem State.warps_modGantry (s : State) (u : Nat) (f : Gantry → Gantry) : (s.modGantry u f).warps = s.warps := rfl
@[simp] theorem State.groups_modGantry (s : State) (u : Nat) (f : Gantry → Gantry) : (s.modGantry u f).groups = s.groups := rfl
@[simp] theorem State.launches_modGantry (s : State) (u : Nat) (f : Gantry → Gantry) : (s.modGantry u f).launches = s.launches := rfl
@[simp] theorem State.cores_modGantry (s : State) (u : Nat) (f : Gantry → Gantry) : (s.modGantry u f).cores = s.cores := rfl
@[simp] theorem State.ops_modGantry (s : State) (u : Nat) (f : Gantry → Gantry) : (s.modGantry u f).ops = s.ops := rfl
@[simp] theorem State.qwait_modGantry (s : State) (u : Nat) (f : Gantry → Gantry) : (s.modGantry u f).qwait = s.qwait := rfl
@[simp] theorem State.pages_modGantry (s : State) (u : Nat) (f : Gantry → Gantry) : (s.modGantry u f).pages = s.pages := rfl
@[simp] theorem State.mem_modGantry (s : State) (u : Nat) (f : Gantry → Gantry) : (s.modGantry u f).mem = s.mem := rfl
@[simp] theorem State.sched_modGantry (s : State) (u : Nat) (f : Gantry → Gantry) : (s.modGantry u f).sched = s.sched := rfl
@[simp] theorem State.steps_modGantry (s : State) (u : Nat) (f : Gantry → Gantry) : (s.modGantry u f).steps = s.steps := rfl
@[simp] theorem State.images_modGantry (s : State) (u : Nat) (f : Gantry → Gantry) : (s.modGantry u f).images = s.images := rfl
@[simp] theorem State.links_modGantry (s : State) (u : Nat) (f : Gantry → Gantry) : (s.modGantry u f).links = s.links := rfl
@[simp] theorem State.firm_modGantry (s : State) (u : Nat) (f : Gantry → Gantry) : (s.modGantry u f).firm = s.firm := rfl
@[simp] theorem State.trace_modGantry (s : State) (u : Nat) (f : Gantry → Gantry) : (s.modGantry u f).trace = s.trace := rfl
@[simp] theorem State.issue_modGantry (s : State) (u : Nat) (f : Gantry → Gantry) : (s.modGantry u f).issue = s.issue := rfl
@[simp] theorem State.turns_modGantry (s : State) (u : Nat) (f : Gantry → Gantry) : (s.modGantry u f).turns = s.turns := rfl
@[simp] theorem State.fresh_modGantry (s : State) (u : Nat) (f : Gantry → Gantry) : (s.modGantry u f).fresh = s.fresh := rfl

/-! ### pass -/

@[simp] theorem State.warps_pass (s : State) (n : Nat) : (s.pass n).warps = s.warps := rfl
@[simp] theorem State.groups_pass (s : State) (n : Nat) : (s.pass n).groups = s.groups := rfl
@[simp] theorem State.cores_pass (s : State) (n : Nat) : (s.pass n).cores = s.cores := rfl
@[simp] theorem State.gantries_pass (s : State) (n : Nat) : (s.pass n).gantries = s.gantries := rfl
@[simp] theorem State.ops_pass (s : State) (n : Nat) : (s.pass n).ops = s.ops := rfl
@[simp] theorem State.qwait_pass (s : State) (n : Nat) : (s.pass n).qwait = s.qwait := rfl
@[simp] theorem State.pages_pass (s : State) (n : Nat) : (s.pass n).pages = s.pages := rfl
@[simp] theorem State.mem_pass (s : State) (n : Nat) : (s.pass n).mem = s.mem := rfl
@[simp] theorem State.sched_pass (s : State) (n : Nat) : (s.pass n).sched = s.sched := rfl
@[simp] theorem State.steps_pass (s : State) (n : Nat) : (s.pass n).steps = s.steps := rfl
@[simp] theorem State.images_pass (s : State) (n : Nat) : (s.pass n).images = s.images := rfl
@[simp] theorem State.links_pass (s : State) (n : Nat) : (s.pass n).links = s.links := rfl
@[simp] theorem State.firm_pass (s : State) (n : Nat) : (s.pass n).firm = s.firm := rfl
@[simp] theorem State.trace_pass (s : State) (n : Nat) : (s.pass n).trace = s.trace := rfl
@[simp] theorem State.issue_pass (s : State) (n : Nat) : (s.pass n).issue = s.issue := rfl
@[simp] theorem State.turns_pass (s : State) (n : Nat) : (s.pass n).turns = s.turns := rfl
@[simp] theorem State.fresh_pass (s : State) (n : Nat) : (s.pass n).fresh = s.fresh := rfl

/-! ### tick -/

@[simp] theorem State.warps_tick (s : State) : s.tick.warps = s.warps := rfl
@[simp] theorem State.groups_tick (s : State) : s.tick.groups = s.groups := rfl
@[simp] theorem State.cores_tick (s : State) : s.tick.cores = s.cores := rfl
@[simp] theorem State.gantries_tick (s : State) : s.tick.gantries = s.gantries := rfl
@[simp] theorem State.ops_tick (s : State) : s.tick.ops = s.ops := rfl
@[simp] theorem State.qwait_tick (s : State) : s.tick.qwait = s.qwait := rfl
@[simp] theorem State.pages_tick (s : State) : s.tick.pages = s.pages := rfl
@[simp] theorem State.mem_tick (s : State) : s.tick.mem = s.mem := rfl
@[simp] theorem State.sched_tick (s : State) : s.tick.sched = s.sched := rfl
@[simp] theorem State.steps_tick (s : State) : s.tick.steps = s.steps := rfl
@[simp] theorem State.images_tick (s : State) : s.tick.images = s.images := rfl
@[simp] theorem State.links_tick (s : State) : s.tick.links = s.links := rfl
@[simp] theorem State.firm_tick (s : State) : s.tick.firm = s.firm := rfl
@[simp] theorem State.trace_tick (s : State) : s.tick.trace = s.trace := rfl
@[simp] theorem State.issue_tick (s : State) : s.tick.issue = s.issue := rfl
@[simp] theorem State.turns_tick (s : State) : s.tick.turns = s.turns := rfl
@[simp] theorem State.fresh_tick (s : State) : s.tick.fresh = s.fresh := rfl

/-! ### What is written reads back -/

@[simp] theorem State.group?_setGroup (s : State) (g k : Nat) (v : Group) : (s.setGroup g v).group? k = if k = g then some v else s.group? k :=
  Sparse.find_insert _ _ _ _
@[simp] theorem State.group?_modGroup (s : State) (g k : Nat) (f : Group → Group) : (s.modGroup g f).group? k = if k = g then (s.group? k).map f else s.group? k :=
  Sparse.find_modify _ _ _ _
@[simp] theorem State.launch?_modLaunch (s : State) (l k : Nat) (f : Launch → Launch) :
    (s.modLaunch l f).launch? k = if k = l then (s.launch? k).map f else s.launch? k := Sparse.find_modify _ _ _ _
@[simp] theorem State.fresh_bump (s : State) : s.bump.fresh = s.fresh + 1 := rfl
@[simp] theorem State.mem_setMem (s : State) (m : MemSys) : (s.setMem m).mem = m := rfl
@[simp] theorem State.pages_modPages (s : State) (f : PageSys → PageSys) : (s.modPages f).pages = f s.pages := rfl
theorem State.desc_setDesc (s : State) (lpn n : Nat) (d : Desc) : (s.setDesc lpn d).desc n = if n = lpn then d else s.desc n := by
  unfold State.desc State.setDesc State.modPages
  rw [Sparse.find_insert]
  split <;> rfl
theorem State.gantry_modGantry (s : State) (u v : Nat) (f : Gantry → Gantry) : (s.modGantry u f).gantry v = if v = u then f (s.gantry v) else s.gantry v := by
  unfold State.gantry State.modGantry
  rw [Sparse.find_insert]
  split
  · rename_i h
    rw [h]
    rfl
  · rfl

end Sys2Proof.Machine
end

