-- ==== Sys2Proof/Laws/Memory.lean ====
section
/-! SUPPORT. The memories of the machine: what is put into one reads back, the others stay, every operation that writes bytes keeps the
canonical form (DESIGN CHOICE, log entry 4), and the memories after reset have it. -/

namespace Sys2Proof.Machine

/-! ### The memories of the targets -/

theorem MemSys.of_put (m : MemSys) (t u : Target) (v : Memory) : (m.put t v).of u = if u = t then v else m.of u := by
  cases t <;> cases u <;> try rfl
  rename_i a b
  show (Sparse.find (if v = [] then Sparse.erase m.peers a else Sparse.insert m.peers a v) b).getD [] = if Target.peer b = Target.peer a then v else (Sparse.find m.peers b).getD []
  by_cases hv : v = []
  · rw [if_pos hv, hv]
    simp only [Sparse.find_erase, Target.peer.injEq]
    split <;> rfl
  · rw [if_neg hv]
    simp only [Sparse.find_insert, Target.peer.injEq]
    split <;> rfl

theorem State.of_rawWrite (s : State) (t u : Target) (pa : Nat) (bs : List Byte) :
    (s.rawWrite t pa bs).mem.of u = if u = t then (s.mem.of t).setBytes pa bs else s.mem.of u := MemSys.of_put _ _ _ _

theorem MemSys.put_wf (m : MemSys) (t : Target) (v : Memory) (h : ∀ u, (m.of u).wf = true) (hv : v.wf = true) (u : Target) : ((m.put t v).of u).wf = true := by
  rw [MemSys.of_put]
  split
  · exact hv
  · exact h u

/-- Bytes written to a memory keep every memory's form. -/
theorem State.rawWrite_wf (s : State) (t : Target) (pa : Nat) (bs : List Byte) (h : ∀ u, (s.mem.of u).wf = true) (u : Target) :
    ((s.rawWrite t pa bs).mem.of u).wf = true :=
  MemSys.put_wf _ _ _ h (Memory.wf_setBytes _ _ _ (h t)) u

/-! What the codec keeps beside the bytes changes no byte. -/

theorem MemSys.of_unshare (m : MemSys) (line : Nat) (u : Target) : (m.unshare line).of u = m.of u := by
  unfold MemSys.unshare
  split <;> cases u <;> rfl

theorem MemSys.of_encode (m : MemSys) (line : Nat) (u : Target) : (m.encode line).of u = m.of u := by
  rw [← MemSys.of_unshare m line u]
  cases u <;> rfl

theorem MemSys.of_dedup (m : MemSys) (line : Nat) (u : Target) : (m.dedup line).of u = m.of u := by
  unfold MemSys.dedup
  dsimp only
  split
  · rw [← MemSys.of_unshare m line u]
    cases u <;> rfl
  · cases u <;> rfl

/-- So do a write with its repair (R222), -/
theorem State.write_wf (s : State) (t : Target) (pa : Nat) (bs : List Byte) (h : ∀ u, (s.mem.of u).wf = true) (u : Target) :
    ((s.write t pa bs).mem.of u).wf = true := by
  unfold State.write
  split
  · dsimp only
    rw [MemSys.of_encode]
    refine State.rawWrite_wf _ .hbm pa bs (fun v => ?_) u
    split
    · exact h v
    · exact State.rawWrite_wf s .hbm _ _ h v
  · exact State.rawWrite_wf s _ pa bs h u

theorem MemSys.of_writeBack (m : MemSys) (key : Nat) (u : Target) : (m.writeBack key).of u = m.of u := by
  unfold MemSys.writeBack
  split
  · split
    · rfl
    · refine Eq.trans (b := (if key / 2 ^ 64 = 0 then m.dedup (key % 2 ^ 64) else m).of u) (by cases u <;> rfl) ?_
      split
      · exact MemSys.of_dedup _ _ u
      · rfl
  · rfl

theorem State.of_evictHome (s : State) (key : Nat) (u : Target) : (s.evictHome key).mem.of u = s.mem.of u := by
  have hm : ∀ m : MemSys, (∀ v, m.of v = s.mem.of v) → ∀ l r q, ({ m with lines := l, rel := r, sliceReg := q } : MemSys).of u = s.mem.of u := by
    intro m h l r q
    rw [← h u]
    cases u <;> rfl
  exact hm _ (fun v => MemSys.of_writeBack s.mem key v) _ _ _

theorem State.of_homeRoom (s : State) (slice : Nat) (u : Target) : (s.homeRoom slice).mem.of u = s.mem.of u := by
  unfold State.homeRoom State.evictFrom
  split
  · rfl
  · split
    · exact State.of_evictHome s _ u
    · rfl

theorem State.of_touchHome (s : State) (t u : Target) (pa hint : Nat) (w : Bool) : (s.touchHome t pa hint w).mem.of u = s.mem.of u := by
  have hm : ∀ (m : MemSys) l n r, ({ m with lines := l, uses := n, rel := r } : MemSys).of u = m.of u := by
    intro m l n r
    cases u <;> rfl
  unfold State.touchHome
  split
  · rfl
  · refine (hm _ _ _ _).trans ?_
    split
    · rfl
    · exact State.of_homeRoom s _ u

theorem State.of_noteYoung (s : State) (t u : Target) (pa n : Nat) : (s.noteYoung t pa n).mem.of u = s.mem.of u := by cases u <;> rfl

theorem State.of_notify (s : State) (p : Watch → Bool) (u : Target) : (s.notify p).mem.of u = s.mem.of u := by cases u <;> rfl

/-- a write at its point of performance, -/
theorem State.performWrite_wf (s : State) (t : Target) (pa : Nat) (bs : List Byte) (st : Stamp) (hint : Nat) (h : ∀ u, (s.mem.of u).wf = true) (u : Target) :
    ((s.performWrite t pa bs st hint).mem.of u).wf = true := by
  unfold State.performWrite
  split
  · exact h u
  · rw [State.of_notify]
    have hw := fun v => State.write_wf ((s.noteYoung t pa bs.length).touchHome t pa hint true) t pa bs
      (fun v => by rw [State.of_touchHome, State.of_noteYoung]; exact h v) v
    split
    · have := hw u
      cases u <;> exact this
    · exact hw u

/-- a write to a vault, -/
theorem State.performVault_wf (s : State) (core off : Nat) (bs : List Byte) (st : Stamp) (h : ∀ n, (s.coreOf n).vault.wf = true) (n : Nat) :
    ((s.performVault core off bs st).coreOf n).vault.wf = true := by
  unfold State.performVault State.notify State.coreOf State.modCore State.setCore
  dsimp only
  rw [Sparse.find_insert]
  split
  · exact Memory.wf_setBytes _ _ _ (h core)
  · exact h n

/-- and a write to a scratchpad. -/
theorem State.performScratch_wf (s : State) (gid off : Nat) (bs : List Byte) (st : Stamp) (h : ∀ g v, s.group? g = some v → v.scratch.wf = true) (g : Nat) (v : Group)
    (hv : (s.performScratch gid off bs st).group? g = some v) : v.scratch.wf = true := by
  have hv : (s.modGroup gid fun g =>
    { g with scratch := g.scratch.setBytes off bs
             scratchRel := (locsOf off bs.length).foldl (fun r l => setRel r l (st.on ((Sparse.find r l).getD 0))) g.scratchRel }).group? g = some v := hv
  rw [State.group?_modGroup] at hv
  split at hv
  · obtain ⟨w, hw, rfl⟩ := Option.map_eq_some_iff.mp hv
    exact Memory.wf_setBytes _ _ _ (h _ _ hw)
  · exact h _ _ hv

/-! ### After reset -/

theorem State.reset_memory_wf (t : Target) : (State.reset.mem.of t).wf = true := by cases t <;> rfl

end Sys2Proof.Machine
end

