-- ==== Sys2Proof/Laws/Pages.lean ====
section
/-! SUPPORT. What an engine reads and writes in memory leaves the page system as it is: its descriptors, summaries, images under way and
the Manifest change by the operations on pages alone. -/

namespace Sys2Proof.Machine

@[simp] theorem State.pages_notify (s : State) (p : Watch → Bool) : (s.notify p).pages = s.pages := rfl
@[simp] theorem State.pages_modPends (s : State) (core : Nat) (f : Pending → Pending) : (s.modPends core f).pages = s.pages := rfl
@[simp] theorem State.pages_killReuse (s : State) (core : Nat) (keys : List Nat) : (s.killReuse core keys).pages = s.pages := rfl
@[simp] theorem State.pages_noteYoung (s : State) (t : Target) (pa n : Nat) : (s.noteYoung t pa n).pages = s.pages := rfl
@[simp] theorem State.pages_stage (s : State) (gid : Nat) (r : Staged) (bs : List Byte) : (s.stage gid r bs).pages = s.pages := rfl
@[simp] theorem State.pages_performVault (s : State) (core off : Nat) (bs : List Byte) (st : Stamp) : (s.performVault core off bs st).pages = s.pages := rfl
@[simp] theorem State.pages_performScratch (s : State) (gid off : Nat) (bs : List Byte) (st : Stamp) : (s.performScratch gid off bs st).pages = s.pages := rfl
@[simp] theorem State.pages_unstageTickets (s : State) (rs : List Staged) : (s.unstageTickets rs).pages = s.pages := rfl
@[simp] theorem State.pages_setOp (s : State) (id : Nat) (f : EngOp → EngOp) : (s.setOp id f).pages = s.pages := rfl

@[simp] theorem State.pages_noteBad (s : State) (line kind sectors : Nat) : (s.noteBad line kind sectors).pages = s.pages := by
  unfold State.noteBad
  split <;> rfl

@[simp] theorem State.pages_noteLines (s : State) (t : Target) (n : Nat) (as : List Nat) : (s.noteLines t n as).pages = s.pages := by
  induction as generalizing s with
  | nil => rfl
  | cons a as ih =>
    simp only [State.noteLines]
    split <;> rw [ih]
    split <;> simp

@[simp] theorem State.pages_useTlb (s : State) (va : Word) : (s.useTlb va).pages = s.pages := by
  unfold State.useTlb
  split
  · rfl
  · dsimp only
    split <;> simp

@[simp] theorem State.pages_linkErr (s : State) (t : Target) : (s.linkErr t).pages = s.pages := by
  cases t <;> rfl

@[simp] theorem State.pages_engLink (s : State) (w : Warp) (space : Nat) (va : Word) (p : Perm) : (s.engLink w space va p).pages = s.pages := by
  unfold State.engLink
  split
  · split <;> simp
  · rfl

@[simp] theorem State.pages_homeRoom (s : State) (slice : Nat) : (s.homeRoom slice).pages = s.pages := by
  unfold State.homeRoom State.evictFrom
  split
  · rfl
  · split <;> rfl

@[simp] theorem State.pages_touchHome (s : State) (t : Target) (pa hint : Nat) (write : Bool) : (s.touchHome t pa hint write).pages = s.pages := by
  unfold State.touchHome
  split
  · rfl
  · show (if (Sparse.find s.mem.lines (lineKey t pa)).isSome then s else s.homeRoom (homeSlice t pa)).pages = _
    split <;> simp

@[simp] theorem State.pages_write (s : State) (t : Target) (pa : Nat) (bs : List Byte) : (s.write t pa bs).pages = s.pages := by
  unfold State.write
  split
  · show (if (s.lineBad .hbm pa).isNone ∨ bs.length = 128 then s else s.rawWrite .hbm (pa / 128 * 128) (List.replicate 128 0)).pages = _
    split <;> simp
  · simp

@[simp] theorem State.pages_performWrite (s : State) (t : Target) (pa : Nat) (bs : List Byte) (st : Stamp) (hint : Nat) : (s.performWrite t pa bs st hint).pages = s.pages := by
  unfold State.performWrite
  split
  · rfl
  · dsimp only
    rw [State.pages_notify]
    split <;> simp

@[simp] theorem State.pages_noteDone (s : State) (gid c : Nat) : (s.noteDone gid c).pages = s.pages := by
  unfold State.noteDone
  split <;> rfl

@[simp] theorem State.pages_postAll (s : State) (gid : Nat) (rs : List Staged) : (s.postAll gid rs).pages = s.pages := by
  induction rs generalizing s with
  | nil => rfl
  | cons r rs ih => simp only [State.postAll]; rw [ih]; rfl

@[simp] theorem State.pages_releaseStaged (s : State) (gid : Nat) (which : Staged → Bool) : (s.releaseStaged gid which).pages = s.pages := by
  unfold State.releaseStaged
  split
  · rfl
  · dsimp only
    split
    · rfl
    · simp only [apply_ite State.pages, State.pages_modGroup, State.pages_modLaunch, State.pages_postAll, State.pages_unstageTickets, ite_self]

@[simp] theorem State.pages_releasePast (s : State) (gid : Nat) : (s.releasePast gid).pages = s.pages := by
  unfold State.releasePast
  split
  · rfl
  · split
    · split <;> simp
    · rfl

@[simp] theorem State.pages_engPut (s : State) (o : EngOp) (va : Word) (pl : Place) (bs : List Byte) (hint : Nat) : (s.engPut o va pl bs hint).1.pages = s.pages := by
  unfold State.engPut
  split
  · dsimp only
    split <;> split <;> simp
  · simp
  · simp

/-- An engine's write leaves the page system as it is. -/
@[simp] theorem State.pages_engWrite (s : State) (o : EngOp) (w : Warp) (space hint k : Nat) (va : Word) (bs : List Byte) :
    (s.engWrite o w space hint k va bs).1.pages = s.pages := by
  induction k generalizing s va bs with
  | zero => rfl
  | succ k ih =>
    simp only [State.engWrite]
    split
    · rfl
    · have h : (if space = 0 then s.useTlb va else s).pages = s.pages := by split <;> simp
      split
      · simp [h]
      · split
        · simp [h]
        · dsimp only
          rw [ih]
          simp [h]

@[simp] theorem State.pages_opWrite (s : State) (o : EngOp) (va : Word) (bs : List Byte) : (s.opWrite o va bs).pages = s.pages := by
  unfold State.opWrite
  simp

@[simp] theorem State.pages_imageNote (s : State) (tier addr n : Nat) : (s.imageNote tier addr n).pages = s.pages := by
  unfold State.imageNote
  generalize s.imageBad tier addr n = bad
  induction bad generalizing s with
  | nil => rfl
  | cons b bs ih => rw [List.foldl_cons, ih]; simp

/-- Outside flash, an image's bytes leave the page system as it is. -/
theorem State.pages_putImage (s : State) (tier addr : Nat) (bs : List Byte) (h : tier ≠ 2) : (s.putImage tier addr bs).pages = s.pages := by
  unfold State.putImage
  split
  · exact absurd rfl h
  · generalize List.range ((bs.length + 127) / 128) = ks
    induction ks generalizing s with
    | nil => rfl
    | cons k ks ih => rw [List.foldl_cons, ih]; simp

end Sys2Proof.Machine
end

