-- ==== Sys2Proof/Laws/PerInstr.lean ====
section
/-! SUPPORT. What every instruction has, said of each constructor: its opcode fits the field it is written in and names a row of its class table
(R30, R37), and a step that is no instruction word has no words. -/

namespace Sys2Proof.Laws.Coded

/-- An instruction's opcode fits its field and leads back to it. -/
def Statement (i : Instr) : Prop :=
  match i.form with
  | .compact cop c => cop < 2 ^ 5 ∧ compactInstr cop c = some i
  | .ext opc _ => opc < 2 ^ 9 ∧ ((opRow opc).map (·.opc)) = some opc
  | .event => encode i = []

theorem nopCompact (c : Compact) : Statement (.nopCompact c) := ⟨by decide, rfl⟩
theorem vmovCompact (c : Compact) : Statement (.vmovCompact c) := ⟨by decide, rfl⟩
theorem iaddU64Compact (c : Compact) : Statement (.iaddU64Compact c) := ⟨by decide, rfl⟩
theorem isubU64Compact (c : Compact) : Statement (.isubU64Compact c) := ⟨by decide, rfl⟩
theorem imulU64Compact (c : Compact) : Statement (.imulU64Compact c) := ⟨by decide, rfl⟩
theorem imadU64Compact (c : Compact) : Statement (.imadU64Compact c) := ⟨by decide, rfl⟩
theorem iminI64Compact (c : Compact) : Statement (.iminI64Compact c) := ⟨by decide, rfl⟩
theorem imaxI64Compact (c : Compact) : Statement (.imaxI64Compact c) := ⟨by decide, rfl⟩
theorem iaddU32x2Compact (c : Compact) : Statement (.iaddU32x2Compact c) := ⟨by decide, rfl⟩
theorem andB64Compact (c : Compact) : Statement (.andB64Compact c) := ⟨by decide, rfl⟩
theorem orB64Compact (c : Compact) : Statement (.orB64Compact c) := ⟨by decide, rfl⟩
theorem xorB64Compact (c : Compact) : Statement (.xorB64Compact c) := ⟨by decide, rfl⟩
theorem shlB64Compact (c : Compact) : Statement (.shlB64Compact c) := ⟨by decide, rfl⟩
theorem shrB64Compact (c : Compact) : Statement (.shrB64Compact c) := ⟨by decide, rfl⟩
theorem sarI64Compact (c : Compact) : Statement (.sarI64Compact c) := ⟨by decide, rfl⟩
theorem faddF64Compact (c : Compact) : Statement (.faddF64Compact c) := ⟨by decide, rfl⟩
theorem fsubF64Compact (c : Compact) : Statement (.fsubF64Compact c) := ⟨by decide, rfl⟩
theorem fmulF64Compact (c : Compact) : Statement (.fmulF64Compact c) := ⟨by decide, rfl⟩
theorem ffmaF64Compact (c : Compact) : Statement (.ffmaF64Compact c) := ⟨by decide, rfl⟩
theorem fminF64Compact (c : Compact) : Statement (.fminF64Compact c) := ⟨by decide, rfl⟩
theorem fmaxF64Compact (c : Compact) : Statement (.fmaxF64Compact c) := ⟨by decide, rfl⟩
theorem faddF32x2Compact (c : Compact) : Statement (.faddF32x2Compact c) := ⟨by decide, rfl⟩
theorem fsubF32x2Compact (c : Compact) : Statement (.fsubF32x2Compact c) := ⟨by decide, rfl⟩
theorem fmulF32x2Compact (c : Compact) : Statement (.fmulF32x2Compact c) := ⟨by decide, rfl⟩
theorem ffmaF32x2Compact (c : Compact) : Statement (.ffmaF32x2Compact c) := ⟨by decide, rfl⟩
theorem faddBf16x4Compact (c : Compact) : Statement (.faddBf16x4Compact c) := ⟨by decide, rfl⟩
theorem fmulBf16x4Compact (c : Compact) : Statement (.fmulBf16x4Compact c) := ⟨by decide, rfl⟩
theorem ffmaBf16x4Compact (c : Compact) : Statement (.ffmaBf16x4Compact c) := ⟨by decide, rfl⟩
theorem ldGlobalCompact (c : Compact) : Statement (.ldGlobalCompact c) := ⟨by decide, rfl⟩
theorem stGlobalCompact (c : Compact) : Statement (.stGlobalCompact c) := ⟨by decide, rfl⟩
theorem ldScratchCompact (c : Compact) : Statement (.ldScratchCompact c) := ⟨by decide, rfl⟩
theorem stScratchCompact (c : Compact) : Statement (.stScratchCompact c) := ⟨by decide, rfl⟩
theorem bra (x : Ext) : Statement (.bra x) := ⟨by decide, by decide⟩
theorem brx (x : Ext) : Statement (.brx x) := ⟨by decide, by decide⟩
theorem call (x : Ext) : Statement (.call x) := ⟨by decide, by decide⟩
theorem callx (x : Ext) : Statement (.callx x) := ⟨by decide, by decide⟩
theorem ret (x : Ext) : Statement (.ret x) := ⟨by decide, by decide⟩
theorem loopSetO (x : Ext) : Statement (.loopSetO x) := ⟨by decide, by decide⟩
theorem loopSetI (x : Ext) : Statement (.loopSetI x) := ⟨by decide, by decide⟩
theorem loopI (x : Ext) : Statement (.loopI x) := ⟨by decide, by decide⟩
theorem loopO (x : Ext) : Statement (.loopO x) := ⟨by decide, by decide⟩
theorem loopIo (x : Ext) : Statement (.loopIo x) := ⟨by decide, by decide⟩
theorem lbrk (x : Ext) : Statement (.lbrk x) := ⟨by decide, by decide⟩
theorem lbrkZ (x : Ext) : Statement (.lbrkZ x) := ⟨by decide, by decide⟩
theorem rejoin (x : Ext) : Statement (.rejoin x) := ⟨by decide, by decide⟩
theorem yield (x : Ext) : Statement (.yield x) := ⟨by decide, by decide⟩
theorem exit (x : Ext) : Statement (.exit x) := ⟨by decide, by decide⟩
theorem exitTo (x : Ext) : Statement (.exitTo x) := ⟨by decide, by decide⟩
theorem sleep (x : Ext) : Statement (.sleep x) := ⟨by decide, by decide⟩
theorem sleepWake (wk : Nat) : Statement (.sleepWake wk) := rfl
theorem nop (x : Ext) : Statement (.nop x) := ⟨by decide, by decide⟩
theorem launch (x : Ext) : Statement (.launch x) := ⟨by decide, by decide⟩
theorem callg (x : Ext) : Statement (.callg x) := ⟨by decide, by decide⟩
theorem signal (x : Ext) : Statement (.signal x) := ⟨by decide, by decide⟩
theorem waitc (x : Ext) : Statement (.waitc x) := ⟨by decide, by decide⟩
theorem testc (x : Ext) : Statement (.testc x) := ⟨by decide, by decide⟩
theorem karm (x : Ext) : Statement (.karm x) := ⟨by decide, by decide⟩
theorem karmWatchCheck (id : Nat) : Statement (.karmWatchCheck id) := rfl
theorem stagePut (x : Ext) : Statement (.stagePut x) := ⟨by decide, by decide⟩
theorem stageGet (x : Ext) : Statement (.stageGet x) := ⟨by decide, by decide⟩
theorem step (x : Ext) : Statement (.step x) := ⟨by decide, by decide⟩
theorem cancel (x : Ext) : Statement (.cancel x) := ⟨by decide, by decide⟩
theorem iadd (x : Ext) : Statement (.iadd x) := ⟨by decide, by decide⟩
theorem isub (x : Ext) : Statement (.isub x) := ⟨by decide, by decide⟩
theorem iaddc (x : Ext) : Statement (.iaddc x) := ⟨by decide, by decide⟩
theorem isubb (x : Ext) : Statement (.isubb x) := ⟨by decide, by decide⟩
theorem imul (x : Ext) : Statement (.imul x) := ⟨by decide, by decide⟩
theorem imulh (x : Ext) : Statement (.imulh x) := ⟨by decide, by decide⟩
theorem imad (x : Ext) : Statement (.imad x) := ⟨by decide, by decide⟩
theorem idiv (x : Ext) : Statement (.idiv x) := ⟨by decide, by decide⟩
theorem irem (x : Ext) : Statement (.irem x) := ⟨by decide, by decide⟩
theorem imin (x : Ext) : Statement (.imin x) := ⟨by decide, by decide⟩
theorem imax (x : Ext) : Statement (.imax x) := ⟨by decide, by decide⟩
theorem iabs (x : Ext) : Statement (.iabs x) := ⟨by decide, by decide⟩
theorem ineg (x : Ext) : Statement (.ineg x) := ⟨by decide, by decide⟩
theorem iclamp (x : Ext) : Statement (.iclamp x) := ⟨by decide, by decide⟩
theorem sadd (x : Ext) : Statement (.sadd x) := ⟨by decide, by decide⟩
theorem icmp (x : Ext) : Statement (.icmp x) := ⟨by decide, by decide⟩
theorem andB (x : Ext) : Statement (.andB x) := ⟨by decide, by decide⟩
theorem orB (x : Ext) : Statement (.orB x) := ⟨by decide, by decide⟩
theorem xorB (x : Ext) : Statement (.xorB x) := ⟨by decide, by decide⟩
theorem notB (x : Ext) : Statement (.notB x) := ⟨by decide, by decide⟩
theorem lop3 (x : Ext) : Statement (.lop3 x) := ⟨by decide, by decide⟩
theorem shl (x : Ext) : Statement (.shl x) := ⟨by decide, by decide⟩
theorem shr (x : Ext) : Statement (.shr x) := ⟨by decide, by decide⟩
theorem sar (x : Ext) : Statement (.sar x) := ⟨by decide, by decide⟩
theorem rot (x : Ext) : Statement (.rot x) := ⟨by decide, by decide⟩
theorem bfx (x : Ext) : Statement (.bfx x) := ⟨by decide, by decide⟩
theorem bfi (x : Ext) : Statement (.bfi x) := ⟨by decide, by decide⟩
theorem popc (x : Ext) : Statement (.popc x) := ⟨by decide, by decide⟩
theorem clz (x : Ext) : Statement (.clz x) := ⟨by decide, by decide⟩
theorem ctz (x : Ext) : Statement (.ctz x) := ⟨by decide, by decide⟩
theorem brev (x : Ext) : Statement (.brev x) := ⟨by decide, by decide⟩
theorem lea (x : Ext) : Statement (.lea x) := ⟨by decide, by decide⟩
theorem fadd (x : Ext) : Statement (.fadd x) := ⟨by decide, by decide⟩
theorem fsub (x : Ext) : Statement (.fsub x) := ⟨by decide, by decide⟩
theorem fmul (x : Ext) : Statement (.fmul x) := ⟨by decide, by decide⟩
theorem ffma (x : Ext) : Statement (.ffma x) := ⟨by decide, by decide⟩
theorem fdiv (x : Ext) : Statement (.fdiv x) := ⟨by decide, by decide⟩
theorem fsqrt (x : Ext) : Statement (.fsqrt x) := ⟨by decide, by decide⟩
theorem fmin (x : Ext) : Statement (.fmin x) := ⟨by decide, by decide⟩
theorem fmax (x : Ext) : Statement (.fmax x) := ⟨by decide, by decide⟩
theorem fminm (x : Ext) : Statement (.fminm x) := ⟨by decide, by decide⟩
theorem fmaxm (x : Ext) : Statement (.fmaxm x) := ⟨by decide, by decide⟩
theorem fcmp (x : Ext) : Statement (.fcmp x) := ⟨by decide, by decide⟩
theorem fclass (x : Ext) : Statement (.fclass x) := ⟨by decide, by decide⟩
theorem fabs (x : Ext) : Statement (.fabs x) := ⟨by decide, by decide⟩
theorem fneg (x : Ext) : Statement (.fneg x) := ⟨by decide, by decide⟩
theorem fcopys (x : Ext) : Statement (.fcopys x) := ⟨by decide, by decide⟩
theorem frint (x : Ext) : Statement (.frint x) := ⟨by decide, by decide⟩
theorem fscale (x : Ext) : Statement (.fscale x) := ⟨by decide, by decide⟩
theorem fgetexp (x : Ext) : Statement (.fgetexp x) := ⟨by decide, by decide⟩
theorem fgetman (x : Ext) : Statement (.fgetman x) := ⟨by decide, by decide⟩
theorem frem (x : Ext) : Statement (.frem x) := ⟨by decide, by decide⟩
theorem fdot2 (x : Ext) : Statement (.fdot2 x) := ⟨by decide, by decide⟩
theorem fpmodeGet (x : Ext) : Statement (.fpmodeGet x) := ⟨by decide, by decide⟩
theorem fpmodeRm (x : Ext) : Statement (.fpmodeRm x) := ⟨by decide, by decide⟩
theorem fpmodeFtz (x : Ext) : Statement (.fpmodeFtz x) := ⟨by decide, by decide⟩
theorem fflagsGet (x : Ext) : Statement (.fflagsGet x) := ⟨by decide, by decide⟩
theorem fflagsClr (x : Ext) : Statement (.fflagsClr x) := ⟨by decide, by decide⟩
theorem fflagsSet (x : Ext) : Statement (.fflagsSet x) := ⟨by decide, by decide⟩
theorem fflagsTe (x : Ext) : Statement (.fflagsTe x) := ⟨by decide, by decide⟩
theorem frcp (x : Ext) : Statement (.frcp x) := ⟨by decide, by decide⟩
theorem frsq (x : Ext) : Statement (.frsq x) := ⟨by decide, by decide⟩
theorem fexp2 (x : Ext) : Statement (.fexp2 x) := ⟨by decide, by decide⟩
theorem flog2 (x : Ext) : Statement (.flog2 x) := ⟨by decide, by decide⟩
theorem fsin (x : Ext) : Statement (.fsin x) := ⟨by decide, by decide⟩
theorem fcos (x : Ext) : Statement (.fcos x) := ⟨by decide, by decide⟩
theorem ftanh (x : Ext) : Statement (.ftanh x) := ⟨by decide, by decide⟩
theorem fsigm (x : Ext) : Statement (.fsigm x) := ⟨by decide, by decide⟩
theorem cvt (x : Ext) : Statement (.cvt x) := ⟨by decide, by decide⟩
theorem pack (x : Ext) : Statement (.pack x) := ⟨by decide, by decide⟩
theorem unpack (x : Ext) : Statement (.unpack x) := ⟨by decide, by decide⟩
theorem rng (x : Ext) : Statement (.rng x) := ⟨by decide, by decide⟩
theorem rngk (x : Ext) : Statement (.rngk x) := ⟨by decide, by decide⟩
theorem vmov (x : Ext) : Statement (.vmov x) := ⟨by decide, by decide⟩
theorem vset (x : Ext) : Statement (.vset x) := ⟨by decide, by decide⟩
theorem vsel (x : Ext) : Statement (.vsel x) := ⟨by decide, by decide⟩
theorem vcoal (x : Ext) : Statement (.vcoal x) := ⟨by decide, by decide⟩
theorem vruns (x : Ext) : Statement (.vruns x) := ⟨by decide, by decide⟩
theorem vname (x : Ext) : Statement (.vname x) := ⟨by decide, by decide⟩
theorem vquotaGet (x : Ext) : Statement (.vquotaGet x) := ⟨by decide, by decide⟩
theorem vquotaSet (x : Ext) : Statement (.vquotaSet x) := ⟨by decide, by decide⟩
theorem vfree (x : Ext) : Statement (.vfree x) := ⟨by decide, by decide⟩
theorem glop (x : Ext) : Statement (.glop x) := ⟨by decide, by decide⟩
theorem gtov (x : Ext) : Statement (.gtov x) := ⟨by decide, by decide⟩
theorem vtog (x : Ext) : Statement (.vtog x) := ⟨by decide, by decide⟩
theorem gcnt (x : Ext) : Statement (.gcnt x) := ⟨by decide, by decide⟩
theorem shfl (x : Ext) : Statement (.shfl x) := ⟨by decide, by decide⟩
theorem bcast (x : Ext) : Statement (.bcast x) := ⟨by decide, by decide⟩
theorem vote (x : Ext) : Statement (.vote x) := ⟨by decide, by decide⟩
theorem matchLanes (x : Ext) : Statement (.matchLanes x) := ⟨by decide, by decide⟩
theorem vred (x : Ext) : Statement (.vred x) := ⟨by decide, by decide⟩
theorem vscan (x : Ext) : Statement (.vscan x) := ⟨by decide, by decide⟩
theorem xpat (x : Ext) : Statement (.xpat x) := ⟨by decide, by decide⟩
theorem xtab (x : Ext) : Statement (.xtab x) := ⟨by decide, by decide⟩
theorem elect (x : Ext) : Statement (.elect x) := ⟨by decide, by decide⟩
theorem lanes (x : Ext) : Statement (.lanes x) := ⟨by decide, by decide⟩
theorem ld (x : Ext) : Statement (.ld x) := ⟨by decide, by decide⟩
theorem st (x : Ext) : Statement (.st x) := ⟨by decide, by decide⟩
theorem ldmx (x : Ext) : Statement (.ldmx x) := ⟨by decide, by decide⟩
theorem stmx (x : Ext) : Statement (.stmx x) := ⟨by decide, by decide⟩
theorem ldc (x : Ext) : Statement (.ldc x) := ⟨by decide, by decide⟩
theorem stc (x : Ext) : Statement (.stc x) := ⟨by decide, by decide⟩
theorem pref (x : Ext) : Statement (.pref x) := ⟨by decide, by decide⟩
theorem cctlInv (x : Ext) : Statement (.cctlInv x) := ⟨by decide, by decide⟩
theorem cctlDemote (x : Ext) : Statement (.cctlDemote x) := ⟨by decide, by decide⟩
theorem cctlClean (x : Ext) : Statement (.cctlClean x) := ⟨by decide, by decide⟩
theorem cctlInvall (x : Ext) : Statement (.cctlInvall x) := ⟨by decide, by decide⟩
theorem rinit (x : Ext) : Statement (.rinit x) := ⟨by decide, by decide⟩
theorem rpushGet (x : Ext) : Statement (.rpushGet x) := ⟨by decide, by decide⟩
theorem rpushPut (x : Ext) : Statement (.rpushPut x) := ⟨by decide, by decide⟩
theorem rpopGet (x : Ext) : Statement (.rpopGet x) := ⟨by decide, by decide⟩
theorem rpopPut (x : Ext) : Statement (.rpopPut x) := ⟨by decide, by decide⟩
theorem rstat (x : Ext) : Statement (.rstat x) := ⟨by decide, by decide⟩
theorem atom (x : Ext) : Statement (.atom x) := ⟨by decide, by decide⟩
theorem cas (x : Ext) : Statement (.cas x) := ⟨by decide, by decide⟩
theorem ldacq (x : Ext) : Statement (.ldacq x) := ⟨by decide, by decide⟩
theorem strel (x : Ext) : Statement (.strel x) := ⟨by decide, by decide⟩
theorem fence (x : Ext) : Statement (.fence x) := ⟨by decide, by decide⟩
theorem bar (x : Ext) : Statement (.bar x) := ⟨by decide, by decide⟩
theorem barr (x : Ext) : Statement (.barr x) := ⟨by decide, by decide⟩
theorem barw (x : Ext) : Statement (.barw x) := ⟨by decide, by decide⟩
theorem waitv (x : Ext) : Statement (.waitv x) := ⟨by decide, by decide⟩
theorem waitvNotify (wk lane : Nat) : Statement (.waitvNotify wk lane) := rfl
theorem mma (x : Ext) : Statement (.mma x) := ⟨by decide, by decide⟩
theorem accz (x : Ext) : Statement (.accz x) := ⟨by decide, by decide⟩
theorem accld (x : Ext) : Statement (.accld x) := ⟨by decide, by decide⟩
theorem accst (x : Ext) : Statement (.accst x) := ⟨by decide, by decide⟩
theorem acccp (x : Ext) : Statement (.acccp x) := ⟨by decide, by decide⟩
theorem accrd (x : Ext) : Statement (.accrd x) := ⟨by decide, by decide⟩
theorem accwr (x : Ext) : Statement (.accwr x) := ⟨by decide, by decide⟩
theorem mstat (x : Ext) : Statement (.mstat x) := ⟨by decide, by decide⟩
theorem mbind (x : Ext) : Statement (.mbind x) := ⟨by decide, by decide⟩
theorem mbindFree (x : Ext) : Statement (.mbindFree x) := ⟨by decide, by decide⟩
theorem tcopy (x : Ext) : Statement (.tcopy x) := ⟨by decide, by decide⟩
theorem tgather (x : Ext) : Statement (.tgather x) := ⟨by decide, by decide⟩
theorem tscatter (x : Ext) : Statement (.tscatter x) := ⟨by decide, by decide⟩
theorem tfeed (x : Ext) : Statement (.tfeed x) := ⟨by decide, by decide⟩
theorem tfill (x : Ext) : Statement (.tfill x) := ⟨by decide, by decide⟩
theorem tconv (x : Ext) : Statement (.tconv x) := ⟨by decide, by decide⟩
theorem tring (x : Ext) : Statement (.tring x) := ⟨by decide, by decide⟩
theorem tstat (x : Ext) : Statement (.tstat x) := ⟨by decide, by decide⟩
theorem pgnew (x : Ext) : Statement (.pgnew x) := ⟨by decide, by decide⟩
theorem pgapp (x : Ext) : Statement (.pgapp x) := ⟨by decide, by decide⟩
theorem pgappRef (x : Ext) : Statement (.pgappRef x) := ⟨by decide, by decide⟩
theorem pgfree (x : Ext) : Statement (.pgfree x) := ⟨by decide, by decide⟩
theorem pgpin (x : Ext) : Statement (.pgpin x) := ⟨by decide, by decide⟩
theorem pgpinHold (x : Ext) : Statement (.pgpinHold x) := ⟨by decide, by decide⟩
theorem pgunpin (x : Ext) : Statement (.pgunpin x) := ⟨by decide, by decide⟩
theorem pgunpinHold (x : Ext) : Statement (.pgunpinHold x) := ⟨by decide, by decide⟩
theorem pgtrunc (x : Ext) : Statement (.pgtrunc x) := ⟨by decide, by decide⟩
theorem pgdemote (x : Ext) : Statement (.pgdemote x) := ⟨by decide, by decide⟩
theorem pginfo (x : Ext) : Statement (.pginfo x) := ⟨by decide, by decide⟩
theorem pglook (x : Ext) : Statement (.pglook x) := ⟨by decide, by decide⟩
theorem pgsum (x : Ext) : Statement (.pgsum x) := ⟨by decide, by decide⟩
theorem pgmassGet (x : Ext) : Statement (.pgmassGet x) := ⟨by decide, by decide⟩
theorem pgmassSet (x : Ext) : Statement (.pgmassSet x) := ⟨by decide, by decide⟩
theorem psel (x : Ext) : Statement (.psel x) := ⟨by decide, by decide⟩
theorem atts (x : Ext) : Statement (.atts x) := ⟨by decide, by decide⟩
theorem attv (x : Ext) : Statement (.attv x) := ⟨by decide, by decide⟩
theorem attf (x : Ext) : Statement (.attf x) := ⟨by decide, by decide⟩
theorem pfxh (x : Ext) : Statement (.pfxh x) := ⟨by decide, by decide⟩
theorem pfxl (x : Ext) : Statement (.pfxl x) := ⟨by decide, by decide⟩
theorem pfxi (x : Ext) : Statement (.pfxi x) := ⟨by decide, by decide⟩
theorem pfxd (x : Ext) : Statement (.pfxd x) := ⟨by decide, by decide⟩
theorem pfxdUnpin (x : Ext) : Statement (.pfxdUnpin x) := ⟨by decide, by decide⟩
theorem trap (x : Ext) : Statement (.trap x) := ⟨by decide, by decide⟩
theorem rte (x : Ext) : Statement (.rte x) := ⟨by decide, by decide⟩
theorem movsRead (x : Ext) : Statement (.movsRead x) := ⟨by decide, by decide⟩
theorem movsWrite (x : Ext) : Statement (.movsWrite x) := ⟨by decide, by decide⟩
theorem movsp (x : Ext) : Statement (.movsp x) := ⟨by decide, by decide⟩
theorem logrec (x : Ext) : Statement (.logrec x) := ⟨by decide, by decide⟩
theorem cntrd (x : Ext) : Statement (.cntrd x) := ⟨by decide, by decide⟩
theorem cntcfgSel (x : Ext) : Statement (.cntcfgSel x) := ⟨by decide, by decide⟩
theorem cntcfgClr (x : Ext) : Statement (.cntcfgClr x) := ⟨by decide, by decide⟩
theorem cntcfgFrz (x : Ext) : Statement (.cntcfgFrz x) := ⟨by decide, by decide⟩
theorem cntcfgRun (x : Ext) : Statement (.cntcfgRun x) := ⟨by decide, by decide⟩
theorem bkpt (x : Ext) : Statement (.bkpt x) := ⟨by decide, by decide⟩
theorem tlbinvVa (x : Ext) : Statement (.tlbinvVa x) := ⟨by decide, by decide⟩
theorem tlbinvAll (x : Ext) : Statement (.tlbinvAll x) := ⟨by decide, by decide⟩
theorem longLatencyResultWrite (wk id : Nat) (lanes : Mask) : Statement (.longLatencyResultWrite wk id lanes) := rfl
theorem warpTrapAction (wk : Nat) : Statement (.warpTrapAction wk) := rfl
theorem timerExpiry (wk : Nat) : Statement (.timerExpiry wk) := rfl
theorem l1Fill (id : Nat) : Statement (.l1Fill id) := rfl
theorem l1LeaseExpiry (core line : Nat) : Statement (.l1LeaseExpiry core line) := rfl
theorem homeSliceRead (id : Nat) : Statement (.homeSliceRead id) := rfl
theorem homeSliceWrite (id : Nat) : Statement (.homeSliceWrite id) := rfl
theorem heldPoolWriteProceed : Statement (.heldPoolWriteProceed) := rfl
theorem hpoolPressureMove : Statement (.hpoolPressureMove) := rfl
theorem vaultAccess (id : Nat) : Statement (.vaultAccess id) := rfl
theorem storeCompletionReturn (id : Nat) : Statement (.storeCompletionReturn id) := rfl
theorem acquireComplete (wk : Nat) : Statement (.acquireComplete wk) := rfl
theorem fenceComplete (wk : Nat) : Statement (.fenceComplete wk) := rfl
theorem beaconTicket (id : Nat) : Statement (.beaconTicket id) := rfl
theorem frontierAtomicPerform (id : Nat) : Statement (.frontierAtomicPerform id) := rfl
theorem orderingWaitDeadlock (launch : Word) : Statement (.orderingWaitDeadlock launch) := rfl
theorem commit : Statement (.commit) := rfl
theorem peerDigestExchange (launch : Word) (digest : BitVec 128) : Statement (.peerDigestExchange launch digest) := rfl
theorem ebbVisit (lpn : Nat) : Statement (.ebbVisit lpn) := rfl
theorem ebbSwap (lpn : Nat) : Statement (.ebbSwap lpn) := rfl
theorem hatchSweepVisit : Statement (.hatchSweepVisit) := rfl
theorem hatchFetch (lpn : Nat) (ok : Bool) : Statement (.hatchFetch lpn ok) := rfl
theorem gantryPassStart (g : Nat) : Statement (.gantryPassStart g) := rfl
theorem gantryPassDrain (g : Nat) : Statement (.gantryPassDrain g) := rfl
theorem tenderOpStart (id : Nat) : Statement (.tenderOpStart id) := rfl
theorem engineOpFinish (id : Nat) : Statement (.engineOpFinish id) := rfl
theorem lqTailDoorbell (q : Nat) (tail : BitVec 32) : Statement (.lqTailDoorbell q tail) := rfl
theorem launchAdmission (src : Option Nat) : Statement (.launchAdmission src) := rfl
theorem groupDispatch : Statement (.groupDispatch) := rfl
theorem launchEnd (launch : Word) : Statement (.launchEnd launch) := rfl
theorem preemption : Statement (.preemption) := rfl
theorem stageTargetAdjust : Statement (.stageTargetAdjust) := rfl
theorem deviceReset (accepted : Bool) : Statement (.deviceReset accepted) := rfl
theorem breakwaterPowerLimit : Statement (.breakwaterPowerLimit) := rfl
theorem railCurrentLimit : Statement (.railCurrentLimit) := rfl
theorem thermalThrottle : Statement (.thermalThrottle) := rfl
theorem thermalTrip : Statement (.thermalTrip) := rfl
theorem coolantFlowLow : Statement (.coolantFlowLow) := rfl
theorem portcullisAlarm (source : Nat) : Statement (.portcullisAlarm source) := rfl
theorem debugUnlockAttempt : Statement (.debugUnlockAttempt) := rfl
theorem attest : Statement (.attest) := rfl
theorem stageFirmwareImage : Statement (.stageFirmwareImage) := rfl
theorem activateFirmwareImage : Statement (.activateFirmwareImage) := rfl
theorem readPortcullisLog : Statement (.readPortcullisLog) := rfl
theorem clearHaltedLaunch : Statement (.clearHaltedLaunch) := rfl
theorem provisionIdentityKey : Statement (.provisionIdentityKey) := rfl
theorem mailboxUnassignedCommand : Statement (.mailboxUnassignedCommand) := rfl
theorem ttInv : Statement (.ttInv) := rfl
theorem descriptorApertureWrite (word : Nat) (value : Word) : Statement (.descriptorApertureWrite word value) := rfl
theorem trcCtlWrite (value : Word) : Statement (.trcCtlWrite value) := rfl
theorem replResume : Statement (.replResume) := rfl
theorem managementRegisterWrite (off : Nat) (value : Word) : Statement (.managementRegisterWrite off value) := rfl
theorem hostCxlRead (lp : Bool) (pa n : Nat) : Statement (.hostCxlRead lp pa n) := rfl
theorem hostCxlWrite (lp : Bool) (pa : Nat) (bytes : List Byte) : Statement (.hostCxlWrite lp pa bytes) := rfl
theorem peerInboundAccess (link : Nat) (acc : PeerAccess) : Statement (.peerInboundAccess link acc) := rfl
theorem peerWriteAck (id : Nat) : Statement (.peerWriteAck id) := rfl
theorem peerLinkDown (link : Nat) : Statement (.peerLinkDown link) := rfl
theorem traceRecordWrite : Statement (.traceRecordWrite) := rfl
theorem clockLimitClears (limit : ClockLimit) : Statement (.clockLimitClears limit) := rfl
theorem peerLinkTrained (link : Nat) : Statement (.peerLinkTrained link) := rfl
theorem hatchSpillComplete (lpn : Nat) : Statement (.hatchSpillComplete lpn) := rfl

end Sys2Proof.Laws.Coded
end

