-- ==== Sys2Proof/Laws/Staging.lean ====
section
/-! SUPPORT. The Sluice (R383, R385): room in its buffers, and the order in which released writes are performed. -/

namespace Sys2Proof.Machine

/-- R385: room for many is room for fewer. -/
theorem State.stageRoom_mono (s : State) (gid core : Nat) (atom : Bool) {k n : Nat} (hk : k ≤ n) (h : s.stageRoom gid core atom n = true) :
    s.stageRoom gid core atom k = true := by
  unfold State.stageRoom at *
  split at h <;> simp_all <;> omega

/-- R385: where the buffer has room for every write of a store, no thread waits. -/
theorem Ctx.unroomed_of_room (c : Ctx) (s : State) (atom : Bool) (ps : List StorePart) (h : s.stageRoom c.w.gid c.core atom ps.length = true) :
    c.unroomed s atom ps = 0 := by simp [Ctx.unroomed, h]

/-- R385: what finds no room is active. -/
theorem Ctx.unroomed_act (c : Ctx) (s : State) (atom : Bool) (ps : List StorePart) (i : Fin 32) (h : (c.unroomed s atom ps).getLsbD i = true) :
    c.act.getLsbD i = true := by
  unfold Ctx.unroomed at h
  split at h
  · simp at h
  · simp only [BitVec.getLsbD_and, Bool.and_eq_true] at h; exact h.1

/-- R383: a released write that can be performed has no earlier one of its launch copy before it, but for those behind an atomic. -/
theorem State.canPerform_in_order {s : State} {r q : Request} (h : s.canPerform r = true) (hr : r.sluice = true) (hq : q ∈ s.mem.reqs)
    (hs : q.sluice = true) (hid : q.id < r.id) (hc : s.sameCopy q r = true) (hb : s.behindAtomic q = false) : q.stage ≠ .posted := by
  intro hp
  simp only [State.canPerform, Bool.and_eq_true] at h
  have h1 := h.1.2
  simp only [State.sluiceClear, hr, Bool.not_true, Bool.false_eq_true, if_false, List.all_eq_true] at h1
  have h2 := h1 q hq
  simp [hs, hid, hc, hb, hp] at h2

end Sys2Proof.Machine
end

