-- ==== Sys2Proof/Tests/Slice0.lean ====
section
/-! SUPPORT. Tests: ill-formed terms that WellFormed refuses, words written out from the manual's encodings, single steps with values taken from
the manual or worked out from its rules by hand, and for every statement with hypotheses a state and operands that meet them
(`witness_…`). -/

namespace Sys2Proof.Tests

open Sys2Proof.Machine

set_option maxRecDepth 20000
set_option exponentiation.threshold 4000

/-! ### Small machines -/

/-- An extended instruction with every field zero. -/
def z : Ext :=
  { len := .w64, ge := false, gn := false, gp := 0, s := false, a := 0, d := 0, mod := 0, lsel := 0, sat := false, z := false, rm := 0, ty := 0
    c := 0, b := 0, l32 := 0, l64 := 0 }

/-- A register of 32 runs. -/
def spread (f : Nat → Word) : VecReg := { runs := (List.range 32).map (fun i => { value := f i, count := 1 }), name := .unnamed 0 }

/-- A register of one run. -/
def uniform (v : Word) : VecReg := { runs := [{ value := v, count := 32 }], name := .unnamed 0 }

/-- A warp of group 1 at 0x1000, with some registers. -/
def warpOf (regs : List (Fin 64 × VecReg)) : Warp :=
  let w := Warp.start 1 0 200 0x1000
  { w with regs := regs.foldl (fun r e => r.set e.1 e.2) w.regs }

/-- A kernel with 4,096 bytes of scratchpad and accumulator tiles 0 to 15, and its launch and group. -/
def kern : Kernel := { Kernel.blank with scratch := 4096, accFirst := 0, accCount := 16 }
def lch : Launch := { Launch.blank with kern := kern, codeVa := 0x1000, codeSize := 0x1000 }
def grp : Group := Group.blank 5 0

/-- A page at 0x8000 that translates to itself in HBM. -/
def page8 : TlbEntry := { va := 0x8000, log2 := 12, read := true, write := true, exec := false, tgt := .hbm, pa := 0x8000, fixed := false, page := 8 }

/-- Launch 5 with one group on core 0, whose warp in slot 0 issues the threads of a set. -/
def machine (w : Warp) (set : Mask) (g : Group := grp) (l : Launch := lch) : State :=
  { State.reset with launches := [(5, l)], groups := [(1, g)], warps := [(0, w)], issue := some { core := 0, slot := 0, set := set, pc := 0x1000 }
                     mem := { State.reset.mem with tlb := [page8] } }

/-- An instruction gives a next state, and the warp in slot 0 meets a condition there. -/
def gives (i : Instr) (s : State) (p : State → Warp → Bool) : Bool :=
  match exec i s with
  | .next t => match t.warp? 0 with | some w => p t w | none => false
  | _ => false

/-- An instruction gives a next state that meets a condition. -/
def leads (i : Instr) (s : State) (p : State → Bool) : Bool := match exec i s with | .next t => p t | _ => false

/-- What a thread is to receive from the newest outstanding result. -/
def due (w : Warp) (k : Nat) : Option LaneOut := w.pend.getLast?.bind fun p => Sparse.find p.outs k

/-- What an instruction sees as it issues meets a condition. -/
def Meets (x : Ext) (s : State) (p : Ctx → Prop) : Prop := ∃ c, standing x s = some c ∧ p c

theorem Meets.of (x : Ext) (s : State) (p : Ctx → Prop) [∀ c, Decidable (p c)]
    (h : (match standing x s with | some c => decide (p c) | none => false) = true) : Meets x s p := by
  cases hs : standing x s with
  | none => rw [hs] at h; exact absurd h Bool.false_ne_true
  | some c => rw [hs] at h; exact ⟨c, hs, of_decide_eq_true h⟩

/-! ### WellFormed refuses ill-formed terms (R27 to R40, R47, R110) -/

def add : Ext := { z with ty := 1, d := 3, a := 1, b := 2 }

theorem wf_add : (Instr.iadd add).wf = true := by decide
theorem illformed_type : (Instr.iadd { add with ty := 9 }).wf = false := by decide
theorem illformed_type_code : (Instr.iadd { add with ty := 12 }).wf = false := by decide
theorem illformed_rounding_mode : (Instr.fadd { add with ty := 9, rm := 6 }).wf = false := by decide
theorem illformed_rounding_unused : (Instr.iadd { add with rm := 1 }).wf = false := by decide
theorem illformed_saturation : (Instr.imulh { add with sat := true }).wf = false := by decide
theorem illformed_zeroing : (Instr.st { z with a := 1, b := 2, z := true }).wf = false := by decide
theorem illformed_guard : (Instr.iadd { add with gp := 1 }).wf = false := by decide
theorem illformed_literal_use : (Instr.iadd { add with len := .w96, lsel := 2 }).wf = false := by decide
theorem illformed_unused_field : (Instr.iabs { z with ty := 2, d := 3, a := 1, b := 2 }).wf = false := by decide
theorem illformed_field_beside_literal : (Instr.iadd { add with len := .w96, lsel := 1, l32 := 5 }).wf = false := by decide
theorem illformed_modifier : (Instr.iadd { add with mod := 1 }).wf = false := by decide
theorem illformed_length : (Instr.iadd { add with len := .w32 }).wf = false := by decide
theorem illformed_missing_literal : (Instr.bra z).wf = false := by decide
theorem illformed_stray_literal : (Instr.iadd { add with len := .w96, l32 := 1 }).wf = false := by decide
theorem illformed_literal_width : (Instr.iadd { add with len := .w96, b := 0, lsel := 1, ty := 5, l32 := 0x10000 }).wf = false := by decide
theorem illformed_target : (Instr.bra { z with len := .w96, l32 := 6 }).wf = false := by decide
theorem illformed_no_marker : (Instr.waitc { z with a := 1 }).wf = false := by decide
theorem illformed_pair : (Instr.pack { z with d := 1, a := 2, b := 3, ty := 9, mod := 9 }).wf = false := by decide
theorem illformed_handle_guard : (Instr.glop { z with d := 16, a := 1, b := 2 }).wf = false := by decide
theorem illformed_handle_slot : (Instr.waitc { z with s := true, a := 8 }).wf = false := by decide
theorem illformed_handle_stream : (Instr.mma { z with len := .w96, d := 1, a := 6, b := 0, c := 15 }).wf = false := by decide
theorem illformed_compact_field : (Instr.vmovCompact { ge := false, gn := false, gp := 0, s := false, b := 1, a := 2, d := 3 }).wf = false := by decide
theorem illformed_compact_guard : (Instr.iaddU64Compact { ge := false, gn := true, gp := 0, s := false, b := 1, a := 2, d := 3 }).wf = false := by decide
theorem illformed_other_form : (Instr.loopO { z with len := .w96, l32 := 8, mod := 1 }).wf = false := by decide

/-! ### Words written out from the encodings of the manual -/

/-- Words that decode to an instruction, which is encoded as these words. -/
def codes (ws : List Half) (i : Instr) : Bool :=
  (match decodeWords true (ws.getD 0 0) (ws.getD 1 0) (ws.getD 2 0) (ws.getD 3 0) (ws.getD 4 0) with | .ok j => j == i | .error _ => false) && encode i == ws

/-- A compact word (R29): LEN 00, COP in [13:9], D in [19:14], A in [25:20], B in [31:26]. -/
theorem code_isub_compact : codes [(2#32 <<< 26) ||| (1#32 <<< 20) ||| (3#32 <<< 14) ||| (3#32 <<< 9)]
    (.isubU64Compact { ge := false, gn := false, gp := 0, s := false, b := 2, a := 1, d := 3 }) = true := by decide
theorem code_ffma_compact : codes [0x0810E400] (.ffmaF64Compact { ge := false, gn := false, gp := 0, s := false, b := 2, a := 1, d := 3 }) = true := by decide
theorem code_vcoal : codes [0x091D8601, 0] (.vcoal { z with d := 7, a := 9 }) = true := by decide
theorem code_bra : codes [(2#32) ||| (0x000#32 <<< 9), 0, 0x40] (.bra { z with len := .w96, l32 := 0x40 }) = true := by decide
theorem code_waitc : codes [0x01004605, 0] (.waitc { z with s := true, a := 1 }) = true := by decide
theorem code_signal : codes [0x04004402, 0x14201000, 1] (.signal { z with len := .w96, a := 4, ty := 1, lsel := 1, mod := 0x28, l32 := 1 }) = true := by decide
theorem code_idiv : codes [0x02188E01, 0x00004003] (.idiv { z with d := 6, a := 2, b := 3, ty := 4 }) = true := by decide
theorem code_lop3 : codes [(1#32) ||| (0x064#32 <<< 9) ||| (5#32 <<< 18) ||| (1#32 <<< 24), (0xCA#32 <<< 23) ||| (3#32 <<< 6) ||| 2#32]
    (.lop3 { z with d := 5, a := 1, b := 2, c := 3, mod := 0xCA }) = true := by decide
theorem code_fsqrt : codes [0x01090A01, 0x00009000] (.fsqrt { z with d := 2, a := 1, ty := 9 }) = true := by decide
theorem code_cvt : codes [0x02195001, 0x04834000] (.cvt { z with d := 6, a := 2, ty := 4, rm := 3, mod := 9 }) = true := by decide
theorem code_shfl : codes [0x010DC002, 0x05A00000, 1] (.shfl { z with len := .w96, d := 3, a := 1, lsel := 1, mod := 0xB, l32 := 1 }) = true := by decide
theorem code_st_scratch : codes [0x03020202, 0x05600007, 8] (.st { z with len := .w96, a := 3, b := 7, lsel := 3, mod := 0xA, l32 := 8 }) = true := by decide
theorem code_fence : codes [0x00024801, 0x94000000] (.fence { z with mod := 0x128 }) = true := by decide
theorem code_mma : codes [0x06068002, 0x00000400, 0xA] (.mma { z with len := .w96, d := 1, a := 6, c := 16, l32 := 0xA }) = true := by decide
theorem code_tcopy : codes [0x080AC001, 0] (.tcopy { z with d := 2, a := 8 }) = true := by decide
theorem code_pgapp : codes [0x080B0201, 0] (.pgapp { z with d := 2, a := 8 }) = true := by decide
theorem code_psel : codes [0x08034001, 0] (.psel { z with d := 0, a := 8 }) = true := by decide
theorem code_rte : codes [0x00038205, 0] (.rte { z with s := true }) = true := by decide
theorem code_movsp : codes [0x00038601, 0x22800002] (.movsp { z with b := 2, mod := 0x45 }) = true := by decide
theorem code_step : codes [0x00085006, 0x00800000, 0x20] (.step { z with len := .w96, s := true, d := 2, mod := 1, l32 := 0x20 }) = true := by decide
theorem code_reserved_bit : (match decodeWords true 0x40188E01 0x00004003 0 0 0 with | .error .illegal => true | _ => false) = true := by decide
theorem code_unlisted_opcode : (match decodeWords true ((1#32) ||| (0x1FF#32 <<< 9)) 0 0 0 0 with | .error .illegal => true | _ => false) = true := by decide
theorem code_needs_privilege : (match decodeWords false 0x00038205 0 0 0 0 with | .error .privilege => true | _ => false) = true := by decide
/-- The table's numbering: the second word stands above the first, and words left out are zero. -/
theorem code_table_numbering : decodeTableWord 64 (0x00004003 * 2 ^ 32 + 0x02188E01) = some (.idiv { z with d := 6, a := 2, b := 3, ty := 4 }) := by decide

/-! ### Integer, bit, floating-point and conversion instructions -/

/-- Spec 03, the example of R63: 5 + 1 in threads 8 to 23 only. -/
theorem test_masked_iadd : gives (.iadd { add with ty := 1, ge := true, gp := 2 })
    (machine { warpOf [(3, uniform 6), (1, uniform 5), (2, uniform 1)] with guards := Vector.replicate 16 0x00FFFF00 } (BitVec.allOnes 32))
    (fun _ w => w.regs[3].runs == [{ value := 6, count := 8 }, { value := 6, count := 16 }, { value := 6, count := 8 }]) = true := by decide
/-- R66: 24 cells fit into a quota of 24, and 32 runs do not. -/
theorem test_overflow_parks : gives (.vset { z with d := 1, a := 2, b := 3, ty := 1 }) (machine { warpOf [] with quota := 24 } 1)
    (fun _ w => w.threads[0].frec.map (fun r => (r.cause, r.addr)) == some (0x0C, 8)) = true := by decide
theorem test_iadd_wraps : gives (.iadd add) (machine (warpOf [(1, uniform 0xFFFFFFFFFFFFFFFF), (2, uniform 3)]) 1)
    (fun _ w => w.regs[3].get 0 == 2 && w.threads[0].pc == 0x1008 && w.threads[1].pc == 0x1000) = true := by decide
theorem test_iadd_saturates : gives (.iadd { add with ty := 8, sat := true }) (machine (warpOf [(1, uniform 0x7F80), (2, uniform 0x01FF)]) 1)
    (fun _ w => w.regs[3].get 0 == 0x7F80) = true := by decide
theorem test_isub_borrows : gives (.isubb { add with c := 5, mod := 6 })
    (machine { warpOf [(1, uniform 2), (2, uniform 2)] with guards := (Vector.replicate 16 0).set 5 1 } 1)
    (fun _ w => w.regs[3].get 0 == 0xFFFFFFFFFFFFFFFF && w.guards[6] == 1) = true := by decide
theorem test_imulh_signed : gives (.imulh { add with ty := 4 }) (machine (warpOf [(1, uniform 0xFFFFFFFF80000000), (2, uniform 0x0000000280000000)]) 1)
    (fun _ w => w.regs[3].get 0 == 0xFFFFFFFF40000000) = true := by decide
/-- Spec 05, the example of R131: −2^31 over −1 is itself, 7 over 0 is 0, and thread 4 traps. -/
theorem test_idiv_corners : gives (.idiv { z with d := 6, a := 2, b := 3, ty := 4 })
    (machine { warpOf [(2, uniform 0x0000000780000000), (3, uniform 0x00000000FFFFFFFF)] with threads := (Vector.replicate 32 (Thread.start 0x1000)).set 4 { Thread.start 0x1000 with isr := 0x10000 } } 0x11)
    (fun _ w => w.regs[6].get 0 == 0x0000000080000000 && w.threads[0].isr == 3 && w.regs[6].get 4 == 0 && w.threads[4].st == .parked
      && w.threads[4].frec.map (fun r => (r.cause, r.addr)) == some (0x07, 3)) = true := by decide
theorem test_irem_sign : gives (.irem { z with d := 6, a := 2, b := 3, ty := 2 }) (machine (warpOf [(2, uniform 0xFFFFFFFFFFFFFFF9), (3, uniform 2)]) 1)
    (fun _ w => w.regs[6].get 0 == 0xFFFFFFFFFFFFFFFF) = true := by decide
theorem test_icmp_any : gives (.icmp { z with d := 2, a := 1, b := 3, ty := 4, mod := 8 ||| 2 }) (machine (warpOf [(1, uniform 0x00000001FFFFFFFF)]) 1)
    (fun _ w => w.guards[2] == 1) = true := by decide
theorem test_lop3_select : gives (.lop3 { z with d := 5, a := 1, b := 2, c := 3, mod := 0xCA }) (machine (warpOf [(1, uniform 0xF0), (2, uniform 0xAA), (3, uniform 0x55)]) 1)
    (fun _ w => w.regs[5].get 0 == 0xA5) = true := by decide
theorem test_shl_past_width : gives (.shl { z with d := 5, a := 1, b := 2, ty := 3 }) (machine (warpOf [(1, uniform 0x0000000180000001), (2, uniform 0x0000002000000001)]) 1)
    (fun _ w => w.regs[5].get 0 == 2) = true := by decide
theorem test_sar_fills : gives (.sar { z with d := 5, a := 1, b := 2, ty := 2 }) (machine (warpOf [(1, uniform 0x8000000000000000), (2, uniform 100)]) 1)
    (fun _ w => w.regs[5].get 0 == 0xFFFFFFFFFFFFFFFF) = true := by decide
theorem test_clz_of_zero : gives (.clz { z with d := 5, a := 1, ty := 3 }) (machine (warpOf [(1, uniform 0x0000000000010000)]) 1)
    (fun _ w => w.regs[5].get 0 == 0x000000200000000F) = true := by decide
/-- Spec 06, the examples of R142: a tie among subnormals goes to the even significand; √−1 is invalid. -/
theorem test_fmul_tiny : gives (.fmul { z with d := 3, a := 1, b := 2, ty := 9 }) (machine (warpOf [(1, uniform 0x1A70000000000000), (2, uniform 0x2580000000000001)]) 1)
    (fun _ w => w.regs[3].get 0 == 0x0008000000000000 && w.threads[0].fsr == 0x18) = true := by decide
theorem test_fadd_rounds_even : gives (.faddF64Compact { ge := false, gn := false, gp := 0, s := false, b := 2, a := 1, d := 3 })
    (machine (warpOf [(1, uniform 0x4340000000000000), (2, uniform 0x3FF0000000000000)]) 1)
    (fun _ w => w.regs[3].get 0 == 0x4340000000000000 && w.threads[0].fsr == 0x10 && w.threads[0].pc == 0x1004) = true := by decide
theorem test_fsqrt_invalid : gives (.fsqrt { z with d := 2, a := 1, ty := 9 }) (machine (warpOf [(1, uniform 0xBFF0000000000000)]) 1)
    (fun _ w => due w 0 == some (.value 0x7FF8000000000000 false flagNV 0) && w.regs[2].get 0 == 0) = true := by decide
theorem test_fsqrt_two : gives (.fsqrt { z with d := 2, a := 1, ty := 9 }) (machine (warpOf [(1, uniform 0x4000000000000000)]) 1)
    (fun _ w => due w 0 == some (.value 0x3FF6A09E667F3BCD false flagNX 0)) = true := by decide
/-- Spec 08: dexp2(0.5), dexp2(−3.25), and −2.5 rounded down. -/
theorem test_fexp2 : gives (.fexp2 { z with d := 2, a := 1, ty := 10 }) (machine (warpOf [(1, uniform 0xC05000003F000000)]) 1)
    (fun _ w => due w 0 == some (.value 0x3DD744FD3FB504F3 false flagNX 0)) = true := by decide
theorem test_cvt_down : gives (.cvt { z with d := 6, a := 2, ty := 4, rm := 3, mod := 9 }) (machine (warpOf [(2, uniform 0xC004000000000000)]) 1)
    (fun _ w => w.regs[6].get 0 == 0x00000000FFFFFFFD && w.threads[0].fsr == 0x10) = true := by decide
theorem test_rng_block : (BitVec.ofNat 128 (rngBlock 0 0)) = 0x8ACE7C9A7BFBF4FC62722EC3C42DCE1D#128 := by decide
/-- Spec 03: `vset.lane` gives lane numbers, and the example of R94. -/
theorem test_vset_lane : gives (.vset { z with len := .w96, d := 4, a := 0, lsel := 1, ty := 1, l32 := 1 }) (machine (warpOf []) (BitVec.allOnes 32))
    (fun _ w => w.regs[4].get 0 == 0 && w.regs[4].get 31 == 31) = true := by decide
theorem test_gcnt_pre : gives (.gcnt { z with d := 3, a := 5, mod := 1 })
    (machine { warpOf [] with guards := (Vector.replicate 16 0).set 5 0x80000418 } (BitVec.allOnes 32))
    (fun _ w => w.regs[3].get 3 == 0 && w.regs[3].get 4 == 1 && w.regs[3].get 10 == 2 && w.regs[3].get 11 == 3) = true := by decide
theorem test_glop_table : gives (.glop { z with d := 1, a := 2, b := 3, mod := 0b0100 })
    (machine { warpOf [] with guards := ((Vector.replicate 16 0).set 2 0b1100).set 3 0b1010 } 0xF) (fun _ w => w.guards[1] == 0b0100) = true := by decide
theorem test_vquota_get : gives (.vquotaGet { z with d := 1 }) (machine (warpOf [(2, uniform 9), (3, spread fun n => BitVec.ofNat 64 n)]) 1) (fun _ w => w.regs[1].get 0 == 200 + 33 * 65536) = true := by decide
theorem test_vfree : gives (.vfree { z with len := .w160, l64 := 0b100 }) (machine (warpOf [(2, uniform 9), (3, uniform 8)]) 3)
    (fun _ w => w.regs[2].get 0 == 0 && w.regs[2].get 2 == 9 && w.regs[3].get 0 == 8) = true := by decide
theorem test_fpmode_reserved : gives (.fpmodeRm { z with len := .w96, lsel := 1, l32 := 6 }) (machine (warpOf []) 1) (fun _ w => w.threads[0].fsr == 0) = true := by decide
/-- R63: Z writes zero in threads of the set that the guard turns off. -/
theorem test_zeroing : gives (.vmov { z with ge := true, z := true, d := 1, a := 2 })
    (machine { warpOf [(1, uniform 7), (2, uniform 9)] with guards := Vector.replicate 16 1 } 3)
    (fun _ w => w.regs[1].get 0 == 9 && w.regs[1].get 1 == 0 && w.regs[1].get 2 == 7) = true := by decide

/-! ### Cross-lane instructions -/

/-- Spec 09, the example of R204: the fixed tree over 32 lanes. -/
theorem test_vred_tree : gives (.vred { z with d := 2, a := 1, ty := 9, mod := 8 })
    (machine (warpOf [(1, spread fun n => if n < 16 then 0x3FF0000000000000 else if n < 31 then 0x4340000000000000 else 0x4008000000000000)]) (BitVec.allOnes 32))
    (fun _ w => due w 7 == some (.value 0x437E000000000001 false flagNX 0)) = true := by decide
theorem test_shfl_up_edge : gives (.shfl { z with d := 3, a := 1, b := 2, mod := 0b01001 }) (machine (warpOf [(1, spread fun n => BitVec.ofNat 64 n), (2, uniform 3)]) 0xFF00)
    (fun _ w => due w 8 == some (plain 8) && due w 12 == some (plain 9)) = true := by decide
theorem test_vote_uniform : gives (.vote { z with d := 3, a := 1, mod := 2 }) (machine { warpOf [] with guards := Vector.replicate 16 0xF } 0xF)
    (fun _ w => due w 0 == some (.value 0xF true 0 0)) = true := by decide
theorem test_elect : gives (.elect { z with d := 3 }) (machine (warpOf []) 0xC)
    (fun _ w => due w 2 == some (.value 0 true 0 0) && due w 3 == some (.value 0 false 0 0)) = true := by decide
theorem test_xpat_unloaded : gives (.xpat { z with d := 3, a := 1, b := 2, c := 1 }) (machine (warpOf []) 1)
    (fun _ w => w.threads[0].frec.map (·.cause) == some 0x08) = true := by decide
theorem test_member_waits : gives (.shfl { z with len := .w96, d := 3, a := 1, b := 2, mod := 0x100, l32 := 3 }) (machine (warpOf []) 1)
    (fun _ w => w.threads[0].waits == some (.member 3 true) && w.threads[0].pc == 0x1000) = true := by decide

/-! ### Witnesses: vector instructions -/

/-- A warp that may hold exactly what its registers, all written in every lane, hold: v1, v2, v3 and v9 of 32 runs each. -/
def tight : Warp :=
  { warpOf [(1, spread fun n => BitVec.ofNat 64 (n + 1)), (2, spread fun n => BitVec.ofNat 64 (3 * n + 1)), (3, spread fun n => BitVec.ofNat 64 (7 * n)), (9, spread fun n => BitVec.ofNat 64 n)] with quota := 128 }

theorem witness_IntegerArithmeticResults : ∃ (x : Ext) (s : State), Meets x s fun c =>
    Fits c s x.d (chargeOver x [x.srcA, x.srcB, .none_] c x.d) ∧ Fits c s x.d (chargeOver x [x.srcA, x.srcB, x.srcC] c x.d) ∧
    Fits c s x.d (chargeOver x [x.srcA, .none_, .none_] c x.d) ∧ Untrapped c (fun i => plain (c.src x.srcA i)) := by
  refine ⟨{ z with ty := 4, d := 9, a := 1, b := 2, c := 3 }, machine tight 0xFFFFFFFF, ?_⟩
  unfold Fits Untrapped chargeOver
  exact Meets.of _ _ _ (by decide)

theorem witness_CompactArithmeticResults : ∃ (k : Compact) (s : State), Meets (k.toExt 9) s fun c =>
    Fits c s k.d (chargeOver (k.toExt 9) [.reg k.a, .reg k.b, .none_] c k.d) ∧ Fits c s k.d (chargeOver (k.toExt 9) [.reg k.a, .reg k.b, .reg k.d] c k.d) ∧
    Untrapped c (fun i => fpLane 9 (fun u v w => fpFma (tyFmt 9) 0 false u v w) (c.reg k.a i) (c.reg k.b i) (c.reg k.d i)) := by
  refine ⟨{ ge := false, gn := false, gp := 0, s := false, b := 2, a := 1, d := 9 }, machine tight 1, ?_⟩
  unfold Fits Untrapped chargeOver
  exact Meets.of _ _ _ (by decide)

theorem witness_CarryAndDivisionResults : ∃ (x : Ext) (s : State), Meets x s fun c =>
    Fits c s x.d (chargeOver x [x.srcA, x.srcB, .none_] c x.d) ∧
    Untrapped c (fun i => .value (c.src x.srcA i) true 0 0) ∧ Untrapped c (fun i => divLane x.ty.toNat false (c.src x.srcA i) 0) := by
  refine ⟨{ z with ty := 1, d := 9, a := 1, b := 2, c := 3 }, machine tight 0x80000001, ?_⟩
  unfold Fits Untrapped chargeOver
  exact Meets.of _ _ _ (by decide)

theorem witness_BitAddressAndCompareResults : ∃ (x : Ext) (s : State), Meets x s fun c =>
    Fits c s x.d (chargeOver x [x.srcA, x.srcB, .none_] c x.d) ∧ Fits c s x.d (chargeOver x [x.srcA, .none_, .none_] c x.d) ∧
    Fits c s x.d (chargeOver x [x.srcA, x.srcB, x.srcC] c x.d) ∧ Fits c s x.d (chargeOver x [x.srcA, .reg x.b, .none_] c x.d) ∧
    Untrapped c (fun i => fcmpLane 9 0 false false (c.src x.srcA i) (c.src x.srcB i)) := by
  refine ⟨{ z with ty := 1, d := 9, a := 1, b := 2, c := 3 }, machine tight 0x80000001, ?_⟩
  unfold Fits Untrapped chargeOver
  exact Meets.of _ _ _ (by decide)

theorem witness_FloatingPointResults : ∃ (x : Ext) (s : State), x.ty ≠ 9 ∧ Meets x s fun c =>
    Fits c s x.d (chargeOver x [x.srcA, x.srcB, .none_] c x.d) ∧ Fits c s x.d (chargeOver x [x.srcA, .none_, .none_] c x.d) ∧
    Fits c s x.d (chargeOver x [x.srcA, x.srcB, x.srcC] c x.d) ∧ Fits c s x.d (chargeOver x [x.srcA, fscaleB x, .none_] c x.d) ∧
    Untrapped c (fun i => fpLane 10 (fun u v _ => fpDiv (tyFmt 10) 0 false u v) (c.src x.srcA i) (c.src x.srcB i) 0) := by
  refine ⟨{ z with ty := 10, d := 9, a := 1, b := 2, c := 3 }, machine tight 0x80000001, by decide, ?_⟩
  unfold Fits Untrapped chargeOver
  exact Meets.of _ _ _ (by decide)

theorem witness_LongFloatResults : ∃ (x : Ext) (s : State), x.ty = 9 ∧ Meets x s fun c =>
    Fits c s x.d (chargeOver x [x.srcA, .none_, .none_] c x.d) ∧ Fits c s x.d (chargeOver x [x.srcA, x.srcB, .none_] c x.d) ∧
    Untrapped c (fun i => fpLane 9 (fun u v _ => fpDiv (tyFmt 9) 0 false u v) (c.src x.srcA i) (c.src x.srcB i) 0) := by
  refine ⟨{ z with ty := 9, d := 9, a := 1, b := 2 }, machine tight 0x80000001, by decide, ?_⟩
  unfold Fits Untrapped chargeOver
  exact Meets.of _ _ _ (by decide)

theorem witness_ConversionAndRandomResults : ∃ (x : Ext) (s : State), Meets x s fun c =>
    Fits c s x.d (chargeOver x [x.srcA, .none_, .none_] c x.d) ∧ Fits c s x.d (chargeOver x [x.srcA, x.srcB, .none_] c x.d) ∧ Fits c s x.d 32 ∧
    Untrapped c (fun i => plain (rngDraw 1 0 false (c.src x.srcA i) (c.src x.srcB i))) := by
  refine ⟨{ z with ty := 1, d := 9, a := 1, b := 2 }, machine tight 1, ?_⟩
  unfold Fits Untrapped chargeOver
  exact Meets.of _ _ _ (by decide)

theorem witness_SpecialRegisterResults_fsr : ∃ (x : Ext) (s : State), Meets x s fun c => Fits c s x.d (chargeOver x [.none_, .none_, .none_] c x.d) := by
  refine ⟨{ z with d := 9 }, machine tight 1, ?_⟩
  unfold Fits chargeOver
  exact Meets.of _ _ _ (by decide)

theorem witness_RegisterInstructionResults :
    (∃ (x : Ext) (s : State), x.lsel ≠ 1 ∧ Meets x s fun c => c.act = fullMask ∧ Fits c s x.d (c.elemBound x [x.srcA] x.d) ∧ Fits c s x.d 32 ∧
      Fits c s x.d (chargeOver x [x.srcA, x.srcB, .none_] c x.d) ∧ Fits c s x.d (chargeOver x [x.srcA, .none_, .none_] c x.d)) ∧
    ∃ (k : Compact) (s : State), Meets (k.toExt 0) s fun c => Fits c s k.d (chargeOver (k.toExt 0) [.reg k.a] c k.d) := by
  refine ⟨⟨{ z with d := 9, a := 1 }, machine tight 0xFFFFFFFF, by decide, ?_⟩,
    { ge := false, gn := false, gp := 0, s := false, b := 0, a := 1, d := 9 }, machine tight 1, ?_⟩ <;>
  · try unfold Fits
    try unfold chargeOver
    exact Meets.of _ _ _ (by decide)

theorem witness_QuotaAndFreeResults :
    (∃ (x : Ext) (s : State), Meets x s fun c => Mask.lowest c.act = some 0 ∧ Fits c s x.d (c.elemBound x [x.srcB] x.d) ∧ Fits c s x.d (chargeOver x [] c x.d)
      ∧ c.w.quota ≤ c.w.admitted ∧ (s.group? c.w.gid).isSome) ∧
    (∃ (x : Ext) (s : State), Meets x s fun c => c.act = fullMask) ∧ (∃ (x : Ext) (s : State), Meets x s fun c => c.act = 0) ∧
    (∃ (x : Ext) (s : State), Meets x s fun c => c.act ≠ fullMask ∧ c.act ≠ 0 ∧
      c.w.charged - ((regsOf x.l64).map c.w.cellsOf).sum + ((regsOf x.l64).map fun d => c.elemBound x [] d).sum ≤ c.w.quota + s.lendableTo c.w c.wk) ∧
    (∃ (x : Ext) (s : State), Meets x s fun c => c.act ≠ fullMask ∧ c.act ≠ 0 ∧ c.act.getLsbD 0 = true ∧ c.w.threads[0].st ≠ .parked ∧
      c.w.quota + s.lendableTo c.w c.wk < c.w.charged - ((regsOf x.l64).map c.w.cellsOf).sum + ((regsOf x.l64).map fun d => c.elemBound x [] d).sum) ∧
    ∃ (x : Ext) (s : State), Meets x s fun c => c.act = 0 ∧ Fits c s x.d (c.elemBound x [x.srcB] x.d) := by
  refine ⟨⟨{ z with len := .w96, d := 9, lsel := 1, l32 := 64 }, machine tight 1, ?_⟩, ⟨{ z with l64 := 2 }, machine tight 0xFFFFFFFF, ?_⟩,
    ⟨{ z with ge := true, l64 := 2 }, machine tight 1, ?_⟩, ⟨{ z with l64 := 2 }, machine tight 0xFFFF, ?_⟩,
    ⟨{ z with l64 := 2 }, machine { warpOf [(1, uniform 7)] with quota := 1 } 1, ?_⟩, { z with ge := true, d := 9 }, machine tight 1, ?_⟩ <;>
  · try unfold Fits
    try unfold chargeOver
    exact Meets.of _ _ _ (by decide)

/-- R89: a target below the quota, at it, and above it. -/
theorem witness_QuotaAndFreeResults_target : ∃ (x : Ext) (s : State) (g : Group) (l : Launch), Meets x s fun c => Mask.lowest c.act = some 0 ∧
    Fits c s x.d (c.elemBound x [x.srcB] x.d) ∧ s.groupOf c.w = some g ∧ s.launchOf c.w = some l ∧ c.w.borrowed = 0 ∧
    max (min (max 64 ((c.w.held + 31) / 32 * 32)) c.w.admitted) (min ((c.src x.srcB 0).toNat / 32 * 32) c.w.admitted) < c.w.quota := by
  refine ⟨{ z with len := .w96, d := 9, lsel := 1, l32 := 64 }, machine { warpOf [] with quota := 128 } 1, grp, lch, ?_⟩
  unfold Fits
  exact Meets.of _ _ _ (by decide)

theorem witness_GuardInstructionResults : ∃ (x : Ext) (s : State), Meets x s fun c => Fits c s x.d (chargeOver x [.none_, .none_, .none_] c x.d) := by
  refine ⟨{ z with d := 9, a := 1 }, machine tight 1, ?_⟩
  unfold Fits chargeOver
  exact Meets.of _ _ _ (by decide)

theorem witness_OverflowsAndTrapsParkThreads :
    (∃ (x : Ext) (s : State), Meets x s fun c => ¬ Fits c s x.d (c.elemBound x [x.srcA, x.srcB, .none_] x.d) ∧ c.act.getLsbD 0 = true ∧ c.w.threads[0].st ≠ .parked) ∧
    (∃ (x : Ext) (s : State), Meets x s fun c => ¬ Fits c s x.d (c.elemBound x [x.srcA, x.srcB, x.srcC] x.d) ∧ ¬ Fits c s x.d (c.elemBound x [x.srcA, .none_, .none_] x.d) ∧
      ¬ Fits c s x.d (c.elemBound x [x.srcA, .reg x.b, .none_] x.d) ∧ ¬ Fits c s x.d (c.elemBound x [x.srcA, fscaleB x, .none_] x.d) ∧
      ¬ Fits c s x.d (c.elemBound x [if x.lsel = 1 then x.srcB else x.srcA] x.d)) ∧
    (∃ (x : Ext) (s : State), Meets x s fun c => Fits c s x.d (c.elemBound x [x.srcA, x.srcB, .none_] x.d) ∧ c.act.getLsbD 0 = true ∧ c.w.threads[0].st ≠ .parked ∧
      ((fpLane 10 (fun u v _ => fpDiv (tyFmt 10) 0 false u v) (c.src x.srcA 0) (c.src x.srcB 0) 0).trap c.w.threads[0]).isSome = true ∧ x.ty ≠ 9) ∧
    ∃ (x : Ext) (s : State), Meets x s fun c => Fits c s x.d (c.elemBound x [x.srcA, x.srcB, .none_] x.d) ∧ c.act.getLsbD 0 = true ∧ c.w.threads[0].st ≠ .parked ∧
      c.w.threads[0].intTraps (divLane x.ty.toNat false (c.src x.srcA 0) (c.src x.srcB 0)).iflags = true ∧
      c.w.threads[1].intTraps (divLane x.ty.toNat false (c.src x.srcA 1) (c.src x.srcB 1)).iflags = false := by
  refine ⟨⟨{ z with ty := 1, d := 4, a := 1, b := 2 }, machine { tight with quota := 159 } 0xFFFFFFFF, ?_⟩,
    ⟨{ z with ty := 1, d := 9, a := 1, b := 2, c := 3 }, machine { tight with quota := 0 } 0xFFFFFFFF, ?_⟩,
    ⟨{ z with ty := 10, d := 9, a := 6, b := 5 }, machine { tight with quota := 160, regs := tight.regs.set 6 (uniform 0x3F8000003F800000), threads := tight.threads.set 0 { Thread.start 0x1000 with fsr := 0x200 } } 1, ?_⟩,
    { z with ty := 1, d := 9, a := 1, b := 5 }, machine { tight with threads := tight.threads.set 0 { Thread.start 0x1000 with isr := 0x10000 } } 3, ?_⟩ <;>
  · try unfold Fits
    exact Meets.of _ _ _ (by decide)

theorem witness_CrossLaneResults :
    (∃ (x : Ext) (s : State), x.mb 31 = false ∧ x.m 23 2 = 3 ∧ Meets x s fun c => Fits c s x.d 32 ∧ Untrapped c fun i => c.scan x i) ∧
    ∃ (x : Ext), x.mb 31 = false ∧ x.m 23 2 ≠ 3 := by
  refine ⟨⟨{ z with ty := 1, d := 9, a := 1, b := 2, mod := 3 }, machine tight 3, by decide, by decide, ?_⟩, z, by decide, by decide⟩
  unfold Fits Untrapped
  exact Meets.of _ _ _ (by decide)

theorem witness_ReductionResults : ∃ (x : Ext) (s : State), x.mb 31 = false ∧ Meets x s fun c => Fits c s x.d 32 ∧
    Untrapped c fun i => if c.act.getLsbD i then .value (c.src x.srcA i) false flagNX 0 else plain 0 := by
  refine ⟨{ z with ty := 9, d := 9, a := 1 }, machine tight 3, by decide, ?_⟩
  unfold Fits Untrapped
  exact Meets.of _ _ _ (by decide)

theorem witness_PatternPermuteAndMemberResults :
    (∃ (x : Ext) (s : State), x.mb 31 = false ∧ Meets x s fun c => Fits c s x.d 32 ∧ c.act ≠ 0 ∧ (s.coreOf c.core).reuse = [] ∧
      (((s.setWarp c.wk c.w).patternOf c.w x.c.toNat).isSome = true)) ∧
    (∃ (x : Ext) (s : State), x.mb 31 = false ∧ Meets x s fun c => Fits c s x.d 32 ∧ c.act ≠ 0 ∧ c.act.getLsbD 0 = true ∧ c.w.threads[0].st ≠ .parked ∧
      (s.setWarp c.wk c.w).patternOf c.w x.c.toNat = none) ∧
    (∃ (x : Ext) (s : State), x.mb 31 = true ∧ Meets x s fun c => c.set ≠ 0 ∧
      (∀ i : Fin 32, c.set.getLsbD i = true → c.w.threads[i].st = .ready ∧ c.w.threads[i].pc = c.pc) ∧
      (∀ i : Fin 32, c.w.threads[i].waits = none ∧ c.w.threads[i].st ≠ .exited) ∧ x.l32 = c.set ∧ (∀ i : Fin 32, c.w.threads[i].lateRec = none) ∧ c.act ≠ 0 ∧
      Fits c s x.d 32 ∧ (s.coreOf c.core).reuse = [] ∧ Untrapped c (c.scan x)) ∧
    ∃ (x : Ext) (s : State), x.mb 31 = true ∧ Meets x s fun c => c.set ≠ 0 ∧
      (∀ i : Fin 32, c.set.getLsbD i = true → c.w.threads[i].st = .ready ∧ c.w.threads[i].pc = c.pc) ∧
      (∃ j : Fin 32, x.l32.getLsbD j = true ∧ c.set.getLsbD j = false ∧ c.w.threads[j].st = .ready) ∧
      (∀ i : Fin 32, c.w.threads[i].waits = none ∧ c.w.threads[i].st ≠ .exited) := by
  refine ⟨⟨{ z with d := 9, a := 1, b := 2, c := 1 }, machine tight 3 { grp with pats := [(1, (List.replicate 520 0, 7))] }, by decide, ?_⟩,
    ⟨{ z with d := 9, a := 1, b := 2, c := 1 }, machine tight 3, by decide, ?_⟩,
    ⟨{ z with len := .w96, ty := 1, d := 9, a := 1, b := 2, mod := 0x100, l32 := 3 }, machine tight 3, by decide, ?_⟩,
    { z with len := .w96, d := 9, a := 1, b := 2, mod := 0x100, l32 := 3 }, machine tight 1, by decide, ?_⟩ <;>
  · try unfold Fits
    try unfold Untrapped
    exact Meets.of _ _ _ (by decide)

/-! ### Control flow -/

theorem test_bra_backwards : gives (.bra { z with len := .w96, ge := true, gp := 1, l32 := 0xFFFFFFF0 })
    (machine { warpOf [] with guards := Vector.replicate 16 1 } 3) (fun _ w => w.threads[0].pc == 0xFF0 && w.threads[1].pc == 0x100C) = true := by decide
/-- R103: an indirect branch to an odd address faults in its thread. -/
theorem test_brx_misaligned : gives (.brx { z with a := 1 }) (machine (warpOf [(1, spread fun n => BitVec.ofNat 64 (0x2000 + 2 * n))]) 3)
    (fun _ w => w.threads[0].pc == 0x2000 && w.threads[1].st == .parked && w.threads[1].frec.map (fun r => (r.cause, r.addr)) == some (0x03, 0)) = true := by decide
/-- Spec 04, the example of R106: the third issue ends the inner loop and reloads it. -/
theorem test_loop_io_reload : gives (.loopIo { z with len := .w160, l32 := 0xFFFFFFF4, l64 := 0xFFFFFFFFFFFFFFE8, mod := 2 })
    (machine { warpOf [] with threads := Vector.replicate 32 { Thread.start 0x1000 with lc0 := 3, lc1 := 1, reload := 2 } } 1)
    (fun _ w => w.threads[0].pc == 0xFE8 && w.threads[0].lc0 == 2 && w.threads[0].lc1 == 2) = true := by decide
theorem test_call_pushes : gives (.call { z with len := .w96, l32 := 0x100 }) (machine (warpOf []) 1)
    (fun _ w => w.threads[0].rstack == [0x100C] && w.threads[0].pc == 0x1100) = true := by decide
theorem test_ret_empty : gives (.ret z) (machine (warpOf []) 1) (fun _ w => w.threads[0].frec.map (·.cause) == some 0x14) = true := by decide
theorem test_rejoin_waits : gives (.rejoin { z with len := .w96, s := true, mod := 1, l32 := 7 }) (machine (warpOf []) 1)
    (fun _ w => w.threads[0].waits == some (.rejoin 7)) = true := by decide
theorem test_exit_last_ends_warp : leads (.exit { z with s := true }) (machine (warpOf []) 0xFFFFFFFF) (fun t => (t.warp? 0).isNone) = true := by decide
theorem test_sleep : gives (.sleep { z with len := .w96, s := true, ty := 1, lsel := 1, l32 := 5 }) (machine (warpOf []) 1)
    (fun _ w => w.threads[0].st == .waiting (.sleep 5) 0x100C) = true := by decide

/-! ### Witnesses: control flow -/

theorem witness_ControlFlowResults :
    (∃ (x : Ext) (s : State), Meets x s fun _ => True) ∧
    (∃ (x : Ext) (s : State), Meets x s fun c => ∀ i : Fin 32, c.act.getLsbD i = true → (c.reg x.a i).toNat % 4 = 0) ∧
    ∃ (x : Ext) (s : State), Meets x s fun c => c.act.getLsbD 1 = true ∧ (c.reg x.a 1).toNat % 4 ≠ 0 ∧ c.w.threads[1].st ≠ .parked := by
  refine ⟨⟨z, machine (warpOf []) 1, ?_⟩, ⟨{ z with a := 1 }, machine (warpOf [(1, uniform 0x2000)]) 3, ?_⟩,
    { z with a := 1 }, machine (warpOf [(1, spread fun n => BitVec.ofNat 64 (0x2000 + n))]) 3, ?_⟩ <;>
  exact Meets.of _ _ _ (by decide)

/-- A warp whose threads hold a return stack and a spill pointer. -/
def calling (n : Nat) (spill : Word) : Warp := { warpOf [(1, uniform 0x2000)] with threads := Vector.replicate 32 { Thread.start 0x1000 with rstack := List.replicate n 0x1500, spill := spill } }

/-- Where the private area of a thread of warp 0 holds an offset. -/
def spillAt (i : Fin 32) (off : Nat) : Nat := Config.areaPa + privAddr 0 i off

theorem witness_CallAndReturnResults :
    (∃ (x : Ext) (s : State), Meets x s fun c => (∀ i : Fin 32, c.act.getLsbD i = true → (c.w.threads[i]).rstack.length < 16) ∧
      ∀ i : Fin 32, c.act.getLsbD i = true → (c.reg x.a i).toNat % 4 = 0) ∧
    (∃ (x : Ext) (s : State), Meets x s fun c => ∀ i : Fin 32, c.act.getLsbD i = true → (c.w.threads[i]).rstack ≠ []) ∧
    ∃ (x : Ext) (s : State) (pa : Fin 32 → Nat), s.mem.failed = [] ∧ Meets x s fun c => ∀ i : Fin 32, c.act.getLsbD i = true → (c.w.threads[i]).rstack = [] ∧
      (c.w.threads[i]).spill ≠ 0 ∧ s.privPlace c.w i ((c.w.threads[i]).spill.toNat - 8) 8 = .ok (.hbm, pa i) ∧ s.lineBusy c.core (lineKey .hbm (pa i)) = false := by
  refine ⟨⟨{ z with a := 1 }, machine (calling 15 0) 3, ?_⟩, ⟨z, machine (calling 1 0) 3, ?_⟩,
    z, machine (calling 0 8) 3, fun i => spillAt i 0, rfl, ?_⟩ <;>
  exact Meets.of _ _ _ (by decide)

theorem witness_ReturnStackLimits :
    (∃ (x : Ext) (s : State) (pa : Nat), s.mem.failed = [] ∧ Meets x s fun c => c.act = 1#32 <<< (4 : Fin 32).val ∧ (c.w.threads[4]).rstack.length = 16 ∧
      (c.w.threads[4]).spill.toNat < 4096 ∧ s.privPlace c.w 4 (c.w.threads[4]).spill.toNat 8 = .ok (.hbm, pa) ∧ s.lineBusy c.core (lineKey .hbm pa) = false) ∧
    (∃ (x : Ext) (s : State), Meets x s fun c => c.act.getLsbD 4 = true ∧ c.w.threads[4].st ≠ .parked ∧ (c.w.threads[4]).rstack = [] ∧ (c.w.threads[4]).spill = 0 ∧
      ∀ k : Fin 32, c.act.getLsbD k = true → k ≠ 4 → (c.w.threads[k]).rstack ≠ []) ∧
    ∃ (x : Ext) (s : State), Meets x s fun c => c.act.getLsbD 4 = true ∧ c.w.threads[4].st ≠ .parked ∧ (c.w.threads[4]).rstack.length = 16 ∧ 4096 ≤ (c.w.threads[4]).spill.toNat ∧
      ∀ k : Fin 32, c.act.getLsbD k = true → k ≠ 4 → (c.w.threads[k]).rstack.length < 16 := by
  refine ⟨⟨z, machine (calling 16 4088) 16, spillAt 4 4088, rfl, ?_⟩, ⟨z, machine (calling 0 0) 16, ?_⟩, z, machine (calling 16 4096) 16, ?_⟩ <;>
  exact Meets.of _ _ _ (by decide)

/-- R113, R114: a callx to an address that is no multiple of 4 beside one that is. -/
theorem witness_ReturnStackLimits_callx : ∃ (x : Ext) (s : State), Meets x s fun c => (∀ i : Fin 32, c.act.getLsbD i = true → (c.w.threads[i]).rstack.length < 16) ∧
    c.act.getLsbD 1 = true ∧ c.w.threads[1].st ≠ .parked ∧ (c.reg x.a 1).toNat % 4 ≠ 0 ∧ c.act.getLsbD 4 = true ∧ (c.reg x.a 4).toNat % 4 = 0 :=
  ⟨{ z with a := 1 }, machine { calling 15 0 with regs := (calling 15 0).regs.set 1 (spread fun n => BitVec.ofNat 64 (0x2000 + n)) } 0x12, Meets.of _ _ _ (by decide)⟩

theorem test_call_spills : leads (.call { z with len := .w96, l32 := 0x100 }) (machine (calling 16 4088) 16)
    (fun t => t.rawNat .hbm (spillAt 4 4088) 8 == 0x1500 && (match t.warp? 0 with | some w => (w.threads[4]).spill == 4096 | _ => false)) = true := by decide

theorem witness_RejoinExitAndSleepResults :
    (∃ (x : Ext) (s : State), Meets x s fun c => c.act ≠ 0 ∧ (∀ i : Fin 32, c.w.threads[i].waits = none ∧ c.w.threads[i].lateRec = none ∧ c.w.threads[i].st ≠ .exited) ∧
      (∀ i : Fin 32, c.set.getLsbD i = true → c.w.threads[i].st = .ready ∧ c.w.threads[i].pc = c.pc) ∧ (if x.mb 23 then x.l32 else c.guard x.a.toNat) &&& ~~~ c.act = 0) ∧
    (∃ (x : Ext) (s : State), Meets x s fun c => c.act ≠ 0 ∧ (∀ i : Fin 32, c.w.threads[i].waits = none ∧ c.w.threads[i].lateRec = none ∧ c.w.threads[i].st ≠ .exited) ∧
      (∀ i : Fin 32, c.set.getLsbD i = true → c.w.threads[i].st = .ready ∧ c.w.threads[i].pc = c.pc) ∧
      ∃ j : Fin 32, (if x.mb 23 then x.l32 else c.guard x.a.toNat).getLsbD j = true ∧ c.act.getLsbD j = false ∧ c.w.threads[j].st = .ready) ∧
    (∃ (x : Ext) (s : State), Meets x s fun c => c.act ≠ 0 ∧ c.w.doomed = false ∧ (∀ i : Fin 32, c.w.threads[i].waits = none) ∧
      ∃ j : Fin 32, c.act.getLsbD j = false ∧ c.w.threads[j].st = .ready) ∧
    ∃ (s : State) (w : Warp), s.warp? 0 = some w ∧ (∀ i : Fin 32, w.threads[i].lateRec = none) ∧ w.threads[2].st = .waiting (.sleep 0) 0x1008 := by
  refine ⟨⟨{ z with len := .w96, mod := 1, l32 := 7 }, machine (warpOf []) 7, ?_⟩, ⟨{ z with len := .w96, mod := 1, l32 := 0x80000007 }, machine (warpOf []) 7, ?_⟩,
    ⟨z, machine (warpOf []) 7, ?_⟩, machine { warpOf [] with threads := Vector.replicate 32 { Thread.start 0x1000 with st := .waiting (.sleep 0) 0x1008 } } 7, _, rfl, by decide, by decide⟩ <;>
  exact Meets.of _ _ _ (by decide)

/-! ### Memory instructions -/

/-- v2 holds an address for each thread. -/
def addrs (base step : Nat) : Warp := warpOf [(1, uniform 0x43FA000043960000), (2, spread fun n => BitVec.ofNat 64 (base + step * n)), (3, spread fun n => BitVec.ofNat 64 n)]
def local8 : Ext := { z with d := 4, a := 2, b := 1, mod := 2 }
def global8 : Ext := { z with d := 4, a := 2, b := 1 }

/-- The bytes that the accesses on their way are to store. -/
def sent (t : State) : List (List Byte) := t.mem.reqs.flatMap fun r => r.accs.map (·.data)

/-- Spec 10, the example of R229: 300.0 and 500.0 to E4M3. -/
theorem test_stmx_bytes : gives (.stmx { local8 with ty := 10, mod := 0b11010 }) (machine (addrs 64 8) 1)
    (fun t w => sent t == [[0x79, 0x7F]] && w.threads[0].fsr == 0x14) = true := by decide
theorem test_st_scratch_order : leads (.st local8) (machine (addrs 64 4) 1)
    (fun t => sent t == [[0, 0, 0x96, 0x43, 0, 0, 0xFA, 0x43]] && (t.mem.reqs.flatMap fun r => r.accs.map r.placeOf) == [.scratch 64]) = true := by decide
theorem test_st_misaligned : gives (.st local8) (machine (addrs 68 8) 1) (fun _ w => w.threads[0].frec.map (fun r => (r.cause, r.addr)) == some (0x03, 68)) = true := by decide
theorem test_st_outside_scratch : gives (.st local8) (machine (addrs 4096 8) 1) (fun _ w => w.threads[0].frec.map (·.cause) == some 0x05) = true := by decide
theorem test_st_global_travels : leads (.st global8) (machine (addrs 0x8000 8) 3) (fun t => t.mem.hbm == [] && t.mem.reqs.length == 1
    && (t.mem.reqs.flatMap fun r => r.accs.map (·.pa)) == [0x8000, 0x8008]) = true := by decide
theorem test_ld_unmapped : gives (.ld global8) (machine (addrs 0x9000 8) 1) (fun _ w => due w 0 == some (.fault 0x04 0x9000)) = true := by decide
theorem test_stc_image : leads (.stc { local8 with b := 3 }) (machine (warpOf [(2, uniform 64), (3, uniform 9)]) 1)
    (fun t => sent t == [[3, 1, 0, 0, 0, 0, 0, 0], [32, 0, 0, 0, 0, 0, 0, 0], [9, 0, 0, 0, 0, 0, 0, 0]]) = true := by decide
theorem test_cctl_inv : leads (.cctlInv { z with a := 2 }) { machine (addrs 0x8000 8) 1 with cores := [(0, { Core.init with l1 := [{ line := lineKey .hbm 0x8000, data := [], lease := 9, prio := .normal, rel := [], way := 0, no := 0 }] })] }
    (fun t => (t.coreOf 0).l1 == []) = true := by decide
/-- Spec 02, R44: a long-latency result is written by a step of its own. -/
theorem test_result_write : leads (.longLatencyResultWrite 0 7 1)
    (machine { addrs 0 8 with pend := [{ id := 7, pc := 0x1000, dst := .vec 4, act := 1, zero := 0, left := 1, outs := [(0, plain 77)], key := none, old := [], isLoad := true, watch := false, lines := [], hits := [], stamp := 0, rels := [], bound := 32, ldc := none, form := none }] } 1)
    (fun t => match t.warp? 0 with | some w => w.regs[4].get 0 == 77 && w.regs[4].get 1 == 0 && w.pend == [] | none => false) = true := by decide

/-! ### Witnesses: memory instructions -/

def line7 : L1Line := { line := lineKey .hbm 0x8000, data := List.replicate 128 7, lease := 1, prio := .normal, rel := [], way := 0, no := 0 }

theorem witness_LocalAccessesAreRequested :
    (∃ (x : Ext) (s : State) (pl : Fin 32 → Place), x.m 23 3 ≠ 0 ∧ Meets x s fun c => c.act ≠ 0 ∧ Fits c s x.d 32 ∧ (s.coreOf c.core).reuse = [] ∧
      (s.coreOf c.core).l1 = [] ∧ s.roomFor c.core 32 = true ∧ ∀ k : Fin 32, c.act.getLsbD k = true → s.place c.w k (x.m 23 3) (c.ea x k) 8 8 .read = .ok (pl k)) ∧
    (∃ (x : Ext) (s : State) (pl : Fin 32 → Place), x.m 23 3 ≠ 0 ∧ Meets x s fun c => c.act ≠ 0 ∧ Fits c s x.d 32 ∧ (s.coreOf c.core).reuse = [] ∧
      (s.coreOf c.core).l1 = [] ∧ s.roomFor c.core 32 = true ∧ ∀ k : Fin 32, c.act.getLsbD k = true → s.place c.w k (x.m 23 3) (c.ea x k) 8 8 .read = .ok (pl k)) ∧
    ∃ (x : Ext) (s : State) (pl : Fin 32 → Place), x.m 23 3 ≠ 0 ∧ Meets x s fun c => c.act ≠ 0 ∧ s.roomFor c.core 32 = true ∧
      ∀ k : Fin 32, c.act.getLsbD k = true → s.place c.w k (x.m 23 3) (c.ea x k) 8 8 .write = .ok (pl k) ∧ fsrEnables c.w.threads[k].fsr = 0 := by
  refine ⟨⟨local8, machine (addrs 3840 8) 0xFFFFFFFF, fun k => .scratch (3840 + 8 * k), by decide, ?_⟩,
    ⟨{ local8 with mod := 4 }, machine (addrs 65528 0) 3, fun k => .glob .hbm (spillAt k 65528), by decide, ?_⟩,
    local8, machine (addrs 3840 8) 0xFFFFFFFF, fun k => .scratch (3840 + 8 * k), by decide, ?_⟩ <;>
  · try unfold Fits
    exact Meets.of _ _ _ (by decide)

theorem witness_GlobalLoadResults :
    (∃ (x : Ext) (s : State) (pa : Fin 32 → Nat), x.m 23 3 = 0 ∧ Meets x s fun c => c.act ≠ 0 ∧ Fits c s x.d 32 ∧ (s.coreOf c.core).reuse = [] ∧ (s.coreOf c.core).l1 = [] ∧
      s.roomFor c.core 32 = true ∧ ∀ k : Fin 32, c.act.getLsbD k = true → s.place c.w k 0 (c.ea x k) 8 8 .read = .ok (.glob .hbm (pa k))) ∧
    ∃ (x : Ext) (s : State) (l : L1Line), x.m 23 3 = 0 ∧ x.mb 29 = false ∧ Meets x s fun c => c.act = 1#32 <<< (5 : Fin 32).val ∧ Fits c s x.d 32 ∧ (s.coreOf c.core).reuse = [] ∧
      s.roomFor c.core 1 = true ∧ s.place c.w 5 0 (c.ea x 5) 8 8 .read = .ok (.glob .hbm 0x8078) ∧ Target.hbm.homed = true ∧
      ((s.coreOf c.core).l1.find? fun e => e.line == lineKey .hbm 0x8078) = some l ∧ s.ns < l.lease ∧
      (∀ r ∈ s.mem.reqs, r.core = c.core → r.space = 0 → (r.lines.contains (lineKey .hbm 0x8078)) = false) ∧ s.visibleStaged c.w.gid = [] := by
  refine ⟨⟨global8, machine (addrs 0x8F00 8) 0xFFFFFFFF, fun k => 0x8F00 + 8 * k, by decide, ?_⟩,
    global8, { machine (addrs 0x8050 8) 32 with cores := [(0, { Core.init with l1 := [line7] })] }, line7,
    by decide, by decide, ?_⟩ <;>
  · unfold Fits
    exact Meets.of _ _ _ (by decide)

theorem witness_GlobalStoresAreRequested : ∃ (x : Ext) (s : State) (pa : Fin 32 → Nat), x.m 23 3 = 0 ∧ 0 < codeBits (x.m 26 4) / 8 ∧ x.c.getLsbD 5 = true ∧
    Meets x s fun c => c.act ≠ 0 ∧ s.classOf c.w = 0 ∧ s.roomFor c.core 32 = true ∧
      ∀ k : Fin 32, c.act.getLsbD k = true → s.place c.w k 0 (c.ea x k) 8 8 .write = .ok (.glob .hbm (pa k)) ∧ fsrEnables c.w.threads[k].fsr = 0 := by
  refine ⟨{ global8 with c := 32, ty := 1 }, machine (addrs 0x8F00 8) 0xFFFFFFFF, fun k => 0x8F00 + 8 * k, by decide, by decide, by decide, ?_⟩
  exact Meets.of _ _ _ (by decide)

theorem witness_AtomicsAreRequested : ∃ (x : Ext) (s : State) (pa : Fin 32 → Nat), x.m 23 3 = 0 ∧ x.c.getLsbD 5 = false ∧
    Meets x s fun c => c.act ≠ 0 ∧ s.classOf c.w ≠ 2 ∧ Fits c s x.d 32 ∧ s.roomFor c.core 32 = true ∧
      ∀ k : Fin 32, c.act.getLsbD k = true → s.place c.w k 0 (c.ea x k) 4 4 .write = .ok (.glob .hbm (pa k)) := by
  refine ⟨{ global8 with ty := 10 }, machine (addrs 0x8F80 4) 0xFFFFFFFF, fun k => 0x8F80 + 4 * k, by decide, by decide, ?_⟩
  unfold Fits
  exact Meets.of _ _ _ (by decide)

def ordered (n : Nat) : Launch := { lch with kern := { kern with cls := n } }

theorem witness_OrderedStoresAreStaged :
    (∃ (x : Ext) (s : State) (pa : Fin 32 → Nat), x.m 23 3 = 0 ∧ Meets x s fun c => c.act ≠ 0 ∧ s.classOf c.w ≠ 0 ∧ s.group? c.w.gid = some grp ∧ s.roomFor c.core 0 = true ∧
      s.stageRoom c.w.gid c.core false 32 = true ∧
      ∀ k : Fin 32, c.act.getLsbD k = true → s.place c.w k 0 (c.ea x k) 8 8 .write = .ok (.glob .hbm (pa k)) ∧ s.peerFault .hbm (pa k) = none) ∧
    ∃ (x : Ext) (s : State), x.m 23 3 = 0 ∧ Meets x s fun c => c.act ≠ 0 ∧ s.classOf c.w = 2 ∧ s.stageRoom c.w.gid c.core false 32 = true := by
  refine ⟨⟨global8, machine (addrs 0x8F00 8) 3 grp (ordered 1), fun k => 0x8F00 + 8 * k, by decide, ?_⟩, global8, machine (addrs 0x8F00 8) 3 grp (ordered 2), by decide, ?_⟩ <;>
  exact Meets.of _ _ _ (by decide)

theorem test_ordered_store_staged : leads (.st global8) (machine (addrs 0x8000 8) 1 grp (ordered 1))
    (fun t => t.mem.reqs == [] && (match t.group? 1 with | some g => g.staged.map (fun r => (r.lane, r.seq, r.mask, r.pa, r.data)) == [(0, 0, 0xFF, 0x8000, 0x43FA000043960000)] | none => false)) = true := by decide

theorem witness_MisalignedAccessFaults :
    (∃ (x : Ext) (s : State), x.m 23 3 = 2 ∧ x.c.getLsbD 5 = false ∧ Meets x s fun c => c.act = 1#32 <<< (0 : Fin 32).val ∧ (c.ea x 0).toNat % 4 ≠ 0 ∧
      c.w.threads[0].st ≠ .parked ∧ s.roomFor c.core 0 = true ∧ Fits c s x.d 32 ∧ (s.coreOf c.core).reuse = [] ∧ fsrEnables c.w.threads[0].fsr = 0) ∧
    (∃ (x : Ext) (s : State), x.m 23 3 = 0 ∧ x.c.getLsbD 5 = true ∧ Meets x s fun c => c.act = 1#32 <<< (0 : Fin 32).val ∧
      s.place c.w 0 (x.m 23 3) (c.ea x 0) 8 8 .write = .error 0x04 ∧ c.w.threads[0].st ≠ .parked ∧ s.roomFor c.core 0 = true ∧ s.classOf c.w = 2) ∧
    (∃ (k : Compact) (s : State), Meets (k.toExt 0) s fun c => c.act = 1#32 <<< (0 : Fin 32).val ∧ (c.ea (k.toExt 0) 0).toNat % 8 ≠ 0 ∧ c.w.threads[0].st ≠ .parked ∧
      s.roomFor c.core 0 = true) ∧
    ∃ (x : Ext) (s : State), Meets x s fun c => c.act = 1#32 <<< (0 : Fin 32).val ∧ s.place c.w 0 2 (c.ea x 0) 8 8 .write = .error 0x05 ∧ c.w.threads[0].st ≠ .parked ∧
      s.roomFor c.core 0 = true ∧ Fits c s x.d 32 := by
  refine ⟨⟨local8, machine (addrs 0x101 8) 1, by decide, by decide, ?_⟩, ⟨{ global8 with c := 32 }, machine (addrs 0x9000 8) 1 grp (ordered 2), by decide, by decide, ?_⟩,
    ⟨{ ge := false, gn := false, gp := 0, s := false, b := 1, a := 2, d := 4 }, machine (addrs 0x8004 8) 1, ?_⟩, local8, machine (addrs 4096 8) 1, ?_⟩ <;>
  · try unfold Fits
    exact Meets.of _ _ _ (by decide)

theorem witness_BarrierFenceAndCacheResults_cache :
    (∃ (x : Ext) (s : State), Meets x s fun c => s.roomFor c.core 32 = true ∧ c.act ≠ 0 ∧ s.place c.w 0 (x.m 23 3) (c.ea x 0) 1 1 .read = .ok (.glob .hbm 0x8FF8)) ∧
    ∃ (x : Ext) (s : State) (pa : Fin 32 → Nat), Meets x s fun c => c.act ≠ 0 ∧ ∀ k : Fin 32, c.act.getLsbD k = true → s.resolve (c.ea x k) .read = .ok (.hbm, pa k) := by
  refine ⟨⟨global8, machine (addrs 0x8FF8 1) 0xFF, ?_⟩, global8, machine (addrs 0x8FF8 1) 0xFF, fun k => 0x8FF8 + k, ?_⟩ <;>
  exact Meets.of _ _ _ (by decide)

/-! ### Ordering, atomics and the steps of the memory paths -/

/-- A request of warp 0's thread 0 for 8 bytes of HBM at 0x8000. -/
def access : Access := { lane := 0, va := 0x8000, pa := 0x8000, n := 8, data := [1, 2, 3, 4, 5, 6, 7, 8], b := 5, cmp := 0, mode := 0, ticket := none, hz := 0 }
def request (kind : ReqKind) : Request :=
  { id := 3, core := 0, gid := 1, widx := 0, kind := kind, grp := 3, space := 0, unit := 0, tgt := .hbm, accs := [access], act := 1, pc := 0x1000, order := 0, scope := 0
    hint := 0, fresh := false, noAlloc := false, lease := 2048, sluice := false, epoch := 0, frontier := false, pend := none, weight := 1, stage := .posted }
def owed : Pending := { id := 9, pc := 0x1000, dst := .vec 4, act := 1, zero := 0, left := 1, outs := [], key := none, old := [], isLoad := true, watch := false, lines := [], hits := [], stamp := 0, rels := [], bound := 32, ldc := none, form := none }
def sending (r : Request) (w : Warp := { addrs 0x8000 8 with pend := [owed] }) (g : Group := grp) : State :=
  let s := machine w 1 g
  { s with mem := { s.mem with reqs := [r], hbm := [(0x8000, 7)] } }

theorem test_write_performed : leads (.homeSliceWrite 3) (sending (request .store))
    (fun t => t.mem.hbm.bytes 0x8000 9 == [1, 2, 3, 4, 5, 6, 7, 8, 0]) = true := by decide
theorem test_atomic_adds : leads (.homeSliceWrite 3) (sending (request (.atom 0 false false true)))
    (fun t => t.mem.hbm == [(0x8000, 12)]) = true := by decide
theorem test_read_performed : leads (.homeSliceRead 3) (sending { request (.load .zx) with pend := some 9 })
    (fun t => Sparse.find t.mem.leases (lineKey .hbm 0x8000) == some 2052 && (t.mem.reqs.map fun r => match r.stage with | .performed p c d _ _ => (p, c, d.take 2) | _ => (0, 0, [])) == [(0, 2048, [7, 0])]) = true := by decide
theorem test_fill_gives_bytes : leads (.l1Fill 3) (sending { request (.load .zx) with pend := some 9, stage := .performed 0 2048 (List.replicate 128 3) (List.replicate 16 0) 0 })
    (fun t => (t.coreOf 0).l1.map (·.lease) == [2048] && (match t.warp? 0 with | some w => due w 0 == some (plain 0x0303030303030303) | none => false)) = true := by decide
/-- Spec 10, the example of R228: two E4M3 elements to binary32. -/
theorem test_ldmx_widens : leads (.vaultAccess 3)
    (sending { request (.load (.mx 3 10)) with space := 2, pend := some 9, accs := [{ access with pa := 64, n := 2 }] } (g := { grp with scratch := [(64, 0x79), (65, 0x7F)] }))
    (fun t => match t.warp? 0 with | some w => due w 0 == some (plain 0x7FC0000043900000) | none => false) = true := by decide
theorem test_ld_signed : leads (.vaultAccess 3)
    (sending { request (.load .sx) with space := 2, pend := some 9, accs := [{ access with pa := 64, n := 1 }] } (g := { grp with scratch := [(64, 0x80)] }))
    (fun t => match t.warp? 0 with | some w => due w 0 == some (plain 0xFFFFFFFFFFFFFF80) | none => false) = true := by decide
theorem test_lease_ends : leads (.l1LeaseExpiry 0 (lineKey .hbm 0x8000)) { machine (addrs 0 8) 1 with cores := [(0, { Core.init with l1 := [{ line7 with lease := 0 }] })] }
    (fun t => (t.coreOf 0).l1 == []) = true := by decide
theorem test_store_time_returns : leads (.storeCompletionReturn 3) (sending { request .store with stage := .performed 4 2100 [] [] 0 })
    (fun t => t.mem.reqs == [] && (match t.warp? 0 with | some w => (w.threads[0]).farH == 2100 | none => false)) = true := by decide

theorem witness_BarrierFenceAndCacheResults_fence :
    (∃ (x : Ext) (s : State), x.m 26 3 = 0 ∧ Meets x s fun c => c.act ≠ 0) ∧ (∃ (x : Ext) (s : State), Meets x s fun c => c.act = 0) ∧
    (∃ (x : Ext) (s : State), x.m 26 3 ≠ 0 ∧ x.m 29 3 < 4 ∧ s.mem.reqs = [] ∧ s.mem.ticketsOut = [] ∧ Meets x s fun c => c.act ≠ 0 ∧
      (∀ k : Fin 32, c.set.getLsbD k = true → c.w.threads[k].pc = c.pc ∧ c.w.threads[k].lateRec = none) ∧
      (∀ k : Fin 32, c.set.getLsbD k = false → c.w.threads[k].waits = none) ∧
      ∀ k : Fin 32, c.act.getLsbD k = true → s.timePasses (c.w.threads[k].horizon (x.m 26 3)) = true ∧ s.timePasses c.w.threads[k].acqH = true) ∧
    ∃ (x : Ext) (s : State) (r : Request), x.m 26 3 ≠ 0 ∧ x.m 29 3 < 4 ∧ 2 ≤ x.m 29 3 ∧ r ∈ s.mem.reqs ∧ r.isOf 1 0 (0 : Fin 32) = true ∧ r.writes = true ∧ r.stage = .posted ∧
      Meets x s fun c => c.act.getLsbD 0 = true ∧ c.w.gid = 1 ∧ c.w.widx = 0 ∧
        (∀ k : Fin 32, c.set.getLsbD k = true → c.w.threads[k].pc = c.pc ∧ c.w.threads[k].lateRec = none) ∧
        ∀ k : Fin 32, c.set.getLsbD k = false → c.w.threads[k].waits = none := by
  refine ⟨⟨{ z with mod := 0xC0 }, machine (warpOf []) 1, by decide, ?_⟩, ⟨{ z with ge := true, mod := 0xC8 }, machine (warpOf []) 1, ?_⟩,
    ⟨{ z with mod := 0xE8 }, machine (warpOf []) 0xFFFFFFFF, by decide, by decide, rfl, rfl, ?_⟩,
    { z with mod := 0x88 }, sending (request .store), request .store, by decide, by decide, by decide, by decide, by decide, by decide, by decide, ?_⟩ <;>
  exact Meets.of _ _ _ (by decide)

theorem witness_BarrierFenceAndCacheResults_barrier :
    (∃ (x : Ext) (s : State), x.m 26 3 ≠ 3 ∧ x.l32 ≠ 0 ∧ Meets x s fun c => c.act ≠ 0 ∧ s.group? c.w.gid = some grp ∧ Fits c s x.d 32 ∧
      (∀ k : Fin 32, c.act.getLsbD k = true → c.w.threads[k].st = .ready ∧ s.mayRelease c.w (x.m 26 3) k = true) ∧
      (s.barrier c.w.gid false x.b.toNat).arrived = 0 ∧ (s.barrier c.w.gid false x.b.toNat).arrived + Mask.count c.act = x.l32.toNat) ∧
    (∃ (x : Ext) (s : State), x.m 26 3 ≠ 3 ∧ x.l32 ≠ 0 ∧ Meets x s fun c => c.act ≠ 0 ∧ Fits c s x.d 32 ∧
      (∀ k : Fin 32, c.act.getLsbD k = true → c.w.threads[k].st = .ready ∧ s.mayRelease c.w (x.m 26 3) k = true) ∧
      (s.barrier c.w.gid false x.b.toNat).count = x.l32.toNat ∧ (s.barrier c.w.gid false x.b.toNat).openLeft = x.l32.toNat ∧
      (s.barrier c.w.gid false x.b.toNat).arrived + Mask.count c.act = x.l32.toNat) ∧
    ∃ (x : Ext) (s : State), x.m 26 3 ≠ 3 ∧ Meets x s fun c => c.act ≠ 0 ∧ (s.group? c.w.gid).isSome ∧
      (∀ k : Fin 32, c.act.getLsbD k = true → c.w.threads[k].st = .ready ∧ s.mayRelease c.w (x.m 26 3) k = true) ∧
      ∀ k : Fin 32, c.act.getLsbD k = true → (c.reg x.a k).toNat < (s.barrier c.w.gid false x.b.toNat).phase := by
  refine ⟨⟨{ z with len := .w96, d := 4, b := 3, mod := 0x10, l32 := 32 }, machine (warpOf []) 0xFFFFFFFF, by decide, by decide, ?_⟩,
    ⟨{ z with len := .w96, d := 4, b := 3, mod := 0x10, l32 := 9 }, machine (warpOf []) 1 { grp with bars := [(3, { phase := 4, arrived := 8, count := 9, openLeft := 9 })] }, by decide, by decide, ?_⟩,
    { z with a := 2, b := 3, mod := 0x10 }, machine (warpOf [(2, uniform 3)]) 1 { grp with bars := [(3, { phase := 4, arrived := 8, count := 9, openLeft := 9 })] }, by decide, ?_⟩ <;>
  · try unfold Fits
    exact Meets.of _ _ _ (by decide)

theorem test_bar_completes : leads (.bar { z with len := .w96, s := true, b := 3, mod := 0x10, l32 := 9 })
    (machine (warpOf []) 1 { grp with bars := [(3, { phase := 4, arrived := 8, count := 9, openLeft := 9 })] })
    (fun t => t.barrier 1 false 3 == { phase := 5, arrived := 0, count := 0, openLeft := 0 } && (match t.warp? 0 with | some w => w.threads[0].pc == 0x100C && w.threads[0].st == .ready | none => false)) = true := by decide
theorem test_bar_waits : gives (.bar { z with len := .w96, s := true, b := 3, mod := 0x10, l32 := 9 }) (machine (warpOf []) 1)
    (fun t w => w.threads[0].waits == some (.bar false 3 0) && t.barrier 1 false 3 == { phase := 0, arrived := 1, count := 9, openLeft := 9 }) = true := by decide

def watch : Watch := { id := 6, gid := 1, widx := 0, lane := 0, slot := none, d := 4, cond := 0, n := 8, b := 7, acq := false, va := 0x8000, tgt := .hbm, space := 0, unit := 0, pa := 0x8000, notified := true, pc := 0x1000, flt := none }
def watching (v : Watch) (w : Warp) : State :=
  let s := machine w 1
  { s with mem := { s.mem with watches := [v], hbm := [(0x8000, 7)] } }
def waitOwed : Pending := { owed with watch := true }
def watcher : Warp := { warpOf [] with pend := [waitOwed], threads := Vector.replicate 32 { Thread.start 0x1000 with st := .waiting (.value 6) 0x1008 } }

theorem test_waitv_notified : leads (.waitvNotify 0 0) (watching watch watcher)
    (fun t => t.mem.watches == [] && (match t.warp? 0 with | some w => w.regs[4].get 0 == 7 && w.threads[0].st == .ready && w.threads[0].pc == 0x1008 | none => false)) = true := by decide

theorem witness_ValueWaits :
    (∃ (x : Ext) (s : State) (pl : Fin 32 → Place), Meets x s fun c => c.act ≠ 0 ∧ Fits c s x.d 32 ∧ s.roomFor c.core 32 = true ∧
      ∀ k : Fin 32, c.act.getLsbD k = true → s.place c.w k (x.m 23 3) (c.ea x k) (atomBytes x.ty.toNat) (atomBytes x.ty.toNat) .read = .ok (pl k)) ∧
    let set : State → Warp → Watch → Prop := fun s q v => s.warp? 0 = some q ∧
      (s.mem.watches.find? fun w => w.gid == q.gid && w.widx == q.widx && w.lane == 0 && w.slot.isNone) = some v ∧ v.notified = true ∧
      s.watchClear v (wkCore 0) = true ∧ q.threads[0].st = .waiting (.value 6) 0x1008 ∧ q.threads[0].lateRec = none ∧
      waitOwed ∈ q.pend ∧ waitOwed.watch = true ∧ waitOwed.left.getLsbD 0 = true ∧ waitOwed.dst = .vec v.d ∧ waitOwed.zero = 0 ∧ waitOwed.form = none ∧ (q.pend.map (·.id)).Nodup ∧
      ∀ e, e ∈ q.pend → e.watch = true → e.left.getLsbD 0 = true → e = waitOwed
    (∃ (s : State) (q : Warp) (v : Watch) (bs : List Byte), set s q v ∧ v.acq = false ∧ s.watchFault v = none ∧ s.lineBad v.tgt v.pa = none ∧
      s.watchBytes v = some bs ∧ waitCond v.cond v.n (natOfBytes bs) (v.b.toNat % 2 ^ (8 * v.n)) = true) ∧
    (∃ (s : State) (q : Warp) (v : Watch) (bs : List Byte), set s q v ∧ v.acq = false ∧ s.watchFault v = none ∧ s.lineBad v.tgt v.pa = none ∧
      s.watchBytes v = some bs ∧ waitCond v.cond v.n (natOfBytes bs) (v.b.toNat % 2 ^ (8 * v.n)) = false) ∧
    ∃ (s : State) (q : Warp) (v : Watch), set s q v ∧ v.flt = some 0x04 := by
  refine ⟨⟨{ global8 with ty := 1 }, machine (addrs 0x8F00 8) 0xFFFFFFFF, fun k => .glob .hbm (0x8F00 + 8 * k), ?_⟩, ⟨watching watch watcher, watcher, watch, [7, 0, 0, 0, 0, 0, 0, 0], ?_⟩,
    ⟨watching { watch with b := 8 } watcher, watcher, { watch with b := 8 }, [7, 0, 0, 0, 0, 0, 0, 0], ?_⟩, watching { watch with flt := some 4 } watcher, watcher, { watch with flt := some 4 }, ?_⟩
  · unfold Fits
    exact Meets.of _ _ _ (by decide)
  all_goals decide

/-- A request for a word of a register record in the scratchpad, and the transfer that waits for it. -/
def recordRead : Request := { request (.load .reg) with space := 2, pend := some 9, accs := (List.range 3).map fun j => { access with va := BitVec.ofNat 64 (64 + 8 * j), pa := 64 + 8 * j, mode := j } }
def recordAsked : RecordRead := { lane := 0, space := 2, va := 64, words := [], served := [], fault := none }
def recordOwed : Pending := { owed with ldc := some recordAsked }
/-- A register image of one run: number 3, one run, 32 threads with the value 9. -/
def recordBytes : Memory := [(64, 3), (65, 1), (72, 32), (80, 9)]

theorem witness_RegisterRecordTransfers :
    (∃ (x : Ext) (s : State) (pl : Nat → Place), Meets x s fun c => Mask.lowest c.act = some 3 ∧ s.roomFor c.core 37 = true ∧ (s.classOf c.w = 0 ∨ x.m 23 3 ≠ 0) ∧
      ∀ k, k < (regRecord x.b.toNat c.w.regs[x.b.toFin].runs).length / 8 → s.place c.w 3 (x.m 23 3) (c.ea x 3 + BitVec.ofNat 64 (8 * k)) 8 8 .write = .ok (pl k)) ∧
    (∃ (x : Ext) (s : State) (pl : Nat → Place), Meets x s fun c => Mask.lowest c.act = some 3 ∧ s.roomFor c.core 37 = true ∧ Fits c s x.d 32 ∧ (s.coreOf c.core).l1 = [] ∧
      ∀ k, k ∈ firstWords (c.ea x 3) → s.place c.w 3 (x.m 23 3) (c.ea x 3 + BitVec.ofNat 64 (8 * k)) 8 8 .read = .ok (pl k)) ∧
    ∃ (s : State) (r : Request) (w : Warp) (p : Pending) (q : RecordRead), s.req? 3 = some r ∧ r.kind = .load .reg ∧ r.space = 2 ∧ r.pend = some 9 ∧
      s.canPerform r = true ∧ s.warpOfReq r = some 0 ∧ s.warp? 0 = some w ∧ (w.pend.find? fun e => e.id == 9) = some p ∧ p.ldc = some q ∧ q.fault = none ∧
      (∀ e, e ∈ s.mem.reqs → e.id ≠ 3 → e.pend ≠ some 9) ∧ p.outs = [] ∧
      let q1 : RecordRead := { q with words := r.accs.foldl (fun m (a : Access) => Sparse.insert m a.mode (s.localBytes r a)) q.words }
      (Sparse.find q1.words 0).isSome = true ∧ q1.missing = [] ∧ readRecord (q1.words.flatMap fun e => e.2) = some [{ value := 9, count := 32 }] := by
  refine ⟨⟨{ local8 with b := 3 }, machine (addrs 3776 8) 8, fun k => .scratch (3800 + 8 * k), ?_⟩,
    ⟨global8, machine (addrs 0x8FD0 8) 8, fun k => .glob .hbm (0x8FE8 + 8 * k), ?_⟩,
    sending recordRead { warpOf [] with pend := [recordOwed] } { grp with scratch := recordBytes }, recordRead, { warpOf [] with pend := [recordOwed] }, recordOwed,
      recordAsked, by decide⟩
  all_goals
    try unfold Fits
    exact Meets.of _ _ _ (by decide)

/-- The same words, as they come with a line of memory; of a count that is none, they are no record. -/
def recordBytesOf (count : Nat) : List Byte := [3, BitVec.ofNat 8 count] ++ zeros 6 ++ bytesOfNat 8 32 ++ bytesOfNat 8 9 ++ zeros 104
def recordLine (count : Nat) : Request :=
  { recordRead with space := 0, accs := recordRead.accs.map fun a => { a with pa := 0x8000 + 8 * a.mode }
                    stage := .performed 0 2048 (recordBytesOf count) [] 0 }

theorem witness_RegisterRecordTransfers_line : ∀ n : Fin 2, ∃ (s : State) (r : Request) (w : Warp) (data : List Byte), s.req? 3 = some r ∧ r.kind = .load .reg ∧ r.space = 0 ∧ r.pend = some 9 ∧
    r.stage = .performed 0 2048 data [] 0 ∧ data ≠ [] ∧ r.accs ≠ [] ∧ r.gid ≠ outsideGid ∧ s.warpOfReq r = some 0 ∧ s.warp? 0 = some w ∧
    (w.pend.find? fun e => e.id == 9) = some recordOwed ∧ recordAsked.fault = none ∧ (∀ e, e ∈ s.mem.reqs → e.id ≠ 3 → e.pend ≠ some 9) ∧ recordOwed.outs = [] ∧
    let q1 : RecordRead := { recordAsked with words := r.accs.foldl (fun m (a : Access) => Sparse.insert m a.mode (s.overlay r.gid r.tgt a.pa ((data.drop (a.pa % 128)).take a.n))) [] }
    (Sparse.find q1.words 0).isSome = true ∧ q1.missing = [] ∧ (readRecord (q1.words.flatMap fun e => e.2)).isSome = (n == 1) := fun n =>
  ⟨sending (recordLine n) { warpOf [] with pend := [recordOwed] }, recordLine n, { warpOf [] with pend := [recordOwed] }, recordBytesOf n, by revert n; decide⟩

/-- A request whose line and lease are as the witnesses below need them. -/
def loading : Request := { request (.load .zx) with pend := some 9 }
def arrived : Request := { loading with stage := .performed 0 2048 (List.replicate 128 3) (List.replicate 16 0) 0 }
def returned : Request := { request .store with stage := .performed 4 2100 [] [] 0 }
def holder : Warp := { addrs 0x8000 8 with pend := [owed] }

theorem witness_WritesArePerformed :
    (∃ (s : State) (r : Request) (a : Access), s.req? 3 = some r ∧ r.accs = [a] ∧ s.canPerform r = true ∧ r.writes = true ∧ r.space = 0 ∧ s.refusal r = none ∧
      s.lineBad r.tgt a.pa = none ∧ s.poolHeld r = false ∧ (s.recordUnit r).length ≤ 1) ∧
    (∃ (s : State) (r : Request) (a : Access) (g : Group), s.req? 3 = some r ∧ r.accs = [a] ∧ s.canPerform r = true ∧ r.writes = true ∧ r.space = 2 ∧ (s.recordUnit r).length ≤ 1 ∧ s.group? r.gid = some g) ∧
    (∃ (s : State) (r : Request) (a : Access), s.req? 3 = some r ∧ r.accs = [a] ∧ s.canPerform r = true ∧ r.writes = true ∧ r.space = 1 ∧ (s.recordUnit r).length ≤ 1) ∧
    (∃ (s : State) (r : Request) (a : Access) (w : Warp), s.req? 3 = some r ∧ r.accs = [a] ∧ r.kind = .store ∧ a.data ≠ [] ∧ r.stage = .performed 4 2100 [] [] 0 ∧ r.sluice = false ∧
      s.warpOfReq r = some 0 ∧ s.warp? 0 = some w) ∧
    ∃ (s : State) (r : Request) (a : Access), s.req? 3 = some r ∧ r.accs = [a] ∧ r.stage = .unacked :=
  ⟨⟨sending (request .store), request .store, access, by decide⟩, ⟨sending { request .store with space := 2 }, { request .store with space := 2 }, access, grp, by decide⟩,
    ⟨sending { request .store with space := 1 }, { request .store with space := 1 }, access, by decide⟩, ⟨sending returned, returned, access, holder, by decide⟩,
    sending { request .store with stage := .unacked }, { request .store with stage := .unacked }, access, by decide⟩

/-- R227: a record whose second line a link that carries nothing refuses. -/
def torn : State :=
  let far : Request := { request .store with id := 4, tgt := .peer 1, accs := [{ access with pa := 0x10000 }] }
  let s := sending (request .store)
  { s with mem := { s.mem with reqs := [request .store, far] } }

theorem witness_WritesArePerformed_refused : ∃ (s : State) (r q : Request) (a : Access), s.req? 3 = some r ∧ r.accs = [a] ∧ r.space = 0 ∧ s.poolHeld r = false ∧
    1 < (s.recordUnit r).length ∧ s.unitClear (s.recordUnit r) = true ∧ s.mem.failed = [] ∧ q ∈ s.recordUnit r ∧ (s.refusal q).isSome = true :=
  ⟨torn, request .store, torn.mem.reqs.getD 1 (request .store), access, by decide⟩

theorem test_record_stored_whole : leads (.homeSliceWrite 3) torn (fun t => t.mem.hbm == [(0x8000, 7)] && t.mem.reqs == []
    && (match t.warp? 0 with | some w => w.threads[0].frec.map (·.cause) == some 0x13 | none => false)) = true := by decide

/-- R253, R426: a read of the host that waits for a release time. -/
theorem witness_ReadsArePerformed_outside : ∃ (s : State) (r : Request) (p ends no : Nat) (data : List Byte) (rels : List Nat), s.req? 3 = some r ∧ r.gid = outsideGid ∧
    r.stage = .performed p ends data rels no ∧ ¬ ∀ u, u ∈ rels → s.timePasses u = true :=
  ⟨sending { request (.load .zx) with gid := outsideGid, stage := .performed 0 0 [] [9] 0 }, _, 0, 0, 0, [], [9], rfl, rfl, rfl, by decide⟩

theorem witness_ReadsArePerformed :
    (∃ (s : State) (r : Request) (a : Access), s.req? 3 = some r ∧ r.accs = [a] ∧ r.kind = .load .zx ∧ s.canPerform r = true ∧ r.space = 0 ∧ s.refusal r = none ∧
      s.lineBad r.tgt a.pa = none ∧ r.tgt.homed = true ∧ r.fresh = false) ∧
    (∃ (s : State) (r : Request) (a : Access) (w : Warp) (q : Pending), s.req? 3 = some r ∧ r.accs = [a] ∧ r.kind = .load .zx ∧
      r.stage = .performed 0 2048 (List.replicate 128 3) (List.replicate 16 0) 0 ∧ r.pend = some 9 ∧ s.warpOfReq r = some 0 ∧ s.warp? 0 = some w ∧ (r.accs.map (·.lane)).Nodup ∧
      q ∈ w.pend ∧ q.id = 9 ∧ r.tgt.homed = true ∧ r.fresh = false ∧ r.noAlloc = false ∧ s.ns < 2048 ∧
      ∀ l, l ∈ (s.coreOf r.core).l1 → l.line = lineKey r.tgt a.pa → l.no ≤ 0) ∧
    (∃ (s : State) (r : Request) (a : Access) (w : Warp), s.req? 3 = some r ∧ r.accs = [a] ∧ r.kind = .load .zx ∧ s.canPerform r = true ∧ r.space = 1 ∧ r.pend = some 9 ∧
      s.warpOfReq r = some 0 ∧ s.warp? 0 = some w ∧ (r.accs.map (·.lane)).Nodup) ∧
    (∃ (s : State) (l : L1Line), l ∈ (s.coreOf 0).l1 ∧ l.lease ≤ s.ns) ∧
    ∃ (s : State) (w : Warp) (p : Pending), s.warp? 0 = some w ∧ (w.pend.find? fun q => q.id == 9) = some p ∧ p.dst = .vec 4 ∧ p.left = p.act ∧ p.act ≠ 0 ∧ p.key = none ∧ p.form = none ∧
      ∀ i : Fin 32, Sparse.find p.outs i.val = some (plain 5) :=
  ⟨⟨sending loading, loading, access, by decide⟩, ⟨sending arrived, arrived, access, holder, owed, by decide⟩,
    ⟨sending { loading with space := 1 }, { loading with space := 1 }, access, holder, by decide⟩,
    ⟨{ machine (addrs 0 8) 1 with cores := [(0, { Core.init with l1 := [{ line7 with lease := 0 }] })] }, { line7 with lease := 0 }, by decide⟩,
    machine { addrs 0 8 with pend := [{ owed with outs := (List.range 32).map fun n => (n, plain 5) }] } 1, { addrs 0 8 with pend := [{ owed with outs := (List.range 32).map fun n => (n, plain 5) }] },
      { owed with outs := (List.range 32).map fun n => (n, plain 5) }, by decide⟩

def fencing : Warp := { warpOf [] with threads := Vector.replicate 32 { Thread.start 0x1000 with st := .waiting (.fence 3 5 none) 0x1008 } }
def acquiring : Warp := { warpOf [] with threads := Vector.replicate 32 { Thread.start 0x1000 with st := .waiting (.acquire 9 0) 0x1008 } }

theorem witness_OrderingSteps :
    (∃ (s : State) (w : Warp), s.warp? 0 = some w ∧ w.threads[7].st = .waiting (.acquire 9 0) 0x1008 ∧ w.threads[7].lateRec = none ∧ s.timePasses 0 = true ∧
      ∀ r, r ∈ s.mem.reqs → r.pend ≠ some 9) ∧
    (∃ (s : State) (w : Warp), s.warp? 0 = some w ∧ w.fencePcs = [0x1000] ∧ 3 < 4 ∧ s.mem.reqs = [] ∧ s.mem.ticketsOut = [] ∧
      ∀ k : Fin 32, w.threads[k].st = .waiting (.fence 3 5 none) 0x1008 ∧ w.threads[k].pc = 0x1000 ∧ w.threads[k].lateRec = none ∧
        s.timePasses (w.threads[k].horizon 5) = true ∧ s.timePasses w.threads[k].acqH = true) ∧
    (∃ (s : State) (r : Request), s.req? 3 = some r ∧ r.order = 4 ∧ r.accs ≠ [] ∧ (∀ a, a ∈ r.accs → a.ticket = none) ∧ ∀ q, q ∈ s.mem.reqs → q.id < r.id → q.order ≠ 4) ∧
    ∃ (s : State) (r : Request) (g : Group) (l : Launch), s.req? 3 = some r ∧ s.group? r.gid = some g ∧ s.launch? g.launch = some l ∧ g.index = l.frontier ∧ r.frontier = true ∧
      g.staged = [] ∧ ∀ q, q ∈ s.mem.reqs → q.sluice = false :=
  ⟨⟨machine acquiring 1, acquiring, by decide⟩, ⟨machine fencing 1, fencing, by decide⟩,
    ⟨sending { request .store with order := 4 }, { request .store with order := 4 }, by decide⟩,
    sending { request (.atom 0 false false false) with frontier := true }, { request (.atom 0 false false false) with frontier := true }, grp, lch, by decide⟩

theorem test_fence_completes : leads (.fenceComplete 0) (machine fencing 1)
    (fun t => match t.warp? 0 with | some w => w.threads[31].st == .ready && w.threads[31].pc == 0x1008 | none => false) = true := by decide
theorem test_beacon_ticket : leads (.beaconTicket 3) (sending { request .store with order := 4 })
    (fun t => t.mem.ticket == 1 && t.mem.reqs.flatMap (fun r => r.accs.map (·.ticket)) == [some 0]) = true := by decide

/-! ### Rings, launches, completion slots, stage queues and steps -/

/-- Ring q2 of the example of R237: two slots of 64 bytes at 0x100. -/
def ring : Ring := { off := 0x100, slots := 2, size := 64, free := 0, full := 0, wr := 0, wc := 0, rd := 0, rc := 0, np := 2, nr := 0, done := [1] }
def ringed (r : Ring) (q : List RingWaiter := []) : Group := { grp with rings := [(2, r)], ringQ := if q = [] then [] else [(2, q)] }
def onRing : Ext := { z with d := 4, a := 2, b := 3, c := 2 }

/-- Spec 10, the example of R237, steps 1, 3 and 5. -/
theorem test_rpush_get : leads (.rpushGet onRing) (machine (warpOf []) 3 (ringed { ring with free := 2, np := 0, done := [] }))
    (fun t => t.ring? 1 2 == some { ring with free := 1, np := 1, wr := 1, done := [] } && (match t.warp? 0 with | some w => w.regs[4].get 1 == 0x100 | none => false)) = true := by decide
theorem test_rpush_put_out_of_order : leads (.rpushPut onRing) (machine (warpOf [(2, uniform 0x140)]) 3 (ringed { ring with done := [] }))
    (fun t => (t.ring? 1 2).map (fun r => (r.full, r.wc, r.done)) == some (0, 0, [1])) = true := by decide
theorem test_rpush_put_releases :
    let s := machine (warpOf [(2, uniform 0x100)]) 3 (ringed ring [.warp 1 1 false 5])
    leads (.rpushPut onRing) { s with warps := s.warps ++ [(1, { warpOf [] with widx := 1, threads := Vector.replicate 32 { Thread.start 0x1000 with st := .waiting (.ring 2 false 5) 0x1008 } })] }
    (fun t => (t.ring? 1 2).map (fun r => (r.free, r.full, r.wc, r.nr)) == some (0, 1, 0, 1) && t.ringQueue 1 2 == []
      && (match t.warp? 1 with | some w => w.regs[5].get 0 == 0x100 && w.threads[0].st == .ready && w.threads[0].pc == 0x1008 | none => false)) = true := by decide

theorem witness_RingResults :
    (∃ (x : Ext) (s : State), Meets x s fun c => Mask.lowest c.act = some 0 ∧ (s.group? c.w.gid).isSome ∧ (c.reg x.b 0).toNat < 2 ^ 32 ∧
      1 ≤ (c.reg x.b 0).toNat % 2 ^ 16 ∧ (c.reg x.b 0).toNat % 2 ^ 16 ≤ 1024 ∧ 32 ≤ (c.reg x.b 0).toNat / 2 ^ 16 * 32 ∧ (c.reg x.b 0).toNat / 2 ^ 16 * 32 ≤ 65536 ∧
      (c.reg x.a 0).toNat % 32 = 0 ∧ s.launch? 5 = some lch ∧ (c.reg x.a 0).toNat + (c.reg x.b 0).toNat % 2 ^ 16 * ((c.reg x.b 0).toNat / 2 ^ 16 * 32) ≤ lch.kern.scratch ∧
      s.ringQueue c.w.gid x.c.toNat = [] ∧ s.ringBusy c.w.gid x.c.toNat = false ∧ s.ring? c.w.gid x.c.toNat = none) ∧
    (∃ (x : Ext) (s : State) (r : Ring), Meets x s fun c => s.ring? c.w.gid x.c.toNat = some r ∧ Fits c s x.d (c.elemBound x [] x.d) ∧ r.free ≠ 0 ∧ r.full ≠ 0) ∧
    (∀ push : Bool, ∃ (x : Ext) (s : State) (r : Ring), Meets x s fun c => Mask.lowest c.act = some 0 ∧ s.ring? c.w.gid x.c.toNat = some r ∧ Fits c s x.d (c.elemBound x [] x.d) ∧
      (if push then r.free else r.full) = 0) ∧
    (∀ push : Bool, ∃ (x : Ext) (s : State) (r : Ring), Meets x s fun c => Mask.lowest c.act = some 0 ∧ s.ring? c.w.gid x.c.toNat = some r ∧ 0 < r.size ∧ 1 < r.slots ∧
      (c.reg x.a 0).toNat = r.off + 1 * r.size ∧ (if push then r.np else r.nr) ≤ r.slots ∧ (if push then r.wc else r.rc) < r.slots ∧
      (1 + r.slots - (if push then r.wc else r.rc)) % r.slots < (if push then r.np else r.nr) ∧ r.done.contains 1 = false ∧ s.scratchStores c.w = false ∧
      s.ringQueue c.w.gid x.c.toNat = []) ∧
    (∀ push : Bool, ∃ (x : Ext) (s : State) (r : Ring), Meets x s fun c => Mask.lowest c.act = some 0 ∧ s.ring? c.w.gid x.c.toNat = some r ∧ 0 < r.size ∧ 1 < r.slots ∧
      (c.reg x.a 0).toNat = r.off + 1 * r.size ∧ ((if push then r.np else r.nr) ≤ (1 + r.slots - (if push then r.wc else r.rc)) % r.slots ∨ r.done.contains 1 = true) ∧
      s.scratchStores c.w = false ∧ ∀ k : Fin 32, c.w.threads[k].st ≠ .parked) := by
  refine ⟨⟨onRing, machine (warpOf [(2, uniform 0xFC0), (3, uniform 0x10002)]) 1, ?_⟩,
    ⟨onRing, machine (warpOf []) 3 (ringed { ring with free := 1, full := 1, np := 0, done := [] }), { ring with free := 1, full := 1, np := 0, done := [] }, ?_⟩,
    fun push => ⟨onRing, machine (warpOf []) 3 (ringed { ring with np := 1, nr := 1 }), { ring with np := 1, nr := 1 }, ?_⟩,
    fun push => ⟨onRing, machine (warpOf [(2, uniform 0x140)]) 3 (ringed { ring with wc := 1, rc := 1, np := 1, nr := 1, done := [] }), { ring with wc := 1, rc := 1, np := 1, nr := 1, done := [] }, ?_⟩,
    fun push => ⟨onRing, machine (warpOf [(2, uniform 0x140)]) 3 (ringed (if push then ring else { ring with np := 0, nr := 1, full := 1, done := [] })), if push then ring else { ring with np := 0, nr := 1, full := 1, done := [] }, ?_⟩⟩
  · exact Meets.of _ _ _ (by decide)
  · unfold Fits; exact Meets.of _ _ _ (by decide)
  · unfold Fits; exact Meets.of _ _ _ (by revert push; decide)
  · exact Meets.of _ _ _ (by revert push; decide)
  · exact Meets.of _ _ _ (by revert push; decide)

/-- R235: a set of another warp waits for what a put hands over. -/
def popper (push : Bool) : Warp := { warpOf [] with widx := 1, threads := Vector.replicate 32 { Thread.start 0x1000 with st := .waiting (.ring 2 push 5) 0x1008 } }
def handing (push : Bool) : Ring := { ring with np := if push then 1 else 0, nr := if push then 0 else 1, wc := 1, rc := 1, done := [] }
def ringWaits (push : Bool) : State :=
  let s := machine (warpOf [(2, uniform 0x140)]) 3 (ringed (handing push) [.warp 1 3 (!push) 5])
  { s with warps := s.warps ++ [(1, popper (!push))] }

theorem witness_RingResults_waiter : ∀ push : Bool, ∃ (x : Ext) (s : State) (r : Ring) (w0 : Warp), Meets x s fun c => Mask.lowest c.act = some 0 ∧
    s.ring? c.w.gid x.c.toNat = some r ∧ 0 < r.size ∧ 1 < r.slots ∧ (c.reg x.a 0).toNat = r.off + 1 * r.size ∧ (if push then r.np else r.nr) ≤ r.slots ∧
    (if push then r.wc else r.rc) = 1 ∧ (1 + r.slots - (if push then r.wc else r.rc)) % r.slots < (if push then r.np else r.nr) ∧ s.scratchStores c.w = false ∧
    s.ringQueue c.w.gid x.c.toNat = [.warp 1 3 (!push) 5] ∧ s.findWarp c.w.gid 1 = some 1 ∧ 1 ≠ c.wk ∧ s.warp? 1 = some w0 ∧
    (∀ k : Fin 32, (3 : Mask).getLsbD k = true → w0.threads[k].waits = some (.ring x.c.toNat (!push) 5) ∧ w0.threads[k].lateRec = none) ∧ r.done = [] ∧
    (if push then r.full else r.free) = 0 := fun push =>
  ⟨onRing, ringWaits push, handing push, popper (!push), Meets.of _ _ _ (by cases push <;> decide)⟩

theorem test_launch_posts : leads (.launch { z with d := 4, a := 2, b := 1 }) (machine (warpOf [(2, uniform 0x8000)]) 5)
    (fun t => t.sched.posted.map (fun p => (p.ident, p.recVa, p.callg)) == [(0, 0x8000, false), (1, 0x8000, false)]
      && (match t.warp? 0 with | some w => w.regs[4].get 2 == 1 && w.slots[1].count == 2 && w.slots[1].st == .armed | none => false)) = true := by decide

def posted5 : Posted :=
  { ident := 5, recVa := 0, host := true, callg := false, queue := none, arrived := false, core := 0, parent := none, poster := none, prio := 0, objVa := 0, dataVa := 0, dataPa := 0
    after := 0, cut := 0, lanes := none, cancelled := false }

theorem witness_LaunchAndCancelResults :
    (∃ (x : Ext) (s : State), Meets x s fun c => c.act ≠ 0 ∧ Fits c s x.d 32 ∧ (c.slot x.b.toNat).count + Mask.count c.act ≤ 63 ∧
      ∀ k : Fin 32, c.act.getLsbD k = true → s.recordFault c.w (c.ea x k) = none) ∧
    ∃ (x : Ext) (s : State) (p : Posted), p ∈ s.sched.posted ∧ Meets x s fun c => c.act.getLsbD 0 = true ∧ s.launch? (c.reg x.a 0).toNat = some lch ∧ lch.status = 0 ∧ p.ident = c.reg x.a 0 := by
  refine ⟨⟨{ z with d := 4, a := 2, b := 1 }, machine { warpOf [(2, spread fun n => BitVec.ofNat 64 (0x8000 + 64 * n))] with slots := (Vector.replicate 8 Slot.init).set 1 { Slot.init with st := .armed, count := 31 } } 0xFFFFFFFF, ?_⟩,
    { z with a := 2 }, { machine (warpOf [(2, uniform 5)]) 1 with sched := { State.reset.sched with posted := [posted5] } },
    posted5, by decide, ?_⟩ <;>
  · try unfold Fits
    exact Meets.of _ _ _ (by decide)

/-- A warp whose slot k1 is in some state. -/
def slotted (k : Slot) (regs : List (Fin 64 × VecReg) := []) : Warp := { warpOf regs with slots := (Vector.replicate 8 Slot.init).set 1 k }
def onSlot : Ext := { z with s := true, a := 1, d := 4 }

/-- Spec 16, the example of R364: a late fault of quarter 2 is raised in quarter 2 at `waitc`. -/
theorem test_waitc_late_fault : gives (.waitc onSlot) (machine (slotted { Slot.init with st := .error, errCode := 0x13, errQ := 2, errAddr := 0x77 }) 0xFFFFFFFF)
    (fun _ w => w.threads[16].frec.map (fun r => (r.cause, r.late, r.addr)) == some (0x13, true, 0x77) && w.threads[15].frec.isNone && w.threads[15].pc == 0x1008
      && w.slots[1].st == .idle) = true := by decide
theorem test_testc_armed : gives (.testc { onSlot with s := false }) (machine (slotted { Slot.init with st := .armed, count := 5 }) 1)
    (fun _ w => w.regs[4].get 0 == 0x515 && w.slots[1].st == .armed) = true := by decide

theorem witness_CompletionSlotResults :
    (∃ (x : Ext) (s : State), Meets x s fun c => c.act ≠ 0 ∧ (∀ k : Fin 32, c.set.getLsbD k = true → c.w.threads[k].pc = c.pc ∧ c.w.threads[k].lateRec = none ∧ c.w.threads[k].st = .ready) ∧
      (∀ k : Fin 32, c.set.getLsbD k = false → c.w.threads[k].waits = none) ∧ (c.slot x.a.toNat).st = .armed ∧ Fits c s x.d 32) ∧
    (∃ (x : Ext) (s : State), Meets x s fun c => c.act ≠ 0 ∧ (∀ k : Fin 32, c.set.getLsbD k = true → c.w.threads[k].pc = c.pc ∧ c.w.threads[k].lateRec = none ∧ c.w.threads[k].st = .ready) ∧
      (∀ k : Fin 32, c.set.getLsbD k = false → c.w.threads[k].waits = none) ∧ (c.slot x.a.toNat).st = .complete ∧ s.timePasses (c.slot x.a.toNat).acqTo = true ∧ Fits c s x.d 32) ∧
    (∃ (x : Ext) (s : State), Meets x s fun c => c.act ≠ 0 ∧ (∀ k : Fin 32, c.set.getLsbD k = true → c.w.threads[k].pc = c.pc ∧ c.w.threads[k].lateRec = none ∧ c.w.threads[k].st = .ready) ∧
      (∀ k : Fin 32, c.set.getLsbD k = false → c.w.threads[k].waits = none) ∧ (c.slot x.a.toNat).st = .error ∧ (c.slot x.a.toNat).errCode < 0x3E ∧ s.timePasses (c.slot x.a.toNat).acqTo = true ∧ Fits c s x.d 32) ∧
    (∃ (x : Ext) (s : State), Meets x s fun c => c.act ≠ 0 ∧ (∀ k : Fin 32, c.set.getLsbD k = true → c.w.threads[k].pc = c.pc ∧ c.w.threads[k].lateRec = none ∧ c.w.threads[k].st = .ready) ∧
      (∀ k : Fin 32, c.set.getLsbD k = false → c.w.threads[k].waits = none) ∧ (c.slot x.a.toNat).st = .error ∧ (c.slot x.a.toNat).errCode = 0x3E ∧
      s.timePasses (c.slot x.a.toNat).acqTo = true ∧ Fits c s x.d 32) ∧
    (∃ (x : Ext) (s : State) (pa : Fin 32 → Nat), Meets x s fun c => c.act ≠ 0 ∧
      (∀ k : Fin 32, c.set.getLsbD k = true → c.w.threads[k].pc = c.pc ∧ c.w.threads[k].lateRec = none ∧ c.w.threads[k].st = .ready) ∧
      (∀ k : Fin 32, c.set.getLsbD k = false → c.w.threads[k].waits = none) ∧ (c.slot x.d.toNat).count + Mask.count c.act ≤ 63 ∧
      ∀ k : Fin 32, c.act.getLsbD k = true → s.place c.w k 0 (c.ea x k) 8 8 .read = .ok (.glob .hbm (pa k))) ∧
    ∃ (x : Ext) (s : State) (v : Watch) (w0 : Warp) (bs : List Byte), (Meets x s fun c => c.act ≠ 0) ∧ (s.mem.watches.find? fun w => w.id == v.id) = some v ∧ v.slot = some 1 ∧ v.notified = true ∧
      s.findWarp v.gid v.widx = some 0 ∧ s.warp? 0 = some w0 ∧ s.watchClear v (wkCore 0) = true ∧ s.watchFault v = none ∧ s.lineBad v.tgt v.pa = none ∧ s.watchBytes v = some bs ∧
      waitCond v.cond v.n (natOfBytes bs) (v.b.toNat % 2 ^ (8 * v.n)) = true ∧ w0.slots[slotIdx 1].count = 1 ∧ w0.slots[slotIdx 1].errCode = 0 ∧
      ∀ i : Fin 32, w0.threads[i].waits ≠ some (.waitc 1) := by
  refine ⟨⟨onSlot, machine (slotted { Slot.init with st := .armed, count := 63 }) 0xFF, ?_⟩, ⟨onSlot, machine (slotted { Slot.init with st := .complete }) 0xFF, ?_⟩,
    ⟨onSlot, machine (slotted { Slot.init with st := .error, errCode := 0x13, errQ := 0 }) 0xFF, ?_⟩,
    ⟨onSlot, machine (slotted { Slot.init with st := .error, errCode := 0x3E, errQ := 0 }) 0xFF, ?_⟩,
    ⟨{ z with d := 1, a := 2, b := 3 }, machine (slotted { Slot.init with st := .armed, count := 31 } [(2, spread fun n => BitVec.ofNat 64 (0x8F00 + 8 * n))]) 0xFFFFFFFF, fun k => 0x8F00 + 8 * k, ?_⟩,
    onSlot, watching { watch with slot := some 1, cond := 2 } (slotted { Slot.init with st := .armed, count := 1 }), { watch with slot := some 1, cond := 2 }, slotted { Slot.init with st := .armed, count := 1 }, [7, 0, 0, 0, 0, 0, 0, 0], ?_, ?_⟩
  · unfold Fits; exact Meets.of _ _ _ (by decide)
  · unfold Fits; exact Meets.of _ _ _ (by decide)
  · unfold Fits; exact Meets.of _ _ _ (by decide)
  · unfold Fits; exact Meets.of _ _ _ (by decide)
  · exact Meets.of _ _ _ (by decide)
  · exact Meets.of _ _ _ (by decide)
  · decide

/-- R364, R376: an error is observed by `testc`: its cause in COUNT, and the slot idle; a child's end parks nobody. -/
theorem test_testc_error : gives (.testc { onSlot with s := false }) (machine (slotted { Slot.init with st := .error, errCode := 0x3E }) 1)
    (fun _ w => w.regs[4].get 0 == 0xFB && w.slots[1].st == .idle && w.slots[1].errCode == 0 && w.threads[0].st == .ready) = true := by decide

/-- Launch 5 as a stage with queue 1 behind it, or before it. -/
def staged (out : Bool) (items : Memory) (count : Nat) (w : Warp) (set : Mask) : State :=
  let s := machine w set grp { lch with inQueue := if out then none else some 1, outQueue := if out then some 1 else none }
  { s with sched := { s.sched with stageQs := [(1, { tag := 0, queue := some 0, stage := 0, launch := 5, pa := 0x100000, entries := 2, bytes := 16, head := 0, count := count, used := false })] }, mem := { s.mem with hbm := items } }
def onStage : Ext := { z with s := true, d := 4, a := 2, mod := 2 }

theorem test_stage_put : leads (.stagePut onStage)
    (let s := staged true [] 1 (warpOf [(2, uniform 64)]) 1
     { s with groups := [(1, { grp with scratch := [(64, 9)] })] })
    (fun t => (t.stageQ? 1).map (·.count) == some 2 && t.mem.hbm == [(0x100010, 9)]) = true := by decide
theorem test_stage_get : leads (.stageGet onStage) (staged false [(0x100000, 1), (0x100010, 2)] 2 (warpOf [(2, uniform 64)]) 1)
    (fun t => (t.stageQ? 1).map (fun q => (q.head, q.count)) == some (1, 1) && (match t.group? 1, t.warp? 0 with
      | some g, some w => g.scratch == [(64, 1)] && w.regs[4].get 0 == 1 && w.threads[0].st == .ready | _, _ => false)) = true := by decide
theorem test_step_arrives : gives (.step { z with len := .w96, s := true, d := 2, mod := 1, l32 := 0x20 }) (machine (warpOf []) 0xFFFF)
    (fun t w => w.threads[0].waits == some (.step false 0x20 (some 2)) && (t.launch? 5).map (fun l => (l.arrived, l.stepCount, l.hasArrived)) == some (16, some (0x20, false), false)) = true := by decide

theorem noStageWaits (s : State) (h : ∀ e ∈ s.warps, ∀ k : Fin 32, e.2.threads[k].waits = none) :
    ∀ e, e ∈ s.warps → ∀ (k : Fin 32) (get : Bool) (d : BitVec 6) (a : Word) (gl : Bool), e.2.threads[k].waits ≠ some (.stage get d a gl) :=
  fun e he k get d a gl hw => by rw [h e he k] at hw; exact absurd hw (by simp)

theorem witness_StageAndStepResults :
    let waiting : State → Prop := fun s => ∀ e, e ∈ s.warps → ∀ (k : Fin 32) (get : Bool) (d : BitVec 6) (a : Word) (gl : Bool), e.2.threads[k].waits ≠ some (.stage get d a gl)
    (∃ (x : Ext) (s : State) (l : Launch) (sq : StageQueue), x.m 23 3 = 2 ∧ s.launch? 5 = some l ∧ s.stageQ? 1 = some sq ∧ l.outQueue = some 1 ∧ l.inQueue ≠ some 1 ∧ sq.count < sq.entries ∧
      sq.bytes % 16 = 0 ∧ s.mem.failed = [] ∧ waiting s ∧
      Meets x s fun c => Mask.lowest c.act = some 0 ∧ s.group? c.w.gid = some grp ∧ (∀ k : Fin 32, c.set.getLsbD k = true → c.w.threads[k].pc = c.pc ∧ c.w.threads[k].lateRec = none) ∧
        (c.ea x 0).toNat % 16 = 0 ∧ s.storesDone c.w = true ∧ s.rangeFault c.w 0 2 (c.ea x 0) .read (sq.bytes / 16) = none ∧ s.entryFault c.w false (c.ea x 0) .read (sq.bytes / 16) = none) ∧
    (∃ (x : Ext) (s : State) (l : Launch) (sq : StageQueue), x.m 23 3 = 2 ∧ s.launch? 5 = some l ∧ s.stageQ? 1 = some sq ∧ l.inQueue = some 1 ∧ l.outQueue ≠ some 1 ∧ sq.count ≠ 0 ∧
      sq.bytes % 16 = 0 ∧ s.mem.failed = [] ∧ waiting s ∧
      Meets x s fun c => Mask.lowest c.act = some 0 ∧ (∀ k : Fin 32, c.set.getLsbD k = true → c.w.threads[k].pc = c.pc ∧ c.w.threads[k].lateRec = none) ∧ Fits c s x.d 32 ∧
        (c.ea x 0).toNat % 16 = 0 ∧ s.rangeFault c.w 0 2 (c.ea x 0) .write (sq.bytes / 16) = none ∧ s.entryFault c.w false (c.ea x 0) .write (sq.bytes / 16) = none ∧
        ∀ j, j < sq.bytes / 16 → s.place c.w 0 2 (c.ea x 0 + BitVec.ofNat 64 (16 * j)) 16 1 .write = .ok (.scratch ((c.ea x 0).toNat + 16 * j))) ∧
    (∃ (x : Ext) (s : State), x.mb 23 = true ∧ x.len.bytes = 12 ∧ x.l32.toNat = 32 ∧ lch.stepCount = none ∧ lch.hasArrived = false ∧ s.launch? 5 = some lch ∧ Meets x s fun c => Mask.lowest c.act = some 0 ∧ Fits c s x.d 32 ∧
      (∀ k : Fin 32, c.act.getLsbD k = true → s.mayRelease c.w 5 k = true) ∧ (s.presentGroups 5).contains c.w.gid = true ∧ Mask.count c.act ≤ 32) ∧
    ∃ (x : Ext) (s : State), x.len.bytes < 12 ∧ x.mb 23 = false ∧ Meets x s fun c => c.act ≠ 0 ∧ Mask.count c.act ≤ ((s.presentGroups 5).map s.groupThreads).sum := by
  refine ⟨⟨onStage, staged true [] 1 (warpOf [(2, uniform 4080)]) 1, _, _, by decide, rfl, rfl, by decide, by decide, by decide, by decide, rfl, noStageWaits _ (by decide), ?_⟩,
    ⟨onStage, staged false [] 1 (warpOf [(2, uniform 4080)]) 1, _, _, by decide, rfl, rfl, by decide, by decide, by decide, by decide, rfl, noStageWaits _ (by decide), ?_⟩,
    ⟨{ z with len := .w96, s := true, d := 2, mod := 1, l32 := 0x20 }, machine (warpOf []) 0xFFFFFFFF, by decide, by decide, by decide, by decide, by decide, rfl, ?_⟩,
    { z with s := true }, machine (warpOf []) 0xFFFFFFFF, by decide, by decide, ?_⟩ <;>
  · try unfold Fits
    exact Meets.of _ _ _ (by decide)

/-! ### Matrix and Tender operations -/

/-- A BF16 stream of 8 rows and K = 32 that the group owns. -/
def stream (segs : List Segment) : GStream := { GStream.bound 5 0 0 0x00010000 with next := segs.length, claims := segs.length, segs := segs }
def seg0 : Segment := { pos := 0, uses := 1, rows := [] }
def streaming (w : Warp) (set : Mask) (table : List MmaReq := []) (segs : List Segment := [seg0]) : State :=
  { machine w set with gantries := [(0, { Gantry.init with streams := [(0, stream segs), (16, stream segs)], table := table })] }
def onMma : Ext := { z with len := .w96, d := 1, a := 6, b := 0, c := 16, l32 := 0xA }
def mreq : MmaReq :=
  { id := 0, core := 0, gid := 1, widx := 0, quarter := 0, slot := 1, sa := 0, sb := 16, acc := false, na := false, nb := false, tile := 10, row0 := 0, m := 8, apos := 0, bpos := 0
    fork := 0, readyAt := none }

theorem test_mma_posts : gives (.mma onMma) (streaming (warpOf []) 0xFF)
    (fun t w => (t.gantry 0).table.map (fun m => (m.sa, m.sb, m.tile, m.m, m.apos)) == [(0, 16, 10, 8, 0)] && w.slots[1].count == 1 && w.threads[7].pc == 0x100C) = true := by decide
theorem test_mma_partial_quarter_waits : gives (.mma onMma) (streaming (warpOf []) 0x7F)
    (fun t w => (t.gantry 0).table == [] && w.threads[0].waits == some (.collective true)) = true := by decide
theorem test_mbind_bad_geometry : gives (.mbind { z with d := 0, a := 6 }) (machine (warpOf [(6, uniform 0x00010010)]) 0xFF)
    (fun t w => (t.gantry 0).streams == [] && w.threads[0].frec.map (·.cause) == some 0x08) = true := by decide
theorem test_accz_then_accrd : gives (.accrd { z with d := 4, a := 6 })
    { machine (warpOf [(6, spread fun n => BitVec.ofNat 64 (0x00020000 + 2 * n))]) 0xFF with cores := [(0, { Core.init with acc := (List.range 16).map fun n => (2 * 16384 + n, BitVec.ofNat 32 (100 + n)) })] }
    (fun _ w => w.regs[4].get 7 == 0x0000007300000072) = true := by decide

theorem witness_quarter : Meets z (machine (warpOf []) 0xFF00) fun c => Quarter c 1 := by
  obtain ⟨c, h, h1, h2, h3, h4⟩ : Meets z (machine (warpOf []) 0xFF00) fun c => c.set = quarterMask 1 ∧ c.act = quarterMask 1 ∧
      (∀ k : Fin 32, c.set.getLsbD k = true → c.w.threads[k].st = .ready ∧ c.w.threads[k].pc = c.pc ∧ c.w.threads[k].lateRec = none) ∧
      ∀ k : Fin 32, c.set.getLsbD k = false → c.w.threads[k].waits = none := Meets.of _ _ _ (by decide)
  exact ⟨c, h, by decide, h1, h2, h3, h4⟩

/-- What makes an issue a whole quarter, as plain conditions. -/
abbrev whole (c : Ctx) (j : Nat) : Prop := j < 4 ∧ c.set = quarterMask j ∧ c.act = quarterMask j ∧
  (∀ k : Fin 32, c.set.getLsbD k = true → c.w.threads[k].st = .ready ∧ c.w.threads[k].pc = c.pc ∧ c.w.threads[k].lateRec = none) ∧
  ∀ k : Fin 32, c.set.getLsbD k = false → c.w.threads[k].waits = none

theorem quarter_of_whole (c : Ctx) (j : Nat) (h : whole c j) : Quarter c j := ⟨h.1, h.2.1, h.2.2.1, h.2.2.2.1, h.2.2.2.2⟩

theorem Meets.quarter {x : Ext} {s : State} {j : Nat} {p : Ctx → Prop} (h : Meets x s fun c => whole c j ∧ p c) : Meets x s fun c => Quarter c j ∧ p c := by
  obtain ⟨c, hc, hw, hp⟩ := h
  exact ⟨c, hc, quarter_of_whole c j hw, hp⟩

theorem witness_MatrixPostingResults :
    (∃ (x : Ext) (s : State), Meets x s fun c => Quarter c 0 ∧ s.mmaOk c x ((c.reg x.a c.first).toNat % 2 ^ 32) ((c.reg x.a c.first).toNat / 2 ^ 32) = true ∧
      (c.slot x.d.toNat).count < 63 ∧ s.tableUse (c.core / 4) < 64 ∧
      s.behind { res := 0, unit := c.core / 4, gid := c.w.gid, widx := c.w.widx, quarter := 0, pc := c.pc } = false) ∧
    (∃ (x : Ext) (s : State), Meets x s fun c => Quarter c 0 ∧ ¬ s.tableUse (c.core / 4) < 64) ∧
    (∃ (x : Ext) (s : State), Meets x s fun c => Quarter c 3 ∧ s.mmaOk c x ((c.reg x.a c.first).toNat % 2 ^ 32) ((c.reg x.a c.first).toNat / 2 ^ 32) = false ∧
      s.tableUse (c.core / 4) < 64 ∧ s.behind { res := 0, unit := c.core / 4, gid := c.w.gid, widx := c.w.widx, quarter := 3, pc := c.pc } = false) ∧
    (∃ (x : Ext) (s : State), Meets x s fun c => Quarter c 0 ∧ (c.slot x.d.toNat).count < 63 ∧ s.accFault c x .read = none ∧ s.accFault c x .write = none) ∧
    (∃ (x : Ext) (s : State), Meets x s fun c => Quarter c 0 ∧ Fits c s x.d 32 ∧ x.m 23 2 = 1 ∧ Sparse.find (s.gantry (c.core / 4)).streams x.b.toNat = some (stream [seg0]) ∧
      s.ownsStream c.w (stream [seg0]) = true) ∧
    (∃ (x : Ext) (s : State), Meets x s fun c => Quarter c 0 ∧ s.group? c.w.gid = some grp ∧ s.launch? 5 = some lch ∧ geoOk x.d.toNat (c.reg x.a c.first) = true ∧
      Sparse.find (s.gantry (c.core / 4)).streams x.d.toNat = none ∧ s.streamBusy (c.core / 4) x.d.toNat = false) ∧
    ∃ (x : Ext) (s : State), Meets x s fun c => Quarter c 0 ∧ Sparse.find (s.gantry (c.core / 4)).streams x.d.toNat = some (stream [seg0]) ∧
      s.ownsStream c.w (stream [seg0]) = true ∧ s.streamBusy (c.core / 4) x.d.toNat = false := by
  refine ⟨⟨onMma, streaming { warpOf [] with slots := Vector.replicate 8 { Slot.init with count := 62 } } 0xFF (List.replicate 63 mreq), ?_⟩,
    ⟨onMma, streaming (warpOf []) 0xFF (List.replicate 64 mreq), ?_⟩, ⟨onMma, machine (warpOf []) 0xFF000000, ?_⟩, ⟨{ z with len := .w96, d := 1, a := 6, b := 7, mod := 0x13, l32 := 15 }, machine (warpOf [(6, uniform 0x8000), (7, uniform 128)]) 0xFF, ?_⟩,
    ⟨{ z with d := 4, b := 0, mod := 1 }, streaming (warpOf []) 0xFF, ?_⟩, ⟨{ z with d := 3, a := 6 }, streaming (warpOf [(6, uniform 0x00010000)]) 0xFF, ?_⟩,
    { z with d := 16 }, streaming (warpOf []) 0xFF, ?_⟩ <;>
  · apply Meets.quarter
    try unfold Fits
    exact Meets.of _ _ _ (by decide)

/-- A register that holds the eight words of a block in the threads of quarter 0. -/
def blockReg (b : List Word) : VecReg := spread fun n => b.getD n 0

/-- Spec 13, the block of the example of R299, with a source at 0x40 of the scratchpad. -/
def convBlock : List Word := [0x40, 0x80, 0x1000004, 0, 0, 0x132, 0, 0]
def onConv : Ext := { z with d := 1, a := 4, mod := 0b10010 }

theorem test_tconv_posts : gives (.tconv onConv) (machine (warpOf [(4, blockReg convBlock)]) 0xFF)
    (fun t w => t.ops.map (fun o => (o.quarter, o.slot, o.vals, o.started)) == [(0, some 1, convBlock, false)] && w.slots[1].count == 1) = true := by decide
theorem test_tconv_bad_block : gives (.tconv onConv) (machine (warpOf [(4, blockReg [0x41])]) 0xFF)
    (fun t w => t.ops == [] && w.threads[7].frec.map (·.cause) == some 0x08) = true := by decide
/-- R306: `tstat.cnd` of a slot, as the example gives it. -/
theorem test_tstat_cnd : gives (.tstat { z with d := 4, a := 1 }) (machine (slotted { Slot.init with conds := 0x14 }) 1) (fun _ w => w.regs[4].get 0 == 0x14) = true := by decide

theorem witness_AccumulatorResults :
    (∃ (x : Ext) (s : State), Meets x s fun c => Quarter c 2 ∧ s.tileOk c.w (x.l32.toNat % 128) = true ∧ s.tileOk c.w (x.l32.toNat / 2 ^ 8 % 128) = true ∧
      s.tilesClear c.core [x.l32.toNat % 128] s.fresh = true ∧ s.tilesClear c.core [x.l32.toNat % 128, x.l32.toNat / 2 ^ 8 % 128] s.fresh = true) ∧
    ∃ (x : Ext) (s : State) (e : Fin 32 → Nat), Meets x s fun c => Quarter c 0 ∧ Fits c s x.d 32 ∧ s.tilesClear c.core (s.accTiles c x.a) s.fresh = true ∧
      ∀ k : Fin 32, c.set.getLsbD k = true → s.accElem c x.a k = some (2, e k) := by
  refine ⟨⟨{ z with len := .w96, mod := 1, l32 := 0x0F00 }, machine (warpOf []) 0xFF0000, ?_⟩,
    { z with d := 4, a := 6, b := 7 }, machine (warpOf [(6, spread fun n => BitVec.ofNat 64 (0x00027F70 + 2 * n))]) 0xFF, fun k => accIdx 2 127 (112 + 2 * k), ?_⟩ <;>
  · apply Meets.quarter
    try unfold Fits
    exact Meets.of _ _ _ (by decide)

/-- Cluster 0 with streams of two segments each and some passes. -/
def passing (ps : List Pass) (w : Warp := warpOf []) : State :=
  { machine w 1 with gantries := [(0, { Gantry.init with streams := [(0, stream [seg0]), (16, stream [seg0])], passes := ps })] }
def counting : Warp := slotted { Slot.init with st := .armed, count := 1 }

theorem witness_GantryPassSteps :
    (∃ (s : State) (m : MmaReq) (a b : GStream) (sa sb : Segment), s.qwait = [] ∧ (∀ p, p ∈ (s.gantry 0).passes → p.read = true) ∧ (∀ o, o ∈ s.ops → o.attWaits 0 = false) ∧
      (s.gantry 0).table = [m] ∧ s.mmaReady 0 m = true ∧
      s.forkClear m.id m.gid m.widx m.quarter m.fork = true ∧ Sparse.find (s.gantry 0).streams m.sa = some a ∧ Sparse.find (s.gantry 0).streams m.sb = some b ∧
      a.seg? m.apos = some sa ∧ b.seg? m.bpos = some sb) ∧
    (∃ (s : State) (m : MmaReq) (a b : GStream) (rows : List (List (BitVec 32))) (ps : List Pass), s.qwait = [] ∧ (s.gantry 0).passes = ps ++ [{ read := false, reqs := [(m, rows)] }] ∧
      ps ≠ [] ∧ (∀ p, p ∈ ps → p.read = true) ∧ m.sa ≠ m.sb ∧ Sparse.find (s.gantry 0).streams m.sa = some a ∧ Sparse.find (s.gantry 0).streams m.sb = some b) ∧
    ∃ (s : State) (m : MmaReq) (rows : List (List (BitVec 32))) (rest : List Pass) (w : Warp), s.qwait = [] ∧ (s.gantry 0).passes = { read := true, reqs := [(m, rows)] } :: rest ∧
      (∀ p, p ∈ rest → p.read = true) ∧ (∀ r, r ∈ rows → r.length = 128) ∧ rows ≠ [] ∧
      s.findWarp m.gid m.widx = some 0 ∧ s.warp? 0 = some w ∧ w.slots[slotIdx m.slot].count = 1 ∧ w.slots[slotIdx m.slot].errCode = 0 ∧
      ∀ k : Fin 32, w.threads[k].waits ≠ some (.waitc m.slot) :=
  ⟨⟨streaming (warpOf []) 1 [mreq], mreq, stream [seg0], stream [seg0], seg0, seg0, by decide⟩,
    ⟨passing [{ read := true, reqs := [] }, { read := false, reqs := [(mreq, [])] }], mreq, stream [seg0], stream [seg0], [], [{ read := true, reqs := [] }], by decide⟩,
    passing [{ read := true, reqs := [(mreq, [List.replicate 128 7])] }] counting, mreq, [List.replicate 128 7], [], counting, by decide⟩

/-- The example of R277: a drained pass writes its rows and finishes on its slot. -/
theorem test_pass_drains :
    leads (.gantryPassDrain 0) { machine (slotted { Slot.init with st := .armed, count := 1 }) 1 with gantries := [(0, { Gantry.init with passes := [{ read := true, reqs := [(mreq, [[7, 8]])] }] })] }
    (fun t => t.accGet 0 1 (accIdx 10 0 1) == 8 && (match t.warp? 0 with | some w => w.slots[1].st == .complete | none => false)) = true := by decide

def engOp (i : Instr) : EngOp :=
  { id := 4, core := 0, gid := 1, widx := 0, quarter := 0, slot := some 1, instr := i, vals := [], fork := 0, started := false, rows := 0, claim := none, pages := [], data := [], done := false, doneAt := 0
    err := none, seq := 0, epoch := 0, lines := [], busy := 0, readyAt := none }

theorem witness_TenderResults :
    (∃ (x : Ext) (s : State), Instr.tconv x ∈ [Instr.tcopy x, .tgather x, .tscatter x, .tfeed x, .tfill x, .tconv x, .tring x] ∧
      Meets x s fun c => Quarter c 0 ∧ blockOk (tenderUse (.tconv x)) (c.block x.a) = true ∧ s.tenderOk c (.tconv x) (c.block x.a) = true ∧
      s.tenderFault c x (.tconv x) (c.block x.a) = none ∧ (c.slot x.d.toNat).count < 63 ∧ (s.ops.filter fun o => o.core == c.core && o.isTender).length < 32 ∧
      s.behind { res := 1, unit := c.core, gid := c.w.gid, widx := c.w.widx, quarter := 0, pc := c.pc } = false) ∧
    (∃ (x : Ext) (s : State), Meets x s fun c => Quarter c 0 ∧ ¬ (s.ops.filter fun o => o.core == c.core && o.isTender).length < 32) ∧
    (∃ (x : Ext) (s : State), Meets x s fun c => Quarter c 0 ∧ blockOk (tenderUse (.tconv x)) (c.block x.a) = false ∧
      (s.ops.filter fun o => o.core == c.core && o.isTender).length < 32 ∧
      s.behind { res := 1, unit := c.core, gid := c.w.gid, widx := c.w.widx, quarter := 0, pc := c.pc } = false) ∧
    (∃ (x : Ext) (s : State), Meets x s fun c => c.act ≠ 0 ∧ Fits c s x.d 32) ∧
    (∃ (s : State) (o : EngOp), s.op? o.id = some o ∧ o.isTender = true ∧ o.core < Config.cores ∧ o.started = false ∧ o.forked s = true ∧
      (∀ p, p ∈ s.ops → p.core = o.core → p.isTender = true → p.id < o.id → p.started = true) ∧ (s.ops.filter fun p => p.core == o.core && p.isTender && p.started).length < 4) ∧
    ∃ (s : State) (o : EngOp) (w : Warp), s.op? o.id = some o ∧ o.isTender = true ∧ o.core < Config.cores ∧ o.done = true ∧ s.timePasses o.doneAt = true ∧ s.opStaged o = false ∧
      o.slot = some 1 ∧ o.err = none ∧ (∀ e ∈ s.warps, ∀ i : Fin 32, e.2.threads[i].waits = none) ∧ s.findWarp o.gid o.widx = some 0 ∧ s.warp? 0 = some w ∧ w.slots[slotIdx 1].count = 1 ∧ w.slots[slotIdx 1].errCode = 0 ∧
      ∀ i : Fin 32, w.threads[i].waits ≠ some (.waitc 1) := by
  refine ⟨⟨onConv, machine (warpOf [(4, blockReg convBlock)]) 0xFF, by simp, ?_⟩, ⟨onConv, { machine (warpOf []) 0xFF with ops := List.replicate 32 (engOp (.tconv z)) }, ?_⟩, ⟨onConv, machine (warpOf []) 0xFF, ?_⟩, ⟨{ z with d := 4, a := 1 }, machine (warpOf []) 1, ?_⟩,
    ⟨{ machine (warpOf []) 1 with ops := [engOp (.tconv z)] }, engOp (.tconv z), by decide⟩,
    { machine (slotted { Slot.init with st := .armed, count := 1 }) 1 with ops := [{ engOp (.tconv z) with started := true, done := true }] }, { engOp (.tconv z) with started := true, done := true },
    slotted { Slot.init with st := .armed, count := 1 }, by decide⟩
  · exact Meets.quarter (Meets.of _ _ _ (by decide))
  · exact Meets.quarter (Meets.of _ _ _ (by decide))
  · exact Meets.quarter (Meets.of _ _ _ (by decide))
  · unfold Fits; exact Meets.of _ _ _ (by decide)

/-! ### Pages, attention, the Manifest -/

/-- A page in HBM. -/
def page : Desc := { Desc.init with tier := 0, ver := 5, fmt := 1, dim := 1, valid := 3, mass := 0x0102, dep := 0x0010, list := 0x8000 }
/-- Pages 40 to 47 are allocated. -/
def paged (w : Warp) (set : Mask) (d : Desc := page) : State :=
  let s := machine w set
  { s with pages := { s.pages with descs := (List.range 8).map fun n => (40 + n, d) } }
def onPages : Ext := { z with d := 5, a := 2, b := 3, mod := 1 }
def pageRegs : Warp := warpOf [(2, spread fun n => BitVec.ofNat 64 (40 + n)), (3, uniform 0x123)]

theorem test_pgpin : leads (.pgpin onPages) (paged pageRegs 0xFF) (fun t => (t.desc 47).pin == 1 && (t.desc 48).pin == 0) = true := by decide
theorem test_pgunpin_unpinned : leads (.pgunpin onPages) (paged pageRegs 0xFF)
    (fun t => (t.desc 40).pin == 0 && (match t.warp? 0 with | some w => w.threads[0].frec.map (·.cause) == some 0x08 | none => false)) = true := by decide
theorem test_pgmass_set : leads (.pgmassSet onPages) (paged pageRegs 0xFF) (fun t => (t.desc 43).mass == 0x123) = true := by decide

/-- A page in flash. -/
def flashed : Desc := { page with tier := 2 }

theorem witness_EngineOperationsArePosted :
    let ahead : State → Ctx → Nat → Nat → Bool := fun s c res unit => s.behind { res := res, unit := unit, gid := c.w.gid, widx := c.w.widx, quarter := 0, pc := c.pc }
    let fits : State → Ctx → Ext → Instr → Prop := fun s c x i => (attBlockOk i (c.block x.a) && (instrTiles i (c.block x.a)).all fun n => s.tileOk c.w n) = true
    (∃ (x : Ext) (s : State), Meets x s fun c => Quarter c 0 ∧ pageBlockOk s.pages.count (.pgnew x) (c.block x.a) = true ∧ (c.slot x.d.toNat).count < 63 ∧
      s.flashPage c.w (.pgnew x) (c.block x.a) = false) ∧
    (∃ (x : Ext) (s : State), Meets x s fun c => Quarter c 0 ∧ pageBlockOk s.pages.count (.pgsum x) (c.block x.a) = true ∧ (c.slot x.d.toNat).count < 63 ∧
      s.flashPage c.w (.pgsum x) (c.block x.a) = true) ∧
    (∃ (x : Ext) (s : State), Meets x s fun c => Quarter c 0 ∧ pageBlockOk s.pages.count (.pgnew x) (c.block x.a) = false) ∧
    (∀ ok : Bool, ∃ (x : Ext) (s : State), Meets x s fun c => Quarter c 0 ∧ pageBlockOk s.pages.count (.pglook x) (c.block x.a) = ok ∧ (c.slot x.d.toNat).count < 63 ∧
      s.lookLists.length < 16 ∧ ahead s c 2 0 = false) ∧
    (∃ (x : Ext) (s : State), Meets x s fun c => Quarter c 0 ∧ 16 ≤ s.lookLists.length) ∧
    (∃ (x : Ext) (s : State), Meets x s fun c => Quarter c 0 ∧ fits s c x (.attv x) ∧
      (∀ r, r ∈ attRanges (.attv x) (c.block x.a) → s.spanFault c.w 0 0 r.1 r.2.2 r.2.1 = none) ∧
      (c.slot x.d.toNat).count < 63 ∧ s.flashPage c.w (.attv x) (c.block x.a) = false ∧ s.tableUse (c.core / 4) < 64 ∧ ahead s c 0 (c.core / 4) = false) ∧
    (∃ (x : Ext) (s : State), Meets x s fun c => Quarter c 0 ∧ ¬ fits s c x (.attv x) ∧ s.tableUse (c.core / 4) < 64 ∧ ahead s c 0 (c.core / 4) = false) ∧
    (∃ (x : Ext) (s : State), Meets x s fun c => Quarter c 0 ∧ ¬ s.tableUse (c.core / 4) < 64) ∧
    (∃ (x : Ext) (s : State), Meets x s fun c => Quarter c 0 ∧ pfxhBlockOk (c.block x.a) = true ∧ s.spanFault c.w 0 0 ((c.block x.a).getD 0 0) .read (64 * bw (c.block x.a) 1) = none ∧
      s.spanFault c.w 0 0 ((c.block x.a).getD 3 0) .write (8 * bw (c.block x.a) 1) = none ∧ (c.slot x.d.toNat).count < 63) ∧
    ∃ (x : Ext) (s : State), Meets x s fun c => Quarter c 0 ∧ pfxhBlockOk (c.block x.a) = false := by
  refine ⟨⟨{ z with d := 1, a := 4 }, machine (warpOf [(4, blockReg [0x40, 0xFFFFF, 1])]) 0xFF, ?_⟩,
    ⟨{ z with d := 1, a := 4 }, paged (warpOf [(4, blockReg [40, 0x8000])]) 0xFF flashed, ?_⟩, ⟨{ z with d := 1, a := 4 }, machine (warpOf [(4, blockReg [0x40, 0x100000, 1])]) 0xFF, ?_⟩,
    fun ok => ⟨{ z with d := 1, a := 4 }, { machine (warpOf [(4, blockReg [0x8000, if ok then 4096 else 4097])]) 0xFF with ops := List.replicate 15 (engOp (.pglook z)) }, ?_⟩,
    ⟨{ z with d := 1, a := 4 }, { machine (warpOf []) 0xFF with ops := List.replicate 16 (engOp (.pglook z)) }, ?_⟩,
    ⟨{ z with d := 1, a := 4 }, machine (warpOf [(4, blockReg [0x8000, 0x0000013F01000030, 0x0F020100])]) 0xFF, ?_⟩, ⟨{ z with d := 1, a := 4 }, machine (warpOf []) 0xFF, ?_⟩,
    ⟨{ z with d := 1, a := 4 }, streaming (warpOf []) 0xFF (List.replicate 64 mreq), ?_⟩,
    ⟨{ z with d := 1, a := 4 }, machine (warpOf [(4, blockReg [0x8000, 2, 0, 0x8100])]) 0xFF, ?_⟩, { z with d := 1, a := 4 }, machine (warpOf []) 0xFF, ?_⟩
  case refine_4 => exact Meets.quarter (Meets.of _ _ _ (by cases ok <;> decide))
  all_goals exact Meets.quarter (Meets.of _ _ _ (by decide))

theorem witness_PageInstructionResults :
    (∃ (x : Ext) (s : State), Meets x s fun c => Quarter c 0 ∧
      (∀ k : Fin 32, c.set.getLsbD k = true → (c.reg x.a k).toNat < s.pages.count ∧ (s.desc (c.reg x.a k).toNat).free = false ∧ (s.desc (c.reg x.a k).toNat).pin < 255 ∧
        (s.desc (c.reg x.a k).toNat).pin ≠ 0 ∧ (s.desc (c.reg x.a k).toNat).list ≠ 0) ∧
      (∀ k i : Fin 32, c.set.getLsbD k = true → c.set.getLsbD i = true → k ≠ i → (c.reg x.a k).toNat ≠ (c.reg x.a i).toNat) ∧ Fits c s x.d 32) ∧
    (∃ (x : Ext) (s : State), Meets x s fun c => Quarter c 0 ∧ ∀ k : Fin 32, c.set.getLsbD k = true → (s.desc (c.reg x.a k).toNat).pin = 2 ∧ (s.desc (c.reg x.a k).toNat).pin ≠ 1) ∧
    ∃ (x : Ext) (s : State), Meets x s fun c => Quarter c 0 ∧ ∀ k : Fin 32, c.set.getLsbD k = true → (c.reg x.a k).toNat < s.pages.count ∧ (s.desc (c.reg x.a k).toNat).free = true := by
  refine ⟨⟨onPages, paged pageRegs 0xFF { page with pin := 254 }, ?_⟩, ⟨onPages, paged pageRegs 0xFF { page with pin := 2, list := 0 }, ?_⟩, onPages, machine pageRegs 0xFF, ?_⟩ <;>
  · apply Meets.quarter
    try unfold Fits
    exact Meets.of _ _ _ (by decide)

/-- Launch 5 with a partition of the Manifest, and what some ways of it hold. -/
def cached (w : Warp) (es : Sparse MEntry) : State :=
  let s := machine w 0xFF grp { lch with manifest := some (0, 4096) }
  { s with pages := { s.pages with manifest := es }, links := Vector.replicate 8 { Link.init with en := true, up := true } }
def keyed (packed : Word) : Warp := warpOf [(2, uniform 0x8000), (3, uniform packed)]
def held (pin : Nat) (cnt : Nat) : Sparse MEntry := [(manifestSet (0, 4096) 0x8000, { key := 0x8000, cnt := cnt, rec_ := 7, pin := pin, age := 0 })]

theorem test_pfxi_then_held : gives (.pfxi { z with d := 5, a := 2, b := 3 }) (cached (keyed 0x7002) [])
    (fun t w => w.regs[5].get 0 == 0 && w.regs[5].get 1 == 1 && (t.lookup (0, 4096) 0x8000 2).map (fun r => r.2.rec_) == some 7) = true := by decide
theorem test_pfxd_pinned : gives (.pfxd { z with d := 5, a := 2, b := 3 }) (cached (keyed 2) (held 1 2)) (fun _ w => w.regs[5].get 0 == 2) = true := by decide

/-- The set of the key 0x8000, and its four ways full, each with its own age. -/
def set8 : Nat := manifestSet (0, 4096) 0x8000
def full8 (pin : Nat) : Sparse MEntry := (List.range 4).map fun n => (set8 + n, { key := BitVec.ofNat 64 (n + 1), cnt := 2, rec_ := 9, pin := pin, age := (n + 1) % 4 })

/-- What every clause of the Manifest asks of the quarter, and of a lookup list of two hashes at 0x8000. -/
abbrev named (x : Ext) (s : State) (c : Ctx) (packed : Word) : Prop :=
  Fits c s x.d 32 ∧ (s.launchOf c.w).bind (fun l => l.manifest) = some (0, 4096) ∧ s.storesDone c.w = true ∧
    ∀ k : Fin 32, c.set.getLsbD k = true → c.reg x.a k = 0x8000 ∧ c.reg x.b k = packed

theorem witness_ManifestResults :
    (∃ (x : Ext) (s : State), Meets x s fun c => Quarter c 0 ∧ Fits c s x.d 32 ∧ (s.launchOf c.w).bind (fun l => l.manifest) = none) ∧
    (∃ (x : Ext) (s : State), Meets x s fun c => Quarter c 0 ∧ named x s c 0x7002 ∧ (s.lookup (0, 4096) 0x8000 2).isSome = true) ∧
    (∃ (x : Ext) (s : State), Meets x s fun c => Quarter c 0 ∧ named x s c 0x7002 ∧ s.lookup (0, 4096) 0x8000 2 = none ∧ s.entry? (manifestSet (0, 4096) 0x8000 + 3) = none) ∧
    (∃ (x : Ext) (s : State) (k : Nat) (e : MEntry), Meets x s fun c => Quarter c 0 ∧ named x s c 0x7002 ∧ s.lookup (0, 4096) 0x8000 2 = none ∧
      (∀ n, n < 4 → s.entry? (manifestSet (0, 4096) 0x8000 + n) ≠ none) ∧ (k, e) ∈ s.ways (manifestSet (0, 4096) 0x8000) ∧ e.pin = 0 ∧
      ∀ r ∈ s.ways (manifestSet (0, 4096) 0x8000), r.1 ≠ k → r.2.pin = 0 → r.2.age < e.age) ∧
    (∃ (x : Ext) (s : State), Meets x s fun c => Quarter c 0 ∧ named x s c 0x7002 ∧ s.lookup (0, 4096) 0x8000 2 = none ∧
      ∀ n, n < 4 → (s.entry? (manifestSet (0, 4096) 0x8000 + n)).map (fun e => e.pin) = some 1) ∧
    (∃ (x : Ext) (s : State), Meets x s fun c => Quarter c 0 ∧ named x s c 4095 ∧ s.lookup (0, 4096) 0x8000 4095 = none) ∧
    (∀ pin : Fin 9, ∃ (x : Ext) (s : State) (k : Nat) (e : MEntry), Meets x s fun c => Quarter c 0 ∧ named x s c 1 ∧ s.lookup (0, 4096) 0x8000 1 = some (k, e) ∧ e.pin = pin ∧
      ∀ r ∈ s.ways (manifestSet (0, 4096) 0x8000), r.2.key = 0x8000 → r.2.cnt = 1 → r.1 = k) ∧
    (∃ (x : Ext) (s : State) (bs : List Byte), s.mem.failed = [] ∧ Meets x s fun c => Quarter c 0 ∧ named x s c 2 ∧ (s.engNote c.w 0 0x8000 16).engRead c.w 0 (pieces 16) 0x8000 16 = .ok bs ∧
      ∀ n, n < 2 → s.lookup (0, 4096) (BitVec.ofNat 64 (natOfBytes ((bs.drop (8 * n)).take 8))) (n + 1) = none) ∧
    ∃ (x : Ext) (s : State) (bs : List Byte) (k : Nat) (e : MEntry), x.mb 23 = true ∧ s.mem.failed = [] ∧ Meets x s fun c => Quarter c 0 ∧ named x s c 2 ∧
      (s.engNote c.w 0 0x8000 16).engRead c.w 0 (pieces 16) 0x8000 16 = .ok bs ∧
      s.lookup (0, 4096) (BitVec.ofNat 64 (natOfBytes ((bs.drop 8).take 8))) 2 = some (k, e) ∧ e.pin = 247 := by
  refine ⟨⟨{ z with d := 5, a := 2, b := 3 }, machine (keyed 2) 0xFF, ?_⟩, ⟨{ z with d := 5, a := 2, b := 3 }, cached (keyed 0x7002) (held 0 2), ?_⟩,
    ⟨{ z with d := 5, a := 2, b := 3 }, cached (keyed 0x7002) (full8 0).dropLast, ?_⟩,
    ⟨{ z with d := 5, a := 2, b := 3 }, cached (keyed 0x7002) (full8 0), set8 + 2, { key := 3, cnt := 2, rec_ := 9, pin := 0, age := 3 }, ?_⟩,
    ⟨{ z with d := 5, a := 2, b := 3 }, cached (keyed 0x7002) (full8 1), ?_⟩, ⟨{ z with d := 5, a := 2, b := 3 }, cached (keyed 4095) (held 0 2), ?_⟩,
    fun pin => ⟨{ z with d := 5, a := 2, b := 3 }, cached (keyed 1) (held pin 1), set8, { key := 0x8000, cnt := 1, rec_ := 7, pin := pin, age := 0 }, ?_⟩,
    ⟨{ z with d := 5, a := 2, b := 3 }, cached (keyed 2) [], List.replicate 16 0, by decide, ?_⟩,
    { z with d := 5, a := 2, b := 3, mod := 1 }, let s := cached (keyed 2) [(set8, { key := 0x8000, cnt := 2, rec_ := 7, pin := 247, age := 0 })]
      { s with mem := { s.mem with hbm := [(0x8009, 0x80)] } }, [0, 0, 0, 0, 0, 0, 0, 0, 0, 0x80, 0, 0, 0, 0, 0, 0], set8, { key := 0x8000, cnt := 2, rec_ := 7, pin := 247, age := 0 }, by decide, by decide, ?_⟩
  case refine_7 => apply Meets.quarter; unfold named Fits; exact Meets.of _ _ _ (by revert pin; decide)
  case refine_1 => apply Meets.quarter; unfold Fits; exact Meets.of _ _ _ (by decide)
  all_goals apply Meets.quarter; unfold named Fits; exact Meets.of _ _ _ (by decide +kernel)

/-- R354: a removal takes out an unpinned entry and gives its packed record. -/
theorem test_pfxd_removes : gives (.pfxd { z with d := 5, a := 2, b := 3 }) (cached (keyed 2) (held 0 2))
    (fun t w => w.regs[5].get 0 == 0x7002 && w.regs[5].get 1 == 0 && t.lookup (0, 4096) 0x8000 2 == none) = true := by decide
/-! From here on many evaluations wait for the kernel, so they are done one after the other. -/

set_option Elab.async false

/-! ### Operations under way -/

/-- A machine with one posted operation, and a whole operation of one instruction. -/
def moving (o : EngOp) (s : State := machine (warpOf []) 1) : State := { s with ops := [o] }
def under (i : Instr) (vals : List Word) (rows : Nat := 0) (data : List (List Word) := []) (claim : Option Nat := none) : EngOp :=
  { engOp i with started := true, vals := vals, rows := rows, data := data, claim := claim }

/-- What makes an operation move, as plain conditions. -/
abbrev moves (s : State) (o : EngOp) : Prop := s.op? o.id = some o ∧ o.core < Config.cores ∧ o.done = false ∧ o.err = none ∧ s.opHeld o = false

theorem Moves.of {s : State} {o : EngOp} (h : moves s o) : Moves s o := ⟨h.1, h.2.1, h.2.2.1, h.2.2.2.1, h.2.2.2.2⟩

theorem ScratchRow.of {s : State} {w : Warp} {va : Word} {n : Nat} (l : Launch) (hl : s.launchOf w = some l) (h : va.toNat + n ≤ l.kern.scratch) (hs : l.kern.scratch < 2 ^ 64) :
    ScratchRow s w va n := by
  intro k m _ hk
  have ha : (va + BitVec.ofNat 64 k).toNat = va.toNat + k := by simp [BitVec.toNat_add, BitVec.toNat_ofNat]; omega
  simp only [State.place, Nat.mod_one, ne_eq, not_true_eq_false, if_false, hl, ha]
  rw [if_neg (by omega)]

/-- Operand words of a load or a store of tile 2 with scratchpad rows of FP8, and of a Tender block. -/
def onAcc : Ext := { z with len := .w96, mod := 3 + 16 * 2, l32 := 2 + 256 * 5 }
def zeros (n : Nat) : List Byte := List.replicate n 0
def blk (src dst rows len fmts idx lim : Word) : List Word := [src, dst, len + rows <<< 24, 16, 32, fmts, idx, lim]

theorem witness_GantryPassSteps_rows :
    (∃ (s : State) (o : EngOp) (x : Ext) (bs : List Byte), o.instr = .accld x ∧ Moves s o ∧ o.forked s = true ∧ s.tilesClear o.core o.tiles o.id = true ∧ o.rows = 31 ∧
      s.engGets (s.warpOfOp o) (x.m 27 3) (o.vals.getD 0 0 + BitVec.ofNat 64 (o.rows * (o.vals.getD 1 0).toNat)) (128 * accBytes x) bs ∧
      s.touches o (s.engLines o (s.warpOfOp o) (x.m 27 3) (o.vals.getD 0 0 + BitVec.ofNat 64 (o.rows * (o.vals.getD 1 0).toNat)) (128 * accBytes x) .read)) ∧
    (∃ (s : State) (o : EngOp) (x : Ext) (g : Group), o.instr = .accst x ∧ x.m 27 3 = 2 ∧ Moves s o ∧ o.forked s = true ∧ s.tilesClear o.core o.tiles o.id = true ∧ o.rows = 1 ∧
      s.group? o.gid = some g ∧ ScratchRow s (s.warpOfOp o) (o.vals.getD 0 0 + BitVec.ofNat 64 (o.rows * (o.vals.getD 1 0).toNat)) (128 * accBytes x) ∧
      s.engRoom o (s.warpOfOp o) 2 [(o.vals.getD 0 0 + BitVec.ofNat 64 (o.rows * (o.vals.getD 1 0).toNat), 128 * accBytes x)] = true ∧
      s.touches o (s.engLines o (s.warpOfOp o) 2 (o.vals.getD 0 0 + BitVec.ofNat 64 (o.rows * (o.vals.getD 1 0).toNat)) (128 * accBytes x) .write)) ∧
    ∀ i ∈ [Instr.accz onAcc, .acccp onAcc], ∃ (s : State) (o : EngOp), o.instr = i ∧ Moves s o ∧ o.forked s = true ∧ s.tilesClear o.core o.tiles o.id = true ∧ o.rows < 128 := by
  let ld : Ext := { onAcc with mod := 3 }
  refine ⟨⟨moving (under (.accld ld) [0x8000, 128] 31), under (.accld ld) [0x8000, 128] 31, ld, zeros 128, rfl, Moves.of (by decide +kernel), by decide, by decide, rfl, ?_, ?_⟩,
    ⟨moving (under (.accst onAcc) [0xE80, 128] 1), under (.accst onAcc) [0xE80, 128] 1, onAcc, grp, rfl, rfl, Moves.of (by decide +kernel), by decide, by decide, rfl, rfl,
      ScratchRow.of lch rfl (by decide) (by decide), by decide, ?_⟩, fun i hi => ⟨moving (under i [] 127), under i [] 127, rfl, ?_⟩⟩
  · unfold State.engGets; decide +kernel
  · unfold State.touches; decide +kernel
  · unfold State.touches; decide +kernel
  · simp only [List.mem_cons, List.not_mem_nil, or_false] at hi
    rcases hi with rfl | rfl <;> exact ⟨Moves.of (by decide +kernel), by decide, by decide, by decide⟩

/-- What every clause about a row of a Tender operation asks. -/
abbrev rowReady (s : State) (o : EngOp) (g : Group) : Prop := o.started = true ∧ s.group? o.gid = some g ∧ s.tenderRoom o (s.warpOfOp o) = true ∧
  s.touches o (s.tenderLines o (s.warpOfOp o))

/-- Scratchpad to scratchpad; two rows of four FP32 values that become FP8, of 16 bytes, and of four indices. -/
def inPad : Ext := { z with mod := 0b10010 }
def copyBlk : List Word := blk 0x40 0xFD0 2 16 0 0 0
def convBlk : List Word := blk 0x40 0xFDC 2 4 0x32 0 0
def idxBlk : List Word := blk 0x40 0xFBC 2 4 0x32 0x8FF8 3
def ringed2 (r : Ring) : State := machine (warpOf []) 1 (ringed r)
def ringT : Ext := { z with b := 2 }
def emptyRing : Ring := { ring with free := 2, np := 0, done := [] }
def feedX : Ext := { z with b := 16, mod := 2 + 8 * 3 }
def feeding (q : GStream) (o : EngOp) : State := moving o { machine (warpOf []) 1 with gantries := [(0, { Gantry.init with streams := [(16, q)] })] }
def fedAt (n : Nat) : GStream := { stream [] with next := n, claims := n + 1 }

theorem witness_TenderRowsMove :
    (∀ i ∈ [(Instr.tcopy inPad, copyBlk, zeros 16, 16), (.tconv inPad, convBlk, zeros 16, 4)], ∃ (s : State) (o : EngOp), o.instr = i.1 ∧ Moves s o ∧ rowReady s o grp ∧ o.claim = none ∧
      o.rows = 1 ∧ s.engGets (s.warpOfOp o) 2 (o.vals.getD 0 0 + BitVec.ofNat 64 (o.rows * (o.vals.getD 3 0).toNat)) (tSrcBytes (tenderUse i.1) o.vals) i.2.2.1 ∧
      ScratchRow s (s.warpOfOp o) (o.vals.getD 1 0 + BitVec.ofNat 64 (o.rows * (o.vals.getD 4 0).toNat)) i.2.2.2) ∧
    (∀ i ∈ [(Instr.tgather inPad, 2, 1), (.tscatter inPad, 1, 2)], ∃ (s : State) (o : EngOp), o.instr = i.1 ∧ Moves s o ∧ rowReady s o grp ∧ o.claim = none ∧ o.rows = 1 ∧
      o.data = [[9, 2]] ∧ s.engGets (s.warpOfOp o) 2 (o.vals.getD 0 0 + BitVec.ofNat 64 (i.2.1 * (o.vals.getD 3 0).toNat)) (tSrcBytes (tenderUse i.1) o.vals) (zeros 16) ∧
      ScratchRow s (s.warpOfOp o) (o.vals.getD 1 0 + BitVec.ofNat 64 (i.2.2 * (o.vals.getD 4 0).toNat)) 4) ∧
    (∃ (s : State) (o : EngOp) (x : Ext), o.instr = .tfill x ∧ Moves s o ∧ rowReady s o grp ∧ o.claim = none ∧ dstSpace x = 2 ∧
      ScratchRow s (s.warpOfOp o) (o.vals.getD 1 0 + BitVec.ofNat 64 (o.rows * (o.vals.getD 4 0).toNat)) 16) ∧
    (∀ i ∈ [Instr.tgather inPad, .tscatter inPad], (∃ (s : State) (o : EngOp), o.instr = i ∧ Moves s o ∧ rowReady s o grp ∧ o.claim = none ∧ o.data = [] ∧
        s.engGets (s.warpOfOp o) 0 (o.vals.getD 6 0) (4 * tRows o.vals) (zeros 8)) ∧
      ∃ (s : State) (o : EngOp), o.instr = i ∧ Moves s o ∧ rowReady s o grp ∧ o.claim = none ∧ o.data = [[3, 3]] ∧ o.rows = 0 ∧ (o.vals.getD 7 0).toNat = 3) ∧
    (∃ (s : State) (o : EngOp) (g : Group) (r : Ring), o.instr = .tring ringT ∧ Moves s o ∧ rowReady s o g ∧ s.ring? o.gid ringT.b.toNat = some r ∧ o.claim = none ∧
      (s.ringQueue o.gid ringT.b.toNat).contains (.tender o.id) = false ∧ r.free ≠ 0) ∧
    (∃ (s : State) (o : EngOp) (g : Group) (r r1 : Ring), o.instr = .tring ringT ∧ Moves s o ∧ rowReady s o g ∧ s.ring? o.gid ringT.b.toNat = some r ∧ o.claim = some 0x100 ∧
      s.engGets (s.warpOfOp o) 0 (o.vals.getD 0 0 + BitVec.ofNat 64 (o.rows * (o.vals.getD 3 0).toNat)) (tSrcBytes (tenderUse o.instr) o.vals) (zeros 16) ∧
      r.put true 0x100 = some r1 ∧ s.ringQueue o.gid ringT.b.toNat = []) ∧
    (∃ (s : State) (o : EngOp) (q : GStream), o.instr = .tfeed feedX ∧ Moves s o ∧ rowReady s o grp ∧ Sparse.find (s.gantry (o.core / 4)).streams feedX.b.toNat = some q ∧
      o.claim = none ∧ q.room 16 = true ∧
      ∀ p ∈ s.ops, p.started = true → p.done = false → p.claim = none → p.core / 4 = o.core / 4 → p.id < o.id → ∀ y, p.instr = .tfeed y → y.b.toNat ≠ 16) ∧
    (∃ (s : State) (o : EngOp) (q : GStream), o.instr = .tfeed feedX ∧ Moves s o ∧ rowReady s o grp ∧ Sparse.find (s.gantry (o.core / 4)).streams feedX.b.toNat = some q ∧
      o.claim = some 7 ∧ o.rows < tRows o.vals ∧
      s.engGets (s.warpOfOp o) 2 (o.vals.getD 0 0 + BitVec.ofNat 64 (o.rows * (o.vals.getD 3 0).toNat)) (tSrcBytes (tenderUse o.instr) o.vals) (zeros 16)) ∧
    ∃ (s : State) (o : EngOp) (q : GStream) (seg : Segment), o.instr = .tfeed feedX ∧ Moves s o ∧ rowReady s o grp ∧ Sparse.find (s.gantry (o.core / 4)).streams feedX.b.toNat = some q ∧
      o.claim = some 7 ∧ tRows o.vals ≤ o.rows ∧ q.next = 7 ∧ (q.ready.find? fun r => r.pos == 7) = some seg ∧ q.void = [] := by
  refine ⟨?_, ?_, ⟨moving (under (.tfill { inPad with mod := 0b10000 }) copyBlk), under (.tfill { inPad with mod := 0b10000 }) copyBlk, { inPad with mod := 0b10000 }, rfl, Moves.of (by decide +kernel), ?_,
      rfl, by decide, ScratchRow.of lch rfl (by decide) (by decide)⟩, ?_,
    ⟨moving (under (.tring ringT) copyBlk) (ringed2 emptyRing), under (.tring ringT) copyBlk, ringed emptyRing, emptyRing, rfl, Moves.of (by decide +kernel), ?_, rfl, rfl, by decide, by decide⟩,
    ⟨moving (under (.tring ringT) (blk 0x8000 0 1 4 0x22 0 0) 0 [] (some 0x100)) (ringed2 { ring with done := [] }), under (.tring ringT) (blk 0x8000 0 1 4 0x22 0 0) 0 [] (some 0x100),
      ringed { ring with done := [] }, { ring with done := [] }, { ring with np := 1, wc := 1, full := 1, done := [] }, rfl, Moves.of (by decide +kernel), ?_, rfl, rfl, ?_, by decide, rfl⟩,
    ⟨feeding (fedAt 7) (under (.tfeed feedX) convBlk), under (.tfeed feedX) convBlk, fedAt 7, rfl, Moves.of (by decide +kernel), ?_, rfl, rfl, by decide, ?_⟩,
    ⟨feeding (fedAt 7) (under (.tfeed feedX) convBlk 1 [[]] (some 7)), under (.tfeed feedX) convBlk 1 [[]] (some 7), fedAt 7, rfl, Moves.of (by decide +kernel), ?_, rfl, rfl, by decide, ?_⟩,
    feeding { fedAt 7 with ready := [{ seg0 with pos := 7 }] } (under (.tfeed feedX) convBlk 2 [] (some 7)), under (.tfeed feedX) convBlk 2 [] (some 7),
      { fedAt 7 with ready := [{ seg0 with pos := 7 }] }, { seg0 with pos := 7 }, rfl, Moves.of (by decide +kernel), ?_, rfl, rfl, by decide, rfl, rfl, rfl⟩
  · intro i hi
    simp only [List.mem_cons, List.not_mem_nil, or_false] at hi
    rcases hi with rfl | rfl
    · refine ⟨moving (under (.tcopy inPad) copyBlk 1), under (.tcopy inPad) copyBlk 1, rfl, Moves.of (by decide +kernel), ?_, rfl, rfl, ?_, ScratchRow.of lch rfl (by decide) (by decide)⟩
      · unfold rowReady State.touches; decide +kernel
      · unfold State.engGets; decide +kernel
    · refine ⟨moving (under (.tconv inPad) convBlk 1), under (.tconv inPad) convBlk 1, rfl, Moves.of (by decide +kernel), ?_, rfl, rfl, ?_, ScratchRow.of lch rfl (by decide) (by decide)⟩
      · unfold rowReady State.touches; decide +kernel
      · unfold State.engGets; decide +kernel
  · intro i hi
    simp only [List.mem_cons, List.not_mem_nil, or_false] at hi
    rcases hi with rfl | rfl
    · refine ⟨moving (under (.tgather inPad) idxBlk 1 [[9, 2]]), under (.tgather inPad) idxBlk 1 [[9, 2]], rfl, Moves.of (by decide +kernel), ?_, rfl, rfl, rfl, ?_, ScratchRow.of lch rfl (by decide) (by decide)⟩
      · unfold rowReady State.touches; decide +kernel
      · unfold State.engGets; decide +kernel
    · refine ⟨moving (under (.tscatter inPad) idxBlk 1 [[9, 2]]), under (.tscatter inPad) idxBlk 1 [[9, 2]], rfl, Moves.of (by decide +kernel), ?_, rfl, rfl, rfl, ?_, ScratchRow.of lch rfl (by decide) (by decide)⟩
      · unfold rowReady State.touches; decide +kernel
      · unfold State.engGets; decide +kernel
  · unfold rowReady State.touches; decide +kernel
  · intro i hi
    simp only [List.mem_cons, List.not_mem_nil, or_false] at hi
    rcases hi with rfl | rfl
    · refine ⟨⟨moving (under (.tgather inPad) idxBlk), under (.tgather inPad) idxBlk, rfl, Moves.of (by decide +kernel), ?_, rfl, rfl, ?_⟩,
        moving (under (.tgather inPad) idxBlk 0 [[3, 3]]), under (.tgather inPad) idxBlk 0 [[3, 3]], rfl, Moves.of (by decide +kernel), ?_, rfl, rfl, rfl, by decide⟩
      · unfold rowReady State.touches; decide +kernel
      · unfold State.engGets; decide +kernel
      · unfold rowReady State.touches; decide +kernel
    · refine ⟨⟨moving (under (.tscatter inPad) idxBlk), under (.tscatter inPad) idxBlk, rfl, Moves.of (by decide +kernel), ?_, rfl, rfl, ?_⟩,
        moving (under (.tscatter inPad) idxBlk 0 [[3, 3]]), under (.tscatter inPad) idxBlk 0 [[3, 3]], rfl, Moves.of (by decide +kernel), ?_, rfl, rfl, rfl, by decide⟩
      · unfold rowReady State.touches; decide +kernel
      · unfold State.engGets; decide +kernel
      · unfold rowReady State.touches; decide +kernel
  · unfold rowReady State.touches; decide +kernel
  · unfold rowReady State.touches; decide +kernel
  · unfold State.engGets; decide +kernel
  · unfold rowReady State.touches; decide +kernel
  · intro p hp _ _ _ _ hlt
    simp only [feeding, moving, List.mem_singleton] at hp
    subst hp; omega
  · unfold rowReady State.touches; decide +kernel
  · unfold State.engGets; decide +kernel
  · unfold rowReady State.touches; decide +kernel

/-- One page operation beside a list at 0x8000 with a count and some page numbers, in a machine of a few pages. -/
def listBytes (count : Nat) (lpns : List Nat) : Memory := (Memory.setBytes [] 0x8000 (bytesOfNat 4 count ++ bytesOfNat 4 2)).setBytes 0x8040 (lpns.flatMap (bytesOfNat 4))
def paging (o : EngOp) (count : Nat) (lpns : List Nat) (descs : List (Nat × Desc)) : State :=
  let s := machine (warpOf []) 1
  { s with ops := [o], mem := { s.mem with hbm := listBytes count lpns }, pages := { s.pages with descs := descs } }
def head (count : Nat) : ListHead := { count := count, cap := 2, kv := 0, dim := 0 }
/-- A page of dimension 64 in HBM, at the start of the pool. -/
def small : Desc := { page with fmt := 0, dim := 0, addr := 0x40000000, pin := 0, mass := 0, dep := 0 }

/-- Where the pool or a tier has space behind its images, an image finds a place. -/
theorem findRun_some (s : State) (tier bytes : Nat) (h : ¬ (tier = 0 ∧ s.pages.poolBack < s.poolCharge + bytes))
    (hf : (((s.tierRange tier).1 :: (s.imageRuns tier).map fun u => u.1 + u.2).find? fun a => s.runFree tier a (unitsOf bytes)).isSome = true) :
    ∃ a, s.findRun tier bytes = some a := by
  unfold State.findRun
  rw [if_neg h]
  dsimp only
  split
  · exact ⟨_, rfl⟩
  · exact Option.isSome_iff_exists.mp hf

def newOp : EngOp := under (.pgnew z) [0x8000, 40, 0]
def demOp : EngOp := under (.pgdemote z) [40, 1]

/-- The header of the list, and the charge of the pool with one image. -/
theorem listHead_of (s : State) (o : EngOp) (n : Nat) (bs : List Byte) (h : s.opRead o (o.vals.getD 0 0) 10 = .ok bs)
    (hb : natOfBytes (bs.take 4) = n ∧ natOfBytes ((bs.drop 4).take 4) = 2 ∧ (bs.getD 8 0).toNat = 0 ∧ (bs.getD 9 0).toNat = 0) : s.listHead o (o.vals.getD 0 0) = .ok (head n) := by
  unfold State.listHead head
  rw [h, ← hb.1, ← hb.2.1]
  dsimp only
  rw [hb.2.2.1, hb.2.2.2, hb.2.1]

theorem poolCharge_one (s : State) (a n : Nat) (h : s.poolCharges = [(a, n)]) : s.poolCharge = n := by
  unfold State.poolCharge
  rw [h]
  simp [List.eraseDups_cons]

theorem witness_PageOperationsMove_new : ∃ (s : State) (o : EngOp) (h : ListHead) (last : Option Nat) (a : Nat), o.instr = .pgnew z ∧ Moves s o ∧ o.forked s = true ∧
    s.listHead o (o.vals.getD 0 0) = .ok h ∧ s.lastPage o (o.vals.getD 0 0) h = .ok last ∧ s.newPageFails (o.vals.getD 0 0) h (bw o.vals 1) = none ∧ s.lastFull last = true ∧
    s.findRun 0 (64 * dimOf h.dim) = some a ∧ s.opRoom o [(entryAddr (o.vals.getD 0 0) h.count, 4), (o.vals.getD 0 0, 4)] = true := by
  obtain ⟨a, ha⟩ := findRun_some (paging newOp 0 [] []) 0 4096 (by decide +kernel) (by decide +kernel)
  have hl : (paging newOp 0 [] []).listHead newOp 0x8000 = .ok (head 0) := listHead_of _ newOp 0 (bytesOfNat 4 0 ++ bytesOfNat 4 2 ++ [0, 0]) (by decide +kernel) (by decide)
  refine ⟨paging newOp 0 [] [], newOp, head 0, none, a, rfl, ⟨by decide +kernel, by decide, rfl, rfl, ?_⟩, by decide, hl, rfl, by decide +kernel, rfl, ha, by decide +kernel⟩
  have p : ∀ r, (paging newOp 0 [] []).placePage newOp 0x8000 (head 0) 40 false = r → ∃ t, r = some t ∧ t.poolCharges = [(a, 4096)] := by
    intro r hr
    unfold State.placePage at hr
    rw [if_neg (by decide +kernel)] at hr
    dsimp only at hr
    rw [show (paging newOp 0 [] []).findRun 0 (imageBytes 0 (dimOf (head 0).dim)) = some a from ha] at hr
    subst hr
    refine ⟨_, rfl, ?_⟩
    have keep : ∀ (u : State) (va : Word) (bs cs : List Byte), (u.opWriteThen newOp va bs fun s => s.opWrite newOp 0x8000 cs).pages = u.pages := by
      intro u va bs cs
      simp only [State.opWriteThen, apply_ite State.pages, State.pages_opWrite, ite_self]
    unfold State.poolCharges State.chargeOf
    rw [keep]
    rfl
  obtain ⟨t, ht, hc⟩ := p _ rfl
  have e : (paging newOp 0 [] []).advanceOp newOp = t.setOp newOp.id fun p => { p with done := true } := by
    show (paging newOp 0 [] []).advancePgnew newOp = _
    unfold State.advancePgnew
    dsimp only
    rw [show newOp.vals.getD 0 0 = 0x8000 from rfl, hl]
    dsimp only
    rw [show (paging newOp 0 [] []).newPageFails 0x8000 (head 0) (bw newOp.vals 1) = none from by decide +kernel]
    rw [show (paging newOp 0 [] []).lastPage newOp 0x8000 (head 0) = .ok none from rfl]
    dsimp only
    rw [show (paging newOp 0 [] []).placePage newOp 0x8000 (head 0) (bw newOp.vals 1) ((newOp.vals.getD 2 0).getLsbD 0) = some t from ht]
    rfl
  unfold State.opHeld
  rw [e]
  have hq : (t.setOp newOp.id fun p => { p with done := true }).poolCharge = 4096 := poolCharge_one _ a _ hc
  simp only [State.poolShort, hq]
  decide +kernel

def appOp : EngOp := under (.pgapp z) [0x8000, 0x8800, 1, 0, 0, 0] 0 [[1, 2, 0, 0, 40]]
def refOp : EngOp := under (.pgappRef z) [0x8000, 0x8040, 1]
def freeOp (rows : Nat) : EngOp := under (.pgfree z) [0x8000] rows
def sumOp : EngOp := under (.pgsum z) [40]
/-- A page of the LP tier with one entry, and a summary of some entries. -/
def summing (n : Nat) : State :=
  let s := paging sumOp 0 [] [(40, { small with tier := 1, valid := 1, rdr := 254 })]
  { s with pages := { s.pages with sums := [(0, { n := n, rho := 0, lpn := 40, ver := 5, cent := [] })] } }
def truncOp : EngOp := under (.pgtrunc z) [0x8000, 0]

theorem witness_PageOperationsMove :
    (∀ v ∈ [30, 31], ∃ (s : State) (o : EngOp) (l : List Word) (bs : List Byte), o.instr = .pgapp z ∧ Moves s o ∧ o.forked s = true ∧ o.data = [l] ∧ bw l 0 ≠ 0 ∧ bw l 4 < s.pages.count ∧
      (s.desc (bw l 4)).tier < 2 ∧ (s.desc (bw l 4)).lost = false ∧ (s.desc (bw l 4)).fmt = 0 ∧ s.imageHeld (s.desc (bw l 4)) = false ∧ s.mem.failed = [] ∧
      s.engGets (s.warpOfOp o) 0 (o.vals.getD 1 0 + BitVec.ofNat 64 (o.rows * (o.vals.getD 3 0).toNat)) (rowBytes (bw o.vals 4) (dimOf (s.desc (bw l 4)).dim)) bs ∧
      ((rowDecode (bw o.vals 4) (dimOf (s.desc (bw l 4)).dim) bs).flatMap fun v => bytesOfNat 2 (narrow 0 false v).1).length = 2 * dimOf (s.desc (bw l 4)).dim ∧
      (s.desc (bw l 4)).valid = v ∧ s.canRetire (bw l 4) = true) ∧
    (∃ (s : State) (o : EngOp) (h : ListHead) (last : Option Nat), o.instr = .pgappRef z ∧ Moves s o ∧ o.forked s = true ∧ bw o.vals 2 = 1 ∧ s.listHead o (o.vals.getD 0 0) = .ok h ∧
      s.lpnArray o (o.vals.getD 1 0) 1 = .ok [40] ∧ s.lastPage o (o.vals.getD 0 0) h = .ok last ∧ s.refOk h 1 40 = true ∧ s.lastFull last = true ∧ h.count < h.cap ∧
      s.opRoom o [(entryAddr (o.vals.getD 0 0) h.count, 4), (o.vals.getD 0 0, 4)] = true) ∧
    (∀ d ∈ [{ small with rdr := 3 }, { small with pin := 2 }, { small with list := 0, pin := 1 }, { small with list := 0x8100, pin := 7 }],
      ∃ (s : State) (o : EngOp) (h : ListHead), o.instr = .pgfree z ∧ Moves s o ∧ o.forked s = true ∧ s.listHead o (o.vals.getD 0 0) = .ok h ∧ o.rows = 1 ∧ o.rows < h.count ∧
        s.listPage o (o.vals.getD 0 0) o.rows = .ok 40 ∧ 40 < s.pages.count ∧ (s.desc 40).free = false ∧ o.vals.getD 0 0 ≠ 0 ∧ s.desc 40 = d ∧ s.canRetire 40 = true) ∧
    (∃ (s : State) (o : EngOp) (h : ListHead), o.instr = .pgtrunc z ∧ Moves s o ∧ o.forked s = true ∧ bw o.vals 1 = 0 ∧ s.listHead o (o.vals.getD 0 0) = .ok h ∧ h.count = 1 ∧
      s.listPages o (o.vals.getD 0 0) 0 1 = .ok [40] ∧ (s.desc 40).free = false ∧ (s.desc 40).valid ≠ 0 ∧ o.vals.getD 0 0 ≠ 0 ∧ (s.desc 40).list = o.vals.getD 0 0 ∧ (s.desc 40).pin = 0 ∧
      s.canRetire 40 = true ∧ s.opRoom o [(o.vals.getD 0 0, 4)] = true) ∧
    (∀ tier ∈ [0, 1], ∃ (s : State) (o : EngOp), o.instr = .pglook z ∧ Moves s o ∧ o.forked s = true ∧ o.data = [[7, 40]] ∧ o.rows = 1 ∧ o.rows < bw o.vals 1 ∧ (∀ p ∈ s.lookLists, o.id ≤ p.id) ∧
      40 < s.pages.count ∧ (s.desc 40).lost = false ∧ (s.desc 40).tier = tier) ∧
    ∃ (s : State) (o : EngOp) (vals : List (List Nat)), o.instr = .pgsum z ∧ Moves s o ∧ o.forked s = true ∧ bw o.vals 1 = 0 ∧ s.mem.failed = [] ∧ bw o.vals 0 = 40 ∧
      (s.desc 40).tier < 2 ∧ (s.desc 40).lost = false ∧ (s.desc 40).rdr = 254 ∧ s.readVersion (s.desc 40) = .ok vals ∧
      (Sparse.find s.pages.sums (s.desc 40).sumIdx).map (fun m => m.n) = some 1 ∧ (s.desc 40).valid = 1 := by
  refine ⟨?_, ⟨paging refOp 0 [40] [(40, { small with valid := 32, pin := 254 })], refOp, head 0, none, rfl, Moves.of (by decide +kernel), by decide, rfl,
      listHead_of _ refOp 0 (bytesOfNat 4 0 ++ bytesOfNat 4 2 ++ [0, 0]) (by decide +kernel) (by decide), by decide +kernel, rfl, by decide +kernel, rfl, by decide, by decide +kernel⟩, ?_,
    ⟨paging truncOp 1 [40] [(40, small)], truncOp, head 1, rfl, Moves.of (by decide +kernel), by decide, rfl,
      listHead_of _ truncOp 1 (bytesOfNat 4 1 ++ bytesOfNat 4 2 ++ [0, 0]) (by decide +kernel) (by decide), rfl, by decide +kernel, by decide, by decide, by decide, by decide, by decide, by decide,
      by decide +kernel⟩, ?_, ?_⟩
  · intro v hv
    refine ⟨paging appOp 1 [40] [(40, { small with valid := v, tier := v % 2 })], appOp, [1, 2, 0, 0, 40], zeros 128, rfl, Moves.of ?_, rfl, rfl, by decide, ?_⟩
    · revert v; decide +kernel
    · revert v; unfold State.engGets; decide +kernel
  · intro d hd
    refine ⟨paging (freeOp 1) 2 [41, 40] [(40, d)], freeOp 1, head 2, rfl, Moves.of ?_, rfl, listHead_of _ (freeOp 1) 2 (bytesOfNat 4 2 ++ bytesOfNat 4 2 ++ [0, 0]) ?_ (by decide), rfl, by decide, ?_⟩
    · revert d; decide +kernel
    · revert d; decide +kernel
    · revert d; decide +kernel
  · intro tier ht
    refine ⟨paging (under (.pglook z) [0x8000, 2] 1 [[7, 40]]) 0 [] [(40, { small with tier := tier })], under (.pglook z) [0x8000, 2] 1 [[7, 40]], rfl, Moves.of ?_, rfl, rfl, rfl, by decide, ?_⟩
    · revert tier; decide +kernel
    · revert tier; decide +kernel
  · exact ⟨summing 1, sumOp, [List.replicate 64 0], rfl, Moves.of (by decide +kernel), rfl, rfl, rfl, rfl, by decide +kernel⟩

/-- Where no image is in the pool, no write is held for raw storage. -/
theorem poolShort_of_none (s s1 : State) (h : s1.poolCharges = []) : s.poolShort s1 = false := by
  have h0 : s1.poolCharge = 0 := by unfold State.poolCharge; rw [h]; rfl
  simp [State.poolShort, h0]

/-- A page whose summary is older than its entries. -/
theorem witness_PageOperationsMove_summary : ∃ (s : State) (o : EngOp) (vals : List (List Nat)), o.instr = .pgsum z ∧ Moves s o ∧ o.forked s = true ∧ bw o.vals 1 = 0 ∧ s.mem.failed = [] ∧
    bw o.vals 0 = 40 ∧ (s.desc 40).tier < 2 ∧ (s.desc 40).lost = false ∧ (s.desc 40).rdr = 254 ∧ s.readVersion (s.desc 40) = .ok vals ∧
    (∀ m, Sparse.find s.pages.sums (s.desc 40).sumIdx = some m → m.n ≠ (s.desc 40).valid) ∧ s.canRetire 40 = true := by
  refine ⟨summing 2, sumOp, [List.replicate 64 0], rfl, ⟨by decide +kernel, by decide, rfl, rfl, ?_⟩, rfl, rfl, rfl, rfl, by decide, rfl, rfl, by decide +kernel, ?_, by decide⟩
  · apply poolShort_of_none
    show ((summing 2).advancePgsum sumOp).poolCharges = []
    unfold State.advancePgsum
    dsimp only
    rw [if_neg (by decide), if_neg (by decide), if_neg (by decide), if_neg (by decide +kernel), if_neg (by decide +kernel)]
    rw [show (((summing 2).setDesc (bw sumOp.vals 0) { (summing 2).desc (bw sumOp.vals 0) with ref := true }).imageNote ((summing 2).desc (bw sumOp.vals 0)).tier
      ((summing 2).desc (bw sumOp.vals 0)).addr ((summing 2).desc (bw sumOp.vals 0)).bytes).readVersion ((summing 2).desc (bw sumOp.vals 0)) = .ok [List.replicate 64 0] from by decide +kernel]
    dsimp only
    split
    · rfl
    · split <;> rfl
  · intro m hm
    cases hm
    decide

/-- A full page of the LP tier that is to become E4M3 there. -/
def demotion : State := paging demOp 0 [] [(40, { small with tier := 1, valid := 32 })]

theorem witness_PageOperationsMove_demote : ∃ (s : State) (o : EngOp) (img : List Byte) (a : Nat), o.instr = .pgdemote z ∧ Moves s o ∧ o.forked s = true ∧ bw o.vals 0 = 40 ∧ bw o.vals 1 % 4 = 1 ∧
    (o.vals.getD 1 0).getLsbD 8 = false ∧ (s.desc 40).tier = 1 ∧ (s.desc 40).lost = false ∧ (s.desc 40).hold = false ∧ 32 ≤ (s.desc 40).valid ∧ (s.desc 40).fmt = 0 ∧ (s.desc 40).transit = false ∧
    (∀ r ∈ s.pages.rewrites, r.op ≠ some o.id) ∧ s.imageRead 1 (s.desc 40).addr (s.desc 40).bytes = .ok img ∧ s.findRun 1 (imageBytes 1 (dimOf (s.desc 40).dim)) = some a := by
  obtain ⟨a, ha⟩ := findRun_some demotion 1 2048 (by decide +kernel) (by decide +kernel)
  have hi : demotion.imageRead 1 0x40000000 4096 = .ok (zeros 4096) := by decide +kernel
  refine ⟨demotion, demOp, zeros 4096, a, rfl, ⟨by decide +kernel, by decide, rfl, rfl, ?_⟩, rfl, rfl, rfl, rfl, rfl, rfl, rfl, by decide, rfl, rfl, by decide, hi, ha⟩
  apply poolShort_of_none
  show (demotion.advancePgdemote demOp).poolCharges = []
  unfold State.advancePgdemote
  dsimp only
  rw [if_neg (by decide), if_neg (by decide), if_neg (by decide), if_neg (by decide)]
  rw [show demotion.imageRead (demotion.desc (bw demOp.vals 0)).tier (demotion.desc (bw demOp.vals 0)).addr (demotion.desc (bw demOp.vals 0)).bytes = .ok (zeros 4096) from hi]
  dsimp only
  unfold State.tryRewrite State.beginRewrite
  rw [show demotion.findRun (if (demOp.vals.getD 1 0).getLsbD 8 then 1 else (demotion.desc (bw demOp.vals 0)).tier) (imageBytes (bw demOp.vals 1 % 4) (dimOf (demotion.desc (bw demOp.vals 0)).dim)) = some a from ha]
  simp only [Option.bind_some]
  unfold State.rewriteAt
  dsimp only
  rw [show demotion.imageRead (demotion.desc (bw demOp.vals 0)).tier (demotion.desc (bw demOp.vals 0)).addr (demotion.desc (bw demOp.vals 0)).bytes = .ok (zeros 4096) from hi]
  dsimp only
  have keep : ∀ (u : State) (bs : List Byte) (slot : Nat) (m : Summary), u.pages.descs = [(40, { small with tier := 1, valid := 32, transit := true })] → u.pages.retire = [] → u.pages.plan = [] →
      ∀ r : Rewrite, u.pages.rewrites = [] → r.tier = 1 → (((u.putImage 1 a bs).bump.putSummary slot m).modPages fun p => { p with rewrites := p.rewrites ++ [r] }).poolCharges = [] := by
    intro u bs slot m h1 h2 h3 r h4 h5
    simp [State.poolCharges, State.putSummary, State.pages_putImage, h1, h2, h3, h4, h5]
  apply keep <;> rfl
/-- What every clause about an operation of attention asks. -/
abbrev attends (s : State) (o : EngOp) : Prop := o.forked s = true ∧ s.tilesClear o.core o.tiles o.id = true ∧ (o.isAtt = true → o.started = true)

/-- One row and one page of dimension 64; tiles Q 0, M/L 1, scores 2, output 15. -/
def attVals : List Word := [0x8040, 0x0000010000000001, 0x00020100, 0, 0xFFFFFFFF]
def outVals : List Word := [0x8040, 0x0000010000000001, 0x0F020100]
def selVals : List Word := [0x8040, 0x0000010000010001, 0x8100, 0x8200]
def attMod : Ext := { z with mod := 3 }
def attOp (i : Instr) (vals : List Word) (rows : Nat := 0) (data : List (List Word) := []) (pages : List PageRead := []) : EngOp := { under i vals rows data with pages := pages }
def pageOf (kv : Bool) : Desc := { small with valid := 1, kv := kv, rdr := 254 }
def readOf (kv : Bool) (vals : Option (List (List Nat))) : PageRead := { idx := 0, lpn := 40, desc := { pageOf kv with rdr := 254 }, vals := vals }
def attending (o : EngOp) (kv : Bool := false) : State := paging o 0 [40] [(40, pageOf kv)]

theorem witness_AttentionOperationsMove :
    (∀ i ∈ [(Instr.atts z, attVals), (.attv z, outVals), (.psel z, selVals), (.attf { z with mod := 2 }, outVals)], ∃ (s : State) (o : EngOp), o.instr = i.1 ∧ Moves s o ∧ attends s o ∧ o.data = [] ∧
      s.lpnArray o (o.vals.getD 0 0) 1 = .ok [40]) ∧
    (∀ kv : Bool, let i := if kv then Instr.attv z else .atts z
      (∃ (s : State) (o : EngOp), o.instr = i ∧ Moves s o ∧ attends s o ∧ o.data = [[40]] ∧ s.inFlash 40 = false ∧ s.nextFetch o [40] = some (0, 40) ∧ 40 < s.pages.count ∧
        (s.desc 40).tier < 2 ∧ (s.desc 40).lost = false ∧ (s.desc 40).kv = (o.instr == .attv z) ∧ (s.desc 40).dim = attDim o.vals ∧ (s.desc 40).rdr ≠ 255) ∧
      (∃ (s : State) (o : EngOp) (r : PageRead) (vals : List (List Nat)), o.instr = i ∧ Moves s o ∧ attends s o ∧ o.data = [[40]] ∧ s.inFlash 40 = false ∧ s.nextFetch o [40] = none ∧
        (o.pages.find? fun p => p.vals.isNone) = some r ∧ s.mem.failed = [] ∧ s.readVersion r.desc = .ok vals ∧ (s.desc r.lpn).tier < 3 ∧ (s.desc r.lpn).ver = r.desc.ver) ∧
      ∃ (s : State) (o : EngOp), o.instr = i ∧ Moves s o ∧ attends s o ∧ o.data = [[40]] ∧ s.inFlash 40 = false ∧ s.nextFetch o [40] = none ∧ (∀ p ∈ o.pages, p.vals.isSome = true) ∧
        attPages o.vals ≤ o.pages.length ∧ attBlockOk o.instr o.vals = true ∧ attSt o.vals ∉ scoreTiles o.vals) ∧
    (∃ (s : State) (o : EngOp) (x : Ext), o.instr = .attf x ∧ x.mb 24 = true ∧ Moves s o ∧ attends s o ∧ o.data = [[40]] ∧ s.inFlash 40 = false ∧ o.rows < attPages o.vals ∧ 40 < s.pages.count ∧
      (s.desc 40).free = false) ∧
    (∃ (s : State) (o : EngOp) (x : Ext), o.instr = .attf x ∧ x.mb 23 = true ∧ x.mb 24 = true ∧ Moves s o ∧ attends s o ∧ o.data ≠ [] ∧ attPages o.vals ≤ o.rows ∧ attBlockOk o.instr o.vals = true) ∧
    (∃ (s : State) (o : EngOp) (x : Ext), o.instr = .attf x ∧ x.mb 23 = true ∧ x.mb 24 = false ∧ Moves s o ∧ attends s o ∧ attBlockOk o.instr o.vals = true) ∧
    (∃ (s : State) (o : EngOp), o.instr = .psel z ∧ Moves s o ∧ attends s o ∧ o.data = [[40]] ∧ o.pages.length < selNc o.vals ∧ 40 < s.pages.count ∧ s.inFlash 40 = false ∧ (s.desc 40).tier < 2 ∧
      (s.desc 40).lost = false ∧ (s.desc 40).kv = false ∧ (s.desc 40).dim = selDim o.vals ∧ (s.desc 40).rdr ≠ 255) ∧
    (∃ (s : State) (o : EngOp), o.instr = .psel z ∧ Moves s o ∧ attends s o ∧ o.data = [[40]] ∧ s.inFlash 40 = false ∧ selNc o.vals ≤ o.pages.length ∧
      s.opRoom o [(o.vals.getD 2 0, 4 * selK o.vals), (o.vals.getD 3 0, 4 * selK o.vals)] = true) ∧
    ∃ (s : State) (o : EngOp) (bs : List Byte), o.instr = .pfxh z ∧ Moves s o ∧ attends s o ∧ s.opRoom o [(o.vals.getD 3 0 + BitVec.ofNat 64 (8 * o.rows), 8)] = true ∧
      s.engGets (s.warpOfOp o) 0 (o.vals.getD 0 0 + BitVec.ofNat 64 (64 * o.rows)) 64 bs := by
  refine ⟨?_, ?_, ⟨attending (attOp (.attf { z with mod := 2 }) outVals 0 [[40]]), attOp (.attf { z with mod := 2 }) outVals 0 [[40]], { z with mod := 2 }, rfl, by decide, Moves.of (by decide +kernel), by decide +kernel⟩,
    ⟨attending (attOp (.attf attMod) outVals 1 [[40]]), attOp (.attf attMod) outVals 1 [[40]], attMod, rfl, by decide, by decide, Moves.of (by decide +kernel), by decide +kernel⟩,
    ⟨attending (attOp (.attf { z with mod := 1 }) [0, 0x0000010000000001, 0x0F000100]), attOp (.attf { z with mod := 1 }) [0, 0x0000010000000001, 0x0F000100], { z with mod := 1 }, rfl, by decide, by decide,
      Moves.of (by decide +kernel), by decide +kernel⟩,
    ⟨attending (attOp (.psel z) selVals 0 [[40]]), attOp (.psel z) selVals 0 [[40]], rfl, Moves.of (by decide +kernel), by decide +kernel⟩,
    ⟨attending (attOp (.psel z) selVals 0 [[40]] [readOf false (some [])]), attOp (.psel z) selVals 0 [[40]] [readOf false (some [])], rfl, Moves.of (by decide +kernel), by decide +kernel⟩,
    moving (under (.pfxh z) [0x8000, 2, 0, 0x8100] 1), under (.pfxh z) [0x8000, 2, 0, 0x8100] 1, zeros 64, rfl, Moves.of (by decide +kernel), by decide +kernel, by decide +kernel, ?_⟩
  · intro i hi
    refine ⟨attending (attOp i.1 i.2), attOp i.1 i.2, rfl, Moves.of ?_, ?_⟩ <;> revert i <;> decide +kernel
  · intro kv
    cases kv
    · exact ⟨⟨attending (attOp (.atts z) attVals 0 [[40]]), attOp (.atts z) attVals 0 [[40]], rfl, Moves.of (by decide +kernel), by decide +kernel⟩,
        ⟨attending (attOp (.atts z) attVals 0 [[40]] [readOf false none]), attOp (.atts z) attVals 0 [[40]] [readOf false none], readOf false none, [List.replicate 64 0], rfl, Moves.of (by decide +kernel), by decide +kernel⟩,
        attending (attOp (.atts z) attVals 0 [[40]] [readOf false (some [])]), attOp (.atts z) attVals 0 [[40]] [readOf false (some [])], rfl, Moves.of (by decide +kernel), by decide +kernel⟩
    · exact ⟨⟨attending (attOp (.attv z) outVals 0 [[40]]) true, attOp (.attv z) outVals 0 [[40]], rfl, Moves.of (by decide +kernel), by decide +kernel⟩,
        ⟨attending (attOp (.attv z) outVals 0 [[40]] [readOf true none]) true, attOp (.attv z) outVals 0 [[40]] [readOf true none], readOf true none, [List.replicate 64 0], rfl, Moves.of (by decide +kernel), by decide +kernel⟩,
        attending (attOp (.attv z) outVals 0 [[40]] [readOf true (some [])]) true, attOp (.attv z) outVals 0 [[40]] [readOf true (some [])], rfl, Moves.of (by decide +kernel), by decide +kernel⟩
  · unfold State.engGets; decide +kernel
/-! ### Traps, privilege, special registers, handlers (spec 18) -/

def trusted : Warp := { warpOf [(2, uniform 0x77)] with threads := Vector.replicate 32 { Thread.start 0x1000 with privl := true, epc := 0x2000 } }
def onSystem : Ext := { z with len := .w96, s := true, a := 2, b := 2, d := 9 }

theorem test_trap_records : gives (.trap { z with len := .w96, s := true, l32 := 7 }) (machine (warpOf []) 6)
    (fun _ w => w.threads[1].st == .parked && w.threads[1].resume == 0x100C && w.threads[1].frec.map (fun r => (r.cause, r.lane, r.mask, r.addr)) == some (0x0E, 1, 6, 7)
      && w.threads[0].pc == 0x1000) = true := by decide
theorem test_movsp_unprivileged : gives (.movsp { z with s := true, b := 2, mod := 0x45 }) (machine (warpOf [(2, uniform 0x77)]) 1)
    (fun _ w => w.threads[0].frec.map (fun r => (r.cause, r.addr)) == some (0x02, 0x1000) && w.threads[0].epc == 0) = true := by decide
theorem test_movsp_epc : gives (.movsp { z with s := true, b := 2, mod := 0x45 }) (machine trusted 1) (fun _ w => w.threads[0].epc == 0x77 && w.threads[0].pc == 0x1008) = true := by decide
theorem test_rte : gives (.rte { z with s := true }) (machine { trusted with handler := 3 } 3)
    (fun _ w => w.handler == 0 && w.threads[0].pc == 0x2000 && w.threads[0].privl == false) = true := by decide
theorem test_movs_tid : gives (.movsRead { z with d := 9 }) (machine { warpOf [] with widx := 2 } 2) (fun _ w => w.regs[9].get 1 == 65) = true := by decide
theorem test_movs_write_fsr : gives (.movsWrite { z with s := true, b := 2, mod := 0x0F }) (machine (warpOf [(2, uniform 0xFFFFFFFFFFFFFFFF)]) 1)
    (fun _ w => w.threads[0].fsr &&& 0x00081F1F == 0x1F1F) = true := by decide

theorem witness_TrapsAndPrivilegeFaults :
    (∃ (x : Ext) (s : State), Meets x s fun c => c.act ≠ 0 ∧ ∀ k : Fin 32, c.act.getLsbD k = true → c.w.threads[k].st ≠ .parked) ∧
    ∃ (x : Ext) (s : State), Instr.rte x ∈ [Instr.rte x, .movsp x, .logrec x, .cntcfgSel x, .cntcfgClr x, .cntcfgFrz x, .cntcfgRun x, .tlbinvVa x, .tlbinvAll x] ∧
      (0x40 ≤ ({ x with mod := 0x40 } : Ext).m 23 7) ∧
      Meets x s fun c => (∃ k : Fin 32, c.set.getLsbD k = true ∧ c.w.threads[k].privl = false) ∧ ∀ k : Fin 32, c.set.getLsbD k = true → c.w.threads[k].st ≠ .parked := by
  refine ⟨⟨onSystem, machine (warpOf []) 1, ?_⟩, onSystem, machine { trusted with threads := trusted.threads.set 1 (Thread.start 0x1000) } 3, by simp, by decide, ?_⟩ <;>
  exact Meets.of _ _ _ (by decide)

theorem witness_PrivilegedResults : ∃ (x : Ext) (s : State), x.m 23 7 = 0x45 ∧ s.trace.en = true ∧ s.trace.queue.length < 64 ∧ s.mem.reqs = [] ∧ ({ x with mod := 0x47 } : Ext).m 23 7 = 0x47 ∧
    Meets x s fun c => Mask.lowest c.act = some 0 ∧ (∀ k : Fin 32, c.set.getLsbD k = true → c.w.threads[k].privl = true) ∧ c.w.doomed = false ∧
      (∀ k : Fin 32, c.act.getLsbD k = true → s.timePasses c.w.threads[k].farH = true) ∧ ∀ k : Fin 32, c.set.getLsbD k = true → c.w.threads[k].lateRec = none := by
  refine ⟨{ onSystem with mod := 0x45 }, { machine trusted 0xFFFFFFFF with trace := { State.reset.trace with en := true } }, by decide, rfl, by decide, rfl, by decide, ?_⟩
  exact Meets.of _ _ _ (by decide)

theorem witness_SpecialRegisterResults :
    (∃ (x : Ext) (s : State), x.m 23 7 = 0x11 ∧ Meets x s fun c => Fits c s x.d 32) ∧
    (∃ (x : Ext) (s : State), x.m 23 7 = 0x0A ∧ Meets x s fun c => c.act ≠ 0 ∧ Fits c s x.d 32) ∧
    ∃ (x : Ext) (s : State), x.m 23 7 = 0x40 ∧ Meets x s fun c => Fits c s x.d 32 ∧ ∀ k : Fin 32, c.set.getLsbD k = true → c.w.threads[k].privl = true := by
  refine ⟨⟨{ onSystem with mod := 0x11 }, machine (warpOf []) 1, by decide, ?_⟩, ⟨{ onSystem with mod := 0x0A }, machine (warpOf []) 1, by decide, ?_⟩, { onSystem with mod := 0x40 }, machine trusted 3, by decide, ?_⟩ <;>
  · unfold Fits
    exact Meets.of _ _ _ (by decide)

/-- A thread parked with a cause, and a warp in which thread 0 is parked and all others have stopped. -/
def parkedBy (cause : Nat) : Thread :=
  { Thread.start 0x1000 with st := .parked, resume := 0x1008, frec := some { cause := cause, late := false, decode := false, privl := false, warp := 0, lane := 0, ordinal := 0, offset := 0, mask := 1, addr := 0, time := 0 } }
def stoppedAt (cause : Nat) : Warp := { warpOf [] with threads := (Vector.replicate 32 (Thread.start 0x1000)).set 0 (parkedBy cause), stopped := 0xFFFFFFFE }
/-- Launch 5 with a handler at 0x80 for causes 0x06 and 0x0D. -/
def trapping : Launch := { lch with traps := ((List.replicate 32 { action := 0, handler := 0 }).set 6 { action := 1, handler := 0x80 }).set 13 { action := 1, handler := 0x80 } }
def overflowing : Launch := { trapping with traps := trapping.traps.set 12 { action := 2, handler := 0 } }

theorem test_handler_entered : leads (.warpTrapAction 0) (machine (stoppedAt 6) 1 grp trapping)
    (fun t => match t.warp? 0 with
      | some w => w.tentry == 6 && w.handler == 0xFFFFFFFF && w.threads[0].pc == 0x1080 && w.threads[0].epc == 0x1008 && w.threads[0].tcause == 6 && w.threads[1].epc == 0x1000
          && w.threads[1].tcause == 0 && w.threads[1].privl
      | none => false) = true := by decide
theorem test_launch_halts : leads (.warpTrapAction 0) (machine (stoppedAt 3) 1 grp trapping) (fun t => (t.launch? 5).map (fun l => (l.status, l.cause)) == some (3, 3)) = true := by decide

theorem witness_HandlersAreEntered :
    (∃ (s : State) (w : Warp) (g : Group) (l : Launch), s.warp? 0 = some w ∧ s.group? w.gid = some g ∧ s.launch? g.launch = some l ∧ l.status ≠ 3 ∧ w.handler = 0 ∧ w.settled = true ∧
      leastOf (((w.records (BitVec.allOnes 32)).filter fun r => l.actionOf r == 0).map (·.cause)) = some 3 ∧ g.launch < 2 ^ 64 ∧ l.status = 0) ∧
    (∃ (s : State) (w : Warp) (g : Group) (l : Launch), s.warp? 0 = some w ∧ s.group? w.gid = some g ∧ s.launch? g.launch = some l ∧ l.status ≠ 3 ∧ w.handler = 0 ∧ w.settled = true ∧
      (∀ r, r ∈ w.records (BitVec.allOnes 32) → l.actionOf r ≠ 0) ∧ leastOf (((w.records (BitVec.allOnes 32)).filter fun r => l.actionOf r == 1).map (·.cause)) = some 6 ∧
      w.stopped &&& w.which Thread.isParked = 0 ∧ w.stopped ≠ 0) ∧
    (∃ (s : State) (w : Warp) (g : Group) (l : Launch), s.warp? 0 = some w ∧ s.group? w.gid = some g ∧ s.launch? g.launch = some l ∧ l.status ≠ 3 ∧ w.handler = 0 ∧ w.settled = true ∧
      w.timerDue s.ns = true ∧ w.anyParked = false ∧ w.stopped ≠ 0 ∧ (l.trap 0x0D).action = 1) ∧
    (∃ (s : State) (w : Warp) (g : Group) (l : Launch), s.warp? 0 = some w ∧ s.group? w.gid = some g ∧ s.launch? g.launch = some l ∧ l.status ≠ 3 ∧ w.handler = 0 ∧ w.settled = true ∧
      w.timerDue s.ns = true ∧ w.anyParked = true ∧ g.mode = .saving 0 ∧ (∀ r, r ∈ w.records (BitVec.allOnes 32) → l.actionOf r = 2) ∧ w.stopped ≠ 0 ∧
      w.stopped &&& w.which Thread.isParked = 0 ∧ (l.trap 0x0D).action = 1) ∧
    ∃ (s : State), s.runsOf (5 : Word).toNat = [(5 : Word).toNat] ∧ s.orderingStuck (5 : Word).toNat = some 1 :=
  ⟨⟨machine (stoppedAt 3) 1 grp trapping, stoppedAt 3, grp, trapping, by decide⟩, ⟨machine (stoppedAt 6) 1 grp trapping, stoppedAt 6, grp, trapping, by decide⟩,
    ⟨{ machine { warpOf [] with stopped := 0xFFFFFFFF, tmr := 1 } 1 grp trapping with clock := { State.reset.clock with ticks := 21 } }, { warpOf [] with stopped := 0xFFFFFFFF, tmr := 1 }, grp, trapping, by decide⟩,
    ⟨{ machine { stoppedAt 0x0C with tmr := 1 } 1 { grp with mode := .saving 0 } overflowing with clock := { State.reset.clock with ticks := 21 } }, { stoppedAt 0x0C with tmr := 1 },
      { grp with mode := .saving 0 }, overflowing, by decide⟩,
    { machine { warpOf [] with threads := Vector.replicate 32 { Thread.start 0x1000 with st := .waiting (.buffer false) 0x1008 } } 1 grp (ordered 1) with clock := { State.reset.clock with ticks := 21 * 10 ^ 9 } },
    by decide, by decide⟩

/-! ### The page engines -/

/-- A full page of list 0 in HBM, cold enough for an Ebb to look at. -/
def cold : Desc := { page with list := 0, valid := 32, age := 8, mass := 0x50, dep := 0, fmt := 0 }
/-- Page 40 alone, with its Ebb's pass at its start. -/
def lone (d : Desc) (f : PageSys → PageSys := id) : State :=
  let s := machine (warpOf []) 1
  { s with pages := f { s.pages with descs := [(40, d)], passes := Vector.replicate 4 (some 0), poolBase := 0, sumBase := 0x6100000000 } }
def rw40 : Rewrite := { lpn := 40, ver := 5, valid := 32, fmt := 1, scale := 3, tier := 0, addr := 0x100, units := 16, bytes := 4096, slot := some 2, hatch := false, defer := false, op := none }

theorem findRun_isSome (s : State) (tier bytes : Nat) (h : tier ≠ 0) (hf : s.runFree tier (s.tierRange tier).1 (unitsOf bytes) = true) : ∃ a, s.findRun tier bytes = some a :=
  findRun_some s tier bytes (fun q => h q.1) (by simp [hf])

/-- R322: a swap with the version and the count it noted, and one whose page has grown. -/
theorem test_swap : leads (.ebbSwap 40) (lone cold fun p => { p with rewrites := [rw40] })
    (fun t => (t.desc 40).fmt == 1 && (t.desc 40).ver == 6 && (t.desc 40).scale == 3 && (t.desc 40).sumIdx == 2 && t.pages.rewrites == []) = true := by decide
theorem test_swap_abandoned : leads (.ebbSwap 40) (lone cold fun p => { p with rewrites := [{ rw40 with valid := 31 }] })
    (fun t => (t.desc 40).fmt == 0 && (t.desc 40).ver == 5 && t.pages.rewrites == []) = true := by decide
theorem test_visit_passes_over : leads (.ebbVisit 40) (lone { cold with age := 7 }) (fun t => t.pages.passes[0] == some 41 && t.desc 40 == { cold with age := 7 }) = true := by decide
theorem test_fetch_fails_twice : leads (.hatchFetch 40 false) (lone { cold with tier := 2 } fun p => { p with wanted := [40], fails := [(40, 1)] }) (fun t => (t.desc 40).lost) = true := by decide
theorem test_ebb_decides : (lone cold).ebbDecide 40 = some (.rewrite 1) ∧ (lone { cold with fmt := 3, mass := 0 }).ebbDecide 40 = some (.move 1) := by decide

theorem packed_size (q : Nat) (f : Nat → Nat) (hf : ∀ k, f k ≤ 8) (x : BitVec 8) (h0 : 0 < f 0) (hq : q < 256) :
    0 < ({ tag := BitVec.ofNat 32 (2 ^ 30 + q * 2 ^ 16 + ((List.range 4).map fun k => f k * 16 ^ k).sum), xor := x, ref := 0, ecc := false } : RawLine).size := by
  have h := hf 0; have h1 := hf 1; have h2 := hf 2; have h3 := hf 3
  have hs : ((List.range 4).map fun k => f k * 16 ^ k).sum = f 0 + f 1 * 16 + f 2 * 256 + f 3 * 4096 := by simp [List.range_succ]; omega
  have ht : (BitVec.ofNat 32 (2 ^ 30 + q * 2 ^ 16 + (f 0 + f 1 * 16 + f 2 * 256 + f 3 * 4096))).toNat = 2 ^ 30 + q * 2 ^ 16 + (f 0 + f 1 * 16 + f 2 * 256 + f 3 * 4096) := by
    rw [BitVec.toNat_ofNat]; omega
  unfold RawLine.size RawLine.mode RawLine.len
  rw [hs]
  dsimp only
  rw [ht, show (2 ^ 30 + q * 2 ^ 16 + (f 0 + f 1 * 16 + f 2 * 256 + f 3 * 4096)) / 2 ^ 30 = 1 by omega]
  simp [List.range_succ]
  omega

/-- R221: a line that is written with something but zeros takes raw storage, and the codec's choice for it leaves the other lines alone. -/
theorem encode_size (m : MemSys) (line : Nat) (hs : (m.raw.filter fun e => e.2.mode == 2 && e.2.ref == 128 * line) = [])
    (hc : (((m.hbm.bytes (128 * line) 128).drop 0).take 32).all (· == 0) = false) (ha : (m.hbm.bytes (128 * line) 128).all (· == 0) = false) :
    0 < ((m.encode line).rawOf line).size ∧ ∀ l, l ≠ line → (m.encode line).rawOf l = m.rawOf l := by
  have hu : m.unshare line = m := by unfold MemSys.unshare; rw [hs]
  have hr : (m.encode line).raw = if Config.codecChoice m.uses % 4 = 1 then Sparse.insert m.raw line (packedLine (m.hbm.bytes (128 * line) 128) (Config.codecChoice m.uses / 4)) else Sparse.erase m.raw line := by
    unfold MemSys.encode
    simp only [hu, ha, Bool.false_eq_true, and_false, if_false]
    rfl
  unfold MemSys.rawOf
  rw [hr]
  generalize Config.codecChoice m.uses = c
  split
  · refine ⟨?_, fun l hl => by rw [Sparse.find_insert_ne _ _ hl]⟩
    rw [Sparse.find_insert_self, Option.getD_some]
    exact packed_size (c / 4 / 2 ^ 12 % 256) (fun k => if (((m.hbm.bytes (128 * line) 128).drop (32 * k)).take 32).all (· == 0) then 0 else 1 + c / 4 / 8 ^ k % 8)
      (fun k => by
        have := Nat.mod_lt (c / 4 / 8 ^ k) (show 0 < 8 by decide)
        show (if _ then _ else _) ≤ 8
        split
        · exact Nat.zero_le _
        · exact Nat.add_le_of_le_sub' (by decide) (Nat.le_of_lt_succ this)) _ (by simp only [Nat.mul_zero, hc, Bool.false_eq_true, if_false]; omega) (Nat.mod_lt _ (by decide))
  · refine ⟨?_, fun l hl => ?_⟩
    · simp [Sparse.find_erase, RawLine.size, RawLine.mode, RawLine.init]
    · rw [Sparse.find_erase, if_neg hl]

/-- A store to a line of a full page that was stored as a zero line, in a machine without raw storage left. -/
def zeroLine : RawLine := { RawLine.init with tag := BitVec.ofNat 32 (3 * 2 ^ 30) }
def packedPage : Desc := { cold with fmt := 3, packed := true, addr := 0x80 }
def pressing : State :=
  let s := lone packedPage fun p => { p with poolBack := 0 }
  { s with mem := { s.mem with reqs := [request .store], raw := [(256, zeroLine)] } }
def arrivedLine (s : State) (bs : List Byte) : MemSys := ((((s.noteYoung .hbm 0x8000 bs.length).touchHome .hbm 0x8000 0 true)).rawWrite .hbm 0x8000 bs).mem

/-- A write to the line, once its bytes are there, encodes it. -/
theorem performWrite_raw (s : State) (bs : List Byte) (st : Stamp) (h : bs ≠ [])
    (hw : (((s.noteYoung .hbm 0x8000 bs.length).touchHome .hbm 0x8000 0 true).lineBad .hbm 0x8000).isNone = true) :
    (s.performWrite .hbm 0x8000 bs st).mem.raw = ((arrivedLine s bs).encode 256).raw := by
  unfold State.performWrite
  rw [if_neg h]
  dsimp only
  rw [if_pos (show Target.hbm.homed = true from rfl)]
  unfold State.write
  dsimp only
  rw [if_pos (.inl hw)]
  rfl

/-- The line then takes raw storage, so the page that held 2,048 bytes holds more. -/
theorem pressing_charge (s t : State) (bs : List Byte) (hp : t.pages = pressing.pages) (hr : t.mem.raw = ((arrivedLine s bs).encode 256).raw)
    (ha : (arrivedLine s bs).raw = [(256, zeroLine)]) (he : 0 < (((arrivedLine s bs).encode 256).rawOf 256).size ∧ ∀ l, l ≠ 256 → ((arrivedLine s bs).encode 256).rawOf l = (arrivedLine s bs).rawOf l) :
    2048 < t.poolCharge := by
  have hc : ∀ m : MemSys, (∀ l, l ≠ 256 → m.rawOf l = RawLine.init) → ((List.range 17).map fun k => (m.rawOf (0x80 * 2 + k)).size).sum = (m.rawOf 256).size + 2048 := by
    intro m h
    rw [show List.range 17 = 0 :: (List.range 16).map (· + 1) from rfl, List.map_cons, List.sum_cons, List.map_map,
      List.map_congr_left (g := fun _ => 128) fun k _ => by show (m.rawOf (0x80 * 2 + (k + 1))).size = 128; rw [h _ (by omega)]; rfl]
    rfl
  have hs : ∀ l, l ≠ 256 → (arrivedLine s bs).rawOf l = RawLine.init := by
    intro l hl
    unfold MemSys.rawOf
    rw [ha]
    simp [Sparse.find, hl]
  have hm : ∀ l, t.mem.rawOf l = ((arrivedLine s bs).encode 256).rawOf l := fun l => by unfold MemSys.rawOf; rw [hr]
  have h1 : t.poolCharge = (((arrivedLine s bs).encode 256).rawOf 256).size + 2048 := by
    apply poolCharge_one _ 0x80
    unfold State.poolCharges State.chargeOf State.codecCharge
    rw [hp]
    show [((0x80 : Nat), ((List.range 17).map fun k => (t.mem.rawOf (0x80 * 2 + k)).size).sum)] = _
    simp only [hm]
    rw [hc _ fun l hl => (he.2 l hl).trans (hs l hl)]
  have := he.1
  omega

theorem pressing_held : pressing.poolHeld (request .store) = true := by
  have he := encode_size (arrivedLine pressing access.data) 256 (by decide +kernel) (by decide +kernel) (by decide +kernel)
  have hp : pressing.performWriteReq (request .store) = pressing.performNow (request .store) := by
    unfold State.performWriteReq
    dsimp only
    rw [if_neg (by decide +kernel), if_neg (by decide +kernel), if_neg (by decide +kernel)]
  have hw : (pressing.performWrite .hbm 0x8000 access.data ((request .store).stamp access)).mem.raw = ((arrivedLine pressing access.data).encode 256).raw ∧
      (pressing.performWrite .hbm 0x8000 access.data ((request .store).stamp access)).pages = pressing.pages :=
    ⟨performWrite_raw _ _ _ (by decide) (by decide +kernel), State.pages_performWrite _ _ _ _ _ _⟩
  have hq : pressing.performNow (request .store) =
      (((pressing.performWrite .hbm 0x8000 access.data ((request .store).stamp access)).noteDone 1 (max pressing.ns (pressing.completion .hbm 0x8000))).setReq 3 fun o =>
        { o with accs := [access], stage := .performed pressing.ns (max pressing.ns (pressing.completion .hbm 0x8000)) [] [pressing.accRel (request .store) access] 0 }).reportTickets (request .store) := by
    have hn : pressing.noteRequest (request .store) = pressing := by
      show (match pressing.lineBad .hbm 0x8000, ReqKind.store with
        | some 4, _ => pressing.noteBad 256 4 (request .store).sectors | some _, .store => pressing | some k, _ => pressing.noteBad 256 k (request .store).sectors
        | none, _ => pressing) = pressing
      rw [show pressing.lineBad .hbm 0x8000 = none from by decide +kernel]
    have ho : pressing.writeOne (request .store) access = (pressing.performWrite .hbm 0x8000 access.data ((request .store).stamp access), access) := by
      show (if pressing.lineBad .hbm 0x8000 = some 4 ∧ access.n < 128 ∧ !(request .store).sluice then (pressing, access.read [])
        else (pressing.performWrite .hbm 0x8000 access.data ((request .store).stamp access), access)) = _
      rw [if_neg (by decide +kernel)]
    have h1 : pressing.performNow (request .store) =
        (((((pressing.noteRequest (request .store)).writeOne (request .store) access).1).noteDone 1 (max pressing.ns (pressing.completion .hbm 0x8000))).setReq 3 fun o =>
        { o with accs := [((pressing.noteRequest (request .store)).writeOne (request .store) access).2]
                 stage := .performed pressing.ns (max pressing.ns (pressing.completion .hbm 0x8000)) [] [pressing.accRel (request .store) access] 0 }).reportTickets (request .store) := rfl
    rw [h1, hn, ho]
  have hr : (pressing.performWriteReq (request .store)).mem.raw = ((arrivedLine pressing access.data).encode 256).raw ∧ (pressing.performWriteReq (request .store)).pages = pressing.pages := by
    rw [hp, hq]
    unfold State.noteDone
    split <;> exact hw
  have h0 : pressing.poolCharge = 2048 := by decide +kernel
  have h1 := pressing_charge pressing _ access.data hr.2 hr.1 (by decide +kernel) he
  unfold State.poolHeld State.poolShort
  rw [h0, show pressing.toPool (request .store) = true from by decide +kernel]
  exact decide_eq_true ⟨show 0 < _ by omega, h1⟩

theorem witness_PageEngineSteps :
    (∃ (s : State) (r : Rewrite), s.rewriteOf 40 = some r ∧ (s.desc 40).free = false ∧ s.retireRoom 40 = true ∧ r.hatch = false ∧ r.defer = false) ∧
    (∃ (s : State) (r : Rewrite), s.rewriteOf 40 = some r ∧ (s.desc 40).free = false ∧ s.retireRoom 40 = true ∧ r.hatch = true ∧ r.tier = 2) ∧
    (∃ (s : State), s.nextVisit (ebbOf 40) = some 40 ∧ s.actionRoom 40 = true ∧ (s.desc 40).ord = false ∧ s.mem.failed = [] ∧ s.ebbDecide 40 = none) ∧
    (∃ (s : State) (img : List Byte), s.nextVisit (ebbOf 40) = some 40 ∧ s.actionRoom 40 = true ∧ (s.desc 40).ord = false ∧ s.mem.failed = [] ∧ s.ebbDecide 40 = some (.rewrite 1) ∧
      (s.noteHeader 40).rewriteOf 40 = none ∧ (∃ addr, (s.noteHeader 40).findRun (s.desc 40).tier (imageBytes 1 (dimOf (s.desc 40).dim)) = some addr) ∧
      (s.noteHeader 40).imageRead (s.desc 40).tier (s.desc 40).addr (s.desc 40).bytes = .ok img) ∧
    (∃ (s : State) (img : List Byte), s.nextVisit (ebbOf 40) = some 40 ∧ s.actionRoom 40 = true ∧ (s.desc 40).ord = false ∧ s.mem.failed = [] ∧ s.ebbDecide 40 = some (.move 1) ∧
      (s.noteHeader 40).rewriteOf 40 = none ∧ (∃ addr, (s.noteHeader 40).findRun 1 (imageBytes (s.desc 40).fmt (dimOf (s.desc 40).dim)) = some addr) ∧
      (s.noteHeader 40).imageRead (s.desc 40).tier (s.desc 40).addr (s.desc 40).bytes = .ok img) ∧
    (∃ (s : State), s.underHand = some 40 ∧ s.pages.sweeping = false ∧ s.lpUse * 100 ≤ s.pages.wm.toNat % 2 ^ 8 * Config.lpBytes) ∧
    (∃ (s : State), s.underHand = some 40 ∧ s.pages.wm.toNat % 2 ^ 8 * Config.lpBytes < s.lpUse * 100 ∧ s.pages.sweeping = false ∧ (s.desc 40).tier = 1 ∧ (s.desc 40).ref = true) ∧
    (∃ (s : State) (img : List Byte), s.underHand = some 40 ∧ s.pages.wm.toNat % 2 ^ 8 * Config.lpBytes < s.lpUse * 100 ∧ s.pages.sweeping = false ∧ (s.desc 40).tier = 1 ∧ (s.desc 40).ref = false ∧
      (s.desc 40).pin = 0 ∧ (s.desc 40).hold = false ∧ (s.desc 40).rdr = 0 ∧ (s.desc 40).transit = false ∧ s.rewriteOf 40 = none ∧
      (∃ addr, s.findRun 2 (imageBytes (s.desc 40).fmt (dimOf (s.desc 40).dim)) = some addr) ∧ s.imageRead (s.desc 40).tier (s.desc 40).addr (s.desc 40).bytes = .ok img) ∧
    (∃ (s : State), s.underHand = some 40 ∧ s.pages.wm.toNat % 2 ^ 8 * Config.lpBytes < s.lpUse * 100 ∧ s.pages.sweeping = false ∧ (s.desc 40).tier ≠ 1) ∧
    (∃ (s : State) (img : List Byte), 40 ∈ s.pages.wanted ∧ (s.desc 40).tier = 2 ∧ (s.desc 40).lost = false ∧ s.retireRoom 40 = true ∧ (∀ e ∈ s.warps, ∀ i : Fin 32, e.2.threads[i].waits = none) ∧ (s.desc 40).rdr = 0 ∧ s.rewriteOf 40 = none ∧
      (∃ addr, s.findRun 1 (imageBytes (s.desc 40).fmt (dimOf (s.desc 40).dim)) = some addr) ∧ s.imageRead (s.desc 40).tier (s.desc 40).addr (s.desc 40).bytes = .ok img) ∧
    (∃ (s : State) (img : List Byte) (r : Request), s.pressed = some 40 ∧ s.rewriteOf 40 = none ∧ (∃ addr, s.findRun 1 (imageBytes (s.desc 40).fmt (dimOf (s.desc 40).dim)) = some addr) ∧
      s.imageRead (s.desc 40).tier (s.desc 40).addr (s.desc 40).bytes = .ok img ∧ s.retireRoom 40 = true ∧ r ∈ s.mem.reqs ∧ s.canPerform r = true ∧ s.poolHeld r = true ∧ (s.desc 40).tier = 0 ∧ (s.desc 40).rdr = 0 ∧ (s.desc 40).transit = false) ∧
    ∃ (s : State) (r : Request) (a : Access), s.mem.reqs = [r] ∧ r.accs = [a] ∧ s.toPool r = true ∧ s.canPerform r = true ∧ s.poolHeld r = false ∧ s.refusal r = none ∧ s.lineBad .hbm a.pa = none := by
  refine ⟨⟨lone cold fun p => { p with rewrites := [rw40] }, rw40, by decide⟩, ⟨lone cold fun p => { p with rewrites := [{ rw40 with hatch := true, tier := 2 }] }, { rw40 with hatch := true, tier := 2 }, by decide⟩,
    ⟨lone { cold with valid := 31 }, by decide⟩,
    ⟨lone { cold with tier := 1, addr := 0x1000 }, List.replicate 8192 0, by decide, by decide, by decide, by decide, by decide, by decide, findRun_isSome _ _ _ (by decide) (by decide), ?_⟩,
    ⟨lone { cold with fmt := 3, mass := 0 }, List.replicate 2176 0, by decide, by decide, by decide, by decide, by decide, by decide, findRun_isSome _ _ _ (by decide) (by decide), ?_⟩,
    ⟨lone { cold with tier := 1 }, by decide⟩, ⟨lone { cold with tier := 1, ref := true } fun p => { p with wm := 0 }, by decide⟩,
    ⟨lone { cold with tier := 1, fmt := 3 } fun p => { p with wm := 0 }, List.replicate 2176 0, by decide, by decide, by decide, by decide, by decide, by decide, by decide, by decide, by decide, by decide,
      findRun_isSome _ _ _ (by decide) (by decide), ?_⟩,
    ⟨lone cold fun p => { p with wm := 0, retire := [{ lpn := 9, ver := 0, count := 1, tier := 1, addr := 0, units := 1, bytes := 256, packed := false, slot := 0 }] }, by decide⟩,
    ⟨lone { cold with tier := 2, fmt := 3 } fun p => { p with wanted := [40] }, List.replicate 2176 0, by decide, by decide, by decide, by decide, by decide, by decide, by decide, findRun_isSome _ _ _ (by decide) (by decide), ?_⟩,
    ⟨pressing, List.replicate 2176 0, request .store, by decide, by decide, findRun_isSome _ _ _ (by decide) (by decide), ?_, by decide, List.mem_singleton.mpr rfl, ?_, pressing_held, by decide, by decide,
      by decide⟩,
    let s := lone { cold with fmt := 3, valid := 31 }; { s with mem := { s.mem with reqs := [request .store] } }, request .store, access, by decide⟩
  all_goals decide +kernel

/-! ### The scheduler and the commit of a step -/

/-- A launch queue whose base is 0x8000, of four records, with one post from the host at its head. -/
def hostPost : Posted :=
  { ident := 0x00FF000000000007, recVa := 0x8000, host := true, callg := false, queue := some 0, arrived := true, core := 0, parent := none, poster := none, prio := 0
    objVa := 0, dataVa := 0, dataPa := 0, after := 0, cut := 0, lanes := none, cancelled := false }
def queue0 : LaunchQueue := { State.reset.sched.lq[0] with en := true, base := 0x8000, log2 := 4 }
/-- A launch record at 0x8000 of one group of kernel 0 of the code object at 0x8100, whose kernel runs one warp, is no stage and has code at 0x8400. -/
def record : List Byte := bytesOfNat 12 0x8100 ++ bytesOfNat 4 1 ++ List.replicate 112 0
def codeObject : List Byte :=
  bytesOfNat 8 0x00000001434A5946 ++ bytesOfNat 8 0x400000300 ++ List.replicate 16 0 ++ bytesOfNat 8 0x2000000100 ++ bytesOfNat 8 0x100000200 ++ List.replicate 8 0 ++
  bytesOfNat 8 0x100000040 ++ bytesOfNat 12 0x10000000000000000 ++ bytesOfNat 12 224 ++ bytesOfNat 8 2048 ++ bytesOfNat 4 0xFF ++ List.replicate 156 0
def posting (r : List Byte) (obj : List Byte) : State :=
  let s := machine (warpOf []) 1
  { s with sched := { s.sched with lq := s.sched.lq.set 0 queue0, posted := [hostPost] }
           mem := { s.mem with hbm := Memory.setBytes (Memory.setBytes [] 0x8000 r) 0x8100 obj } }
/-- The record with a dependence that asks the 8 bytes at 0x8FF0 for 1, and with a field that must be zero. -/
def waitingRecord : List Byte := record.take 0x40 ++ bytesOfNat 8 0x8FF0 ++ bytesOfNat 8 1 ++ record.drop 0x50
def badRecord : List Byte := record.take 0x3C ++ bytesOfNat 4 1 ++ record.drop 0x40

def verdict : Judged → Nat | .wait => 0 | .fail => 1 | .admitted _ _ _ _ => 2
theorem judged_wait (j : Judged) (h : verdict j = 0) : j = .wait := by cases j <;> first | rfl | exact absurd h (by decide) | exact absurd h (Nat.succ_ne_zero _)
theorem judged_fail (j : Judged) (h : verdict j = 1) : j = .fail := by cases j <;> first | rfl | (simp [verdict] at h)
theorem judged_admitted (j : Judged) (h : verdict j = 2) : ∃ l d c q, j = .admitted l d c q := by cases j <;> first | exact ⟨_, _, _, _, rfl⟩ | (simp [verdict] at h)

/-- R357 to R360: what admission makes of the record; R366, R95: the dispatch of a group. -/
theorem test_admission : (match (posting record codeObject).judge hostPost record with
    | .admitted l _ _ _ => l.status == 0 && l.groups == 1 && l.codeVa == 0x8400 && l.kern.warps == 1 && l.kern.quota == 224 && l.prio == 0 && l.constSize == 4161
    | _ => false) = true := by decide +kernel
theorem test_dispatch : leads .groupDispatch { machine (warpOf []) 1 grp { lch with kern := { kern with warps := 2, accCount := 0, quota := 200 }, groups := 3, next := 1, ident := 0x00FF000000000005 } with fresh := 50 }
    (fun t => (t.group? 50).map (fun g => (g.launch, g.index, g.core, g.warpsLeft)) == some (5, 1, 0, 2) && ((t.warp? 1).map (fun w => (w.gid, w.widx, w.threads[7].pc))) == some (50, 0, 0x1000)) = true := by decide +kernel
/-- R356: a doorbell that runs past the queue is refused. -/
theorem test_doorbell_refused : leads (.lqTailDoorbell 0 17) (posting record codeObject) (fun t => t.sched.lq[0].err && t.sched.lq[0].tail == 0) = true := by decide

/-- A launch whose group waits for core 0, the only core that is not fenced off, where group 1 holds the accumulators. -/
def crowded : State :=
  let s := machine (warpOf []) 1 grp { lch with kern := kern, groups := 1, next := 1, runtimes := [100], ident := 5 }
  { s with launches := s.launches ++ [(6, { lch with kern := kern, groups := 1, next := 0, prio := 9, lam := 100, ident := 0x00FF000000000006 })]
           steps := { s.steps with fence0 := 0xFFFFFFFFFFFFFFFE, fence1 := 0xFFFFFFFFFFFFFFFF } }

theorem chosen (s : State) (h : (match s.choose with | some (key, l, i, [_]) => decide (l.kern.crew ≤ 1) && (s.groupAt key i).isNone | _ => false) = true) :
    ∃ key l i core, s.choose = some (key, l, i, [core]) ∧ l.kern.crew ≤ 1 ∧ s.groupAt key i = none := by
  split at h
  · rename_i key l i core hc
    rw [Bool.and_eq_true, decide_eq_true_eq, Option.isNone_iff_eq_none] at h
    exact ⟨key, l, i, core, hc, h⟩
  · exact absurd h (by decide)

/-- R371: draining that costs nothing and ends in time is chosen, whatever a save would cost. -/
theorem drain_chosen (s : State) (gid t : Nat) (g : Group) (l : Launch) (lam : Option Nat) (hg : s.group? gid = some g) (hl : s.launch? g.launch = some l)
    (ht : s.methodOf .drain gid = some (t, 0)) (hb : ∀ b, lam = some b → t ≤ b * l.grain) : s.chooseMethod [gid] lam = .drain := by
  have hu : s.methodUnit .drain [gid] = some (t, 0) := by simp [State.methodUnit, ht]
  cases lam with
  | none => simp only [State.chooseMethod, List.filterMap_cons, hu, if_true, List.foldl_cons]; rw [List.foldl_fixed' fun _ => if_neg (Nat.not_lt_zero _)]
  | some b => simp only [State.chooseMethod, List.head?_cons, Option.bind_some, hg, hl, List.filterMap_cons, hu, hb b rfl, decide_true, if_true, List.foldl_cons]; rw [List.foldl_fixed' fun _ => if_neg (Nat.not_lt_zero _)]

/-- A stage with a target, whose input queue is empty when it falls. -/
def staging : Launch := { lch with kern := { kern with stage := some 0 }, target := 1, groups := 4, runtimes := [1] }
def falling : State :=
  let s := machine (warpOf []) 1 grp { staging with target := 2, inQueue := some 1 }
  { s with clock := { State.reset.clock with ticks := 21 * 10 ^ 5 }
           sched := { s.sched with stageQs := [(1, { tag := 0, queue := some 0, stage := 0, launch := 4, pa := 0x100000, entries := 2, bytes := 32, head := 0, count := 0, used := false })] } }

theorem witness_SchedulerSteps :
    (∃ (s : State) (q : Fin 64) (tail : BitVec 32), s.firm.running = true ∧ let lq := s.sched.lq[q]
      2 ^ lq.log2 < (tail - lq.head).toNat ∨ 2 ^ 31 ≤ (tail - lq.tail).toNat) ∧
    (∃ (s : State) (q : Fin 64) (tail : BitVec 32), s.firm.running = true ∧ let lq := s.sched.lq[q]
      (tail - lq.head).toNat ≤ 2 ^ lq.log2 ∧ (tail - lq.tail).toNat < 2 ^ 31 ∧ tail ≠ lq.tail) ∧
    (∀ v, v < 3 → ∃ (s : State) (p : Posted) (r : List Byte), s.firm.running = true ∧ s.sched.posted = [p] ∧ p.arrived = true ∧ p.host = true ∧ p.callg = false ∧ p.queue = some 0 ∧ p.poster = none ∧
      p.cancelled = false ∧ s.sched.lq[0].en = true ∧ s.devRead (s.sched.lq[0].base + BitVec.ofNat 64 (128 * (s.sched.lq[0].head.toNat % 2 ^ s.sched.lq[0].log2))) 128 = some r ∧
      verdict (s.judge p r) = v) ∧
    (∃ (s : State), s.firm.running = true ∧ (∀ o, o ∈ s.ops → o.gid ≠ s.fresh) ∧ let s0 := s.spawnSamples
      ∃ key l i core, s0.choose = some (key, l, i, [core]) ∧ l.kern.crew ≤ 1 ∧ s0.groupAt key i = none) ∧
    (∃ (s : State), s.firm.running = true ∧ s.spawnSamples.choose = none) ∧
    (∃ (s : State) (l : Launch), s.firm.running = true ∧ s.launch? (5 : Word).toNat = some l ∧ s.runsOf (5 : Word).toNat = [(5 : Word).toNat] ∧ s.runOver (5 : Word).toNat l = false) ∧
    (∃ (s : State) (l : Launch), s.firm.running = true ∧ s.launch? (5 : Word).toNat = some l ∧ s.runsOf (5 : Word).toNat = [(5 : Word).toNat] ∧ l.status = 0 ∧ l.cancelled = false ∧ l.resumes = [] ∧
      s.runOver (5 : Word).toNat l = true ∧ s.writesOut (5 : Word).toNat = true ∧ s.steps.run = none ∧ l.compl = 0 ∧ s.resolve (l.recVa + 0x38) .write = .ok (.hbm, 0x8038) ∧ s.lineBad .hbm 0x8038 = none) ∧
    (∃ (s : State), s.firm.running = true ∧ s.going = [] ∧ ∀ key l i, s.launch? key = some l → s.nextIndex key l = some i → (s.placeFor key l i).isSome = true) ∧
    (∃ (s : State) (ls : Sparse Launch) (l : Launch) (g : Group), s.firm.running = true ∧ s.going = [] ∧ s.launches = ls ++ [(6, l)] ∧ (∀ e, e ∈ ls → e.1 ≠ 6 ∧ ∀ q, s.launch? e.1 = some q → s.nextIndex e.1 q = none) ∧
      s.nextIndex 6 l = some 0 ∧ s.placeFor 6 l 0 = none ∧ (∀ n, n ∈ l.unitAt 0 → n ∉ s.savedIndices 6) ∧ 0 < l.lam ∧ s.group? 1 = some g ∧
      s.victimsFor 6 l 0 (fun _ _ v => decide (v.prio < l.prio)) = some [[1]] ∧ s.chooseMethod [1] (some l.lam) = .drain) ∧
    (∃ (s : State), s.firm.running = true ∧ s.ns < s.sched.lastAdjust + 100000) ∧
    (∃ (s : State) (l : Launch), s.firm.running = true ∧ s.sched.lastAdjust + 100000 ≤ s.ns ∧ s.launches = [(5, l)] ∧ l.kern.stage.isSome = true ∧ l.status = 0 ∧
      l.target ≤ min (l.target + 1) l.groups) ∧
    ∃ (s : State) (l : Launch) (g : Group), s.firm.running = true ∧ s.sched.lastAdjust + 100000 ≤ s.ns ∧ s.launches = [(5, l)] ∧ l.kern.stage.isSome = true ∧ l.status = 0 ∧
      (let fi := s.fill l.inQueue
       let fo := s.fill l.outQueue
       ¬ (3 * fi.2 ≤ 4 * fi.1 ∧ 4 * fo.1 ≤ fo.2) ∧ (4 * fi.1 ≤ fi.2 ∨ 3 * fo.2 ≤ 4 * fo.1) ∧ max (l.target - 1) 1 < l.target) ∧ (1, g) ∈ s.residentOf 5 ∧ s.group? 1 = some g ∧
      g.mode = .resident ∧ (∀ e, e ∈ s.residentOf 5 → e.2.mode = .resident → e = (1, g) ∨ e.2.index < g.index) ∧ s.presentUnit 1 = [1] ∧ s.chooseMethod [1] none = .drain := by
  refine ⟨⟨posting record codeObject, 0, 17, rfl, Or.inl (by decide)⟩, ⟨posting record codeObject, 0, 16, rfl, by decide, by decide, by decide⟩, ?_,
    ⟨machine (warpOf []) 1 grp { lch with kern := { kern with accCount := 0 }, groups := 3, next := 1, ident := 0x00FF000000000005 }, rfl, by decide, ?_⟩,
    ⟨State.reset, rfl, by decide⟩,
    ⟨machine (warpOf []) 1, lch, rfl, by decide⟩,
    ⟨machine (warpOf []) 1 { grp with mode := .retired } { lch with retired := 1, groups := 1, recVa := 0x8000 }, { lch with retired := 1, groups := 1, recVa := 0x8000 }, rfl, by decide +kernel, by decide +kernel, by decide +kernel, by decide +kernel,
      by decide +kernel, by decide +kernel, by decide +kernel, by decide +kernel, by decide +kernel, by decide +kernel, by decide +kernel⟩,
    ⟨State.reset, rfl, by decide, fun _ _ _ h => absurd h (by simp [State.launch?, Sparse.find, State.reset])⟩,
    ⟨crowded, [(5, { lch with kern := kern, groups := 1, next := 1, runtimes := [100], ident := 5 })], { lch with kern := kern, groups := 1, next := 0, prio := 9, lam := 100, ident := 0x00FF000000000006 }, grp,
      rfl, by decide, rfl, ?_, by decide +kernel, by decide +kernel, by decide, by decide, by decide, by decide +kernel, drain_chosen _ 1 _ _ _ _ rfl rfl rfl fun b hb => by cases hb; decide⟩,
    ⟨State.reset, rfl, by decide⟩,
    ⟨{ machine (warpOf []) 1 grp staging with clock := { State.reset.clock with ticks := 21 * 10 ^ 5 } }, staging, rfl, by decide, rfl, rfl, rfl, by decide⟩,
    falling, { staging with target := 2, inQueue := some 1 }, grp, rfl, by decide, rfl, rfl, rfl, by decide, by decide, by decide, by decide, by decide, by decide,
      drain_chosen _ 1 _ _ _ none rfl rfl rfl nofun⟩
  · intro v hv
    rcases v with _ | _ | _ | v
    · exact ⟨posting waitingRecord codeObject, hostPost, waitingRecord, rfl, rfl, rfl, rfl, rfl, rfl, rfl, rfl, by decide, by decide +kernel, by decide +kernel⟩
    · exact ⟨posting badRecord codeObject, hostPost, badRecord, rfl, rfl, rfl, rfl, rfl, rfl, rfl, rfl, by decide, by decide +kernel, by decide +kernel⟩
    · exact ⟨posting record codeObject, hostPost, record, rfl, rfl, rfl, rfl, rfl, rfl, rfl, rfl, by decide, by decide +kernel, by decide +kernel⟩
    · omega
  · exact chosen _ (by decide +kernel)
  · intro e he
    rw [List.mem_singleton] at he
    subst he
    refine ⟨by decide, fun q hq => ?_⟩
    cases hq
    decide
/-! ### Commits -/

/-- A strict launch whose group 1 has staged one store of thread 0, and the commit that performs it. -/
def strict : Launch := ordered 2
def stagedStore : Staged :=
  { warp := 0, lane := 0, seq := 0, kind := .store, mask := 0xFF, va := 0x8000, tgt := .hbm, pa := 0x8000, data := 0x1122334455667788, core := 0, order := 0, near := false, epoch := 0, engine := false, step := 0, prov := false
    hint := 0, act := 1, pc := 0x1000, ticket := none, at_ := 0 }
def run (phase : Nat) (w : Warp := warpOf []) (l : Launch := strict) : State :=
  let s := machine w 1 { grp with staged := [stagedStore] } l
  { s with steps := { s.steps with run := some { n := 7, phase := phase, parts := [5], checked := [(5, 0)], sampled := [], doneAt := 0 } } }
/-- Thread 0 waits for the default step count. -/
def stepper : Warp := { warpOf [] with threads := (Vector.replicate 32 (Thread.start 0x1000)).set 0 { Thread.start 0x1000 with st := .waiting (.step false 0 (some 4)) 0x1008 } }

theorem test_commit_performs : leads .commit (run 3) (fun t => t.mem.hbm.bytes 0x8000 8 == bytesOfNat 8 0x1122334455667788 && (t.group? 1).map (·.staged) == some []) = true := by decide
/-- R317, its example: with THR_DEC's shift of 3, MASS 0x0102 and DEP 0x10 give 0x00F2. -/
theorem test_commit_decays_mass : leads .commit (let s := run 5; { s with pages := { s.pages with descs := [(40, { page with mass := 0x0102, dep := 0x10 })] } })
    (fun t => (t.desc 40).mass == 0x00F2 && (t.desc 40).dep == 0) = true := by decide
theorem test_commit_wakes : leads .commit (run 7 stepper) (fun t => match t.warp? 0 with | some w => w.threads[0].st == .ready && w.threads[0].pc == 0x1008 && w.regs[4].get 0 == 7 && t.steps.stepNum == 1 | none => false) = true := by decide

theorem stepper_waits (k : Fin 32) (n : Nat) (d : Option (BitVec 6)) : stepper.threads[k].waits ≠ some (.step true n d) := by
  have h : ∀ k : Fin 32, (match stepper.threads[k].waits with | some (.step true _ _) => true | _ => false) = false := by decide
  intro he
  have h2 := h k
  rw [he] at h2
  cases h2

/-- A page of the pool whose image fills what the pool has, and the store above to it; and an operation that can still go on. -/
def storeAccess : Access := { lane := 0, va := 0x8000, pa := 0x8000, n := 8, data := bytesOfNat 8 0x1122334455667788, b := 0x1122334455667788, cmp := 0, mode := 0, ticket := none, hz := 0 }
def busy (l : Launch) : State := { run 7 stepper l with ops := [under (.accz z) []] }

/-- A commit whose next record needs raw storage that the pool does not have (R467). -/
def pressed : State := let s := run 3; { s with pages := pressing.pages, mem := { s.mem with raw := pressing.mem.raw } }
def pressedReq : Request := { stagedStore.request 1 pressed.fresh with accs := [{ storeAccess with hz := 1 }] }

theorem foldl_modLaunch_mem (f : Nat → Launch → Launch) (es : List (Nat × Launch)) (s : State) :
    (es.foldl (fun s e => s.modLaunch e.1 (f e.1)) s).mem = s.mem ∧ (es.foldl (fun s e => s.modLaunch e.1 (f e.1)) s).pages = s.pages := by
  induction es generalizing s with
  | nil => exact ⟨rfl, rfl⟩
  | cons e es ih => exact ih _

theorem pressed_short : pressed.pages.poolBack < (pressed.performRecord 5 1 stagedStore).poolCharge ∧ pressed.poolCharge < (pressed.performRecord 5 1 stagedStore).poolCharge := by
  have he := encode_size (arrivedLine pressed storeAccess.data) 256 (by decide +kernel) (by decide +kernel) (by decide +kernel)
  have h0 : pressed.poolCharge = 2048 := by decide +kernel
  have hb : pressed.pages.poolBack = 0 := rfl
  have hn : pressed.noteRequest pressedReq = pressed := by
    show (match pressed.lineBad .hbm 0x8000, ReqKind.store with
      | some 4, _ => pressed.noteBad 256 4 pressedReq.sectors | some _, .store => pressed | some k, _ => pressed.noteBad 256 k pressedReq.sectors
      | none, _ => pressed) = pressed
    rw [show pressed.lineBad .hbm 0x8000 = none from by decide +kernel]
  have ho : (pressed.writeOne pressedReq { storeAccess with hz := 1 }).1 = pressed.performWrite .hbm 0x8000 storeAccess.data (pressedReq.stamp { storeAccess with hz := 1 }) := by
    show (if pressed.lineBad .hbm 0x8000 = some 4 ∧ storeAccess.n < 128 ∧ !pressedReq.sluice then (pressed, { storeAccess with hz := 1 }.read [])
      else (pressed.performWrite .hbm 0x8000 storeAccess.data (pressedReq.stamp { storeAccess with hz := 1 }), { storeAccess with hz := 1 })).1 = _
    rw [if_neg (by decide +kernel)]
  have hw : (pressed.performWrite .hbm 0x8000 storeAccess.data (pressedReq.stamp { storeAccess with hz := 1 })).mem.raw = ((arrivedLine pressed storeAccess.data).encode 256).raw ∧
      (pressed.performWrite .hbm 0x8000 storeAccess.data (pressedReq.stamp { storeAccess with hz := 1 })).pages = pressing.pages :=
    ⟨performWrite_raw _ _ _ (by decide) (by decide +kernel), State.pages_performWrite _ _ _ _ _ _⟩
  have hact : (pressed.actRecord 1 stagedStore).mem.raw = ((arrivedLine pressed storeAccess.data).encode 256).raw ∧ (pressed.actRecord 1 stagedStore).pages = pressing.pages := by
    have h1 : pressed.actRecord 1 stagedStore = ((((pressed.noteRequest pressedReq).writeOne pressedReq { storeAccess with hz := 1 }).1.noteDone 1 (pressed.completion .hbm 0x8000)).modRun
        fun r => { r with doneAt := max r.doneAt (max 1 (pressed.completion .hbm 0x8000)) }) := rfl
    rw [h1, hn, ho]
    unfold State.noteDone
    split <;> exact hw
  have hbar : ∀ s : State, (s.barFills 0 [256]).mem.raw = s.mem.raw ∧ (s.barFills 0 [256]).pages = s.pages := by
    intro s
    unfold State.barFills
    dsimp only
    split <;> exact ⟨rfl, rfl⟩
  have hr : (pressed.performRecord 5 1 stagedStore).mem.raw = (pressed.actRecord 1 stagedStore).mem.raw ∧ (pressed.performRecord 5 1 stagedStore).pages = (pressed.actRecord 1 stagedStore).pages := by
    let s1 := ((pressed.actRecord 1 stagedStore).dropLines 0 [256]).barFills 0 [256]
    have h2 := foldl_modLaunch_mem (fun _ l => { l with lastRelease := pressed.ns }) (s1.twins 5) s1
    refine ⟨(congrArg MemSys.raw h2.1).trans (hbar _).1, h2.2.trans (hbar _).2⟩
  have h1 := pressing_charge pressed _ storeAccess.data (hr.2.trans hact.2) (hr.1.trans hact.1) (by decide +kernel) he
  omega

theorem witness_CommitSteps :
    (∃ (s : State), s.firm.running = true ∧ s.steps.run = none ∧ ∀ e, e ∈ s.launches → s.isArrived e.1 = false ∧ s.isEnded e.1 = false) ∧
    (∃ (s : State) (l : Launch), s.firm.running = true ∧ s.steps.run = none ∧ s.launches = [(5, l)] ∧ l.barred = false ∧ s.isArrived 5 = true) ∧
    (∃ (s : State) (r : CommitRun) (x : Staged), s.firm.running = true ∧ s.steps.run = some r ∧ r.phase = 3 ∧ s.nextRecord r = some (5, 1, x) ∧ s.recordClear r 5 1 x = false) ∧
    (∃ (s : State) (r : CommitRun) (x : Staged), s.firm.running = true ∧ s.steps.run = some r ∧ r.phase = 3 ∧ s.nextRecord r = some (5, 1, x) ∧ s.recordClear r 5 1 x = true ∧
      s.pages.poolBack < (s.performRecord 5 1 x).poolCharge ∧ s.poolCharge < (s.performRecord 5 1 x).poolCharge) ∧
    (∃ (s : State) (r : CommitRun) (x : Staged) (a : Access) (g : Group), s.firm.running = true ∧ s.steps.run = some r ∧ r.phase = 3 ∧ s.nextRecord r = some (5, 1, x) ∧ s.recordClear r 5 1 x = true ∧
      (x.request 1 s.fresh).accs = [a] ∧ s.refusal (x.request 1 s.fresh) = none ∧ (s.performRecord 5 1 x).poolCharge ≤ s.pages.poolBack ∧ s.lineBad x.tgt a.pa = none ∧ s.group? 1 = some g ∧
      g.launch % 2 ^ 64 = 5 ∧ g.copy < 4) ∧
    (∃ (s : State) (r : CommitRun), s.firm.running = true ∧ s.steps.run = some r ∧ r.phase = 5) ∧
    (∃ (s : State) (r : CommitRun), s.firm.running = true ∧ s.steps.run = some r ∧ r.phase = 7 ∧ ∃ e, e ∈ s.launches ∧ keepsImage e = true ∧ s.imageReady e.1 = false) ∧
    (∀ cls, cls = 1 ∨ cls = 2 → ∃ (s : State) (r : CommitRun) (l : Launch), s.firm.running = true ∧ s.steps.run = some r ∧ r.phase = 7 ∧ l.kern.cls = cls ∧
      (∀ e, e ∈ s.launches → keepsImage e = true → s.imageReady e.1 = true) ∧ s.launches = [(5, l)] ∧ r.parts = [5] ∧ l.dual = false ∧
      (∀ e, e ∈ s.warps → ∀ k : Fin 32, e.2.threads[k].lateRec = none ∧ ∀ n d, e.2.threads[k].waits ≠ some (.step true n d)) ∧ ∀ e, e ∈ s.groups → e.2.savedWarps = []) ∧
    (∃ (s : State) (l : Launch), s.firm.running = true ∧ s.steps.peerEn = true ∧ s.launch? (5 : Word).toNat = some l) ∧
    ∃ (s : State) (r : CommitRun) (l : Launch), s.firm.running = true ∧ s.steps.held = true ∧ s.steps.run = some r ∧ s.launches = [(5, l)] ∧ l.held = true := by
  refine ⟨⟨State.reset, rfl, rfl, by decide⟩, ⟨machine (warpOf []) 1 grp { lch with stepping := true, hasArrived := true }, _, rfl, rfl, rfl, by decide, by decide⟩,
    ⟨{ run 3 with mem := { (run 3).mem with reqs := [{ request (.load .reg) with stage := .performed 0 0 [] [] 0 }] } }, _, stagedStore, rfl, rfl, rfl, by decide +kernel, by decide +kernel⟩,
    ⟨pressed, _, stagedStore, rfl, rfl, rfl, by decide +kernel, by decide +kernel, pressed_short⟩,
    ⟨run 3, _, stagedStore, storeAccess, _, rfl, rfl, rfl, by decide, by decide, by decide, by decide, by decide, by decide, rfl, by decide, by decide⟩,
    ⟨run 5, _, rfl, rfl, rfl⟩, ⟨busy strict, _, rfl, rfl, rfl, (5, strict), List.mem_singleton.mpr rfl, by decide +kernel, by decide +kernel⟩, fun cls hc => ⟨run 7 stepper { ordered cls with groups := 33 }, _, _, rfl, rfl, rfl, ?_, ?_, rfl, rfl, ?_, ?_, ?_⟩,
    ⟨let s := run 1; { s with steps := { s.steps with peerEn := true } }, _, rfl, rfl, rfl⟩,
    let s := run 2 (warpOf []) { strict with held := true }; { s with steps := { s.steps with held := true } }, _, _, rfl, rfl, rfl, rfl, rfl⟩
  · rfl
  · rcases hc with rfl | rfl <;> decide +kernel
  · rcases hc with rfl | rfl <;> decide
  · intro e he k
    cases List.mem_singleton.mp he
    exact ⟨(by decide : ∀ k : Fin 32, stepper.threads[k].lateRec = none) k, stepper_waits k⟩
  · intro e he
    cases List.mem_singleton.mp he
    rfl
/-! ### The device, its host and its links -/

def mailbox (cmd : Nat) (f : Firm → Firm := id) : State := { State.reset with firm := f { State.reset.firm with cmd := cmd } }
def clocked (n : Nat) (ls : List ClockLimit) : State := { State.reset with clock := { State.reset.clock with step := n, limits := ls } }

/-- R432: 700, 600, 500, 350 MHz; R440: any limit but the power limit holds 350 MHz. -/
theorem test_power_limit : leads .breakwaterPowerLimit (clocked 1 [.power]) (fun t => t.clock.step == 2 && t.clock.limits == [.power, .power]) = true := by decide
theorem test_thermal_throttle : leads .thermalThrottle (clocked 0 []) (fun t => t.clock.step == 3) = true := by decide
theorem test_reset_keeps_memory : leads (.deviceReset true) (sending (request .store)) (fun t => t.mem.hbm == [(0x8000, 7)] && t.mem.reqs == [] && t.warps == [] && t.launches == []) = true := by decide +kernel
theorem test_boot_fails : leads (.deviceReset false) State.reset (fun t => t.firm.running == false && t.firm.log.map (fun e => (e.level, e.source)) == [(1, 1)]) = true := by decide +kernel
theorem test_unassigned_command : leads .mailboxUnassignedCommand (mailbox 9) (fun t => t.firm.cmd == 0 && t.firm.status == 2) = true := by decide +kernel
/-- R356: LQ_CTL's base reads back in bits [63:12]; R318: PG_CTL's fields; R424: an offset that no table lists stays. -/
theorem test_window : leads (.managementRegisterWrite 0x010000 0x123456789ABCDEF0) State.reset (fun t => t.readWindow 0x010000 == 0x123456789ABCD000) = true
    ∧ leads (.managementRegisterWrite 0x019008 5) State.reset (fun t => t.readWindow 0x019008 == 0) = true := by decide +kernel
/-- R430: a store of the host. -/
theorem test_host_store : leads (.hostCxlWrite true 16 [1, 2]) State.reset (fun t => t.mem.lp == [(16, 1), (17, 2)]) = true := by decide +kernel
/-- R426: an atomic add of a peer, in its inbound window of 1 GiB. -/
def linked : State :=
  { State.reset with links := State.reset.links.set 2 { Link.init with en := true, up := true, base := 1, size := 1 } }
theorem test_peer_add : leads (.peerInboundAccess 2 (.atom true (2 ^ 30 + 8) 4 0 false false 5)) linked (fun t => t.mem.lp == [(2 ^ 30 + 8, 5)]) = true := by decide +kernel
theorem test_peer_outside : leads (.peerInboundAccess 2 (.store true (2 ^ 31 - 2) [1, 2, 3, 4] false)) linked (fun t => t.mem.lp == []) = true := by decide +kernel

/-- The host has granted some bytes, or it has not. -/
theorem granted_or (a n : Nat) : (∀ k, k < n → Config.dmaGranted (a + k) = true) ∨ ∃ k, k < n ∧ Config.dmaGranted (a + k) = false := by
  by_cases h : ∃ k, k < n ∧ Config.dmaGranted (a + k) = false
  · exact Or.inr h
  · exact Or.inl fun k hk => Bool.of_not_eq_false fun he => h ⟨k, hk, he⟩

theorem witness_DeviceSteps :
    (∃ s : State, (∀ l, l ∈ s.clock.limits → l = ClockLimit.power) ∧ s.clock.limits.length = 2) ∧ (∃ s : State, ∀ l, l ∈ [ClockLimit.current, .thermal, .coolant] → l ∉ s.clock.limits) ∧
    (∃ (s : State) (l : ClockLimit), s.clock.limits ≠ [] ∧ ∀ k, k ∈ s.clock.limits → k = l) ∧ (∃ s : State, s.firm.unlocks < 2) ∧ (∃ s : State, s.firm.unlocks = 2) ∧
    (∃ s : State, s.firm.cmd = 1 ∧ s.firm.signing = false ∧ (s.firm.erased = true ∨ 2 ^ 16 ≤ s.firm.index)) ∧
    (∃ s : State, s.firm.cmd = 1 ∧ s.firm.signing = false ∧ s.firm.erased = false ∧ s.firm.index < 2 ^ 16) ∧
    (∃ (s : State) (img : List Byte), s.firm.cmd = 1 ∧ s.firm.signing = true ∧ s.firm.code = some img) ∧
    (∃ s : State, s.firm.cmd = 2 ∧ s.firm.args[(1 : Fin 8)].toNat ≠ 0 ∧ s.firm.args[(1 : Fin 8)].toNat ≤ 2 ^ 28 ∧
      ((∀ k, k < s.firm.args[(1 : Fin 8)].toNat → Config.dmaGranted (s.firm.args[(0 : Fin 8)].toNat + k) = true) ∨
        ∃ k, k < s.firm.args[(1 : Fin 8)].toNat ∧ Config.dmaGranted (s.firm.args[(0 : Fin 8)].toNat + k) = false)) ∧
    (∃ (s : State) (img : List Byte), s.firm.cmd = 3 ∧ s.firm.staged = some img ∧ min 4 s.firm.resetCap ≤ s.recentResets.length) ∧
    (∃ (s : State) (img : List Byte), s.firm.cmd = 3 ∧ s.firm.staged = some img ∧ s.recentResets.length < min 4 s.firm.resetCap ∧ (Config.imageAccepted img s.firm.fuse = true ∨ Config.imageAccepted img s.firm.fuse = false)) ∧
    (∃ s : State, s.firm.cmd = 4) ∧ (∃ s : State, s.firm.cmd = 5 ∧ s.launch? s.firm.args[(0 : Fin 8)].toNat = none) ∧
    (∃ (s : State) (l : Launch), s.firm.cmd = 5 ∧ s.launch? s.firm.args[(0 : Fin 8)].toNat = some l ∧ l.status = 3 ∧ s.mem.reqs = [] ∧ s.timePasses (s.runsDone s.firm.args[(0 : Fin 8)].toNat) = true) ∧
    (∃ (s : State) (l : Launch), s.firm.cmd = 5 ∧ s.launch? s.firm.args[(0 : Fin 8)].toNat = some l ∧ l.status = 3 ∧ s.mem.reqs = [] ∧
      s.timePasses (s.runsDone s.firm.args[(0 : Fin 8)].toNat) = false) ∧ (∃ s : State, s.firm.cmd = 6) ∧ ∃ s : State, 6 < s.firm.cmd :=
  ⟨⟨clocked 2 [.power, .power], by decide, rfl⟩, ⟨clocked 1 [.power], by decide⟩, ⟨clocked 3 [.thermal], .thermal, by decide, by decide⟩, ⟨State.reset, by decide⟩,
    ⟨mailbox 0 fun f => { f with unlocks := 2 }, by decide⟩, ⟨mailbox 1 fun f => { f with index := 2 ^ 16 }, rfl, rfl, Or.inr (by decide)⟩, ⟨mailbox 1 fun f => { f with index := 2 ^ 16 - 1, erased := false }, rfl, rfl, rfl, by decide⟩,
    ⟨mailbox 1 fun f => { f with signing := true, code := some [1, 2] }, [1, 2], rfl, rfl, rfl⟩,
    ⟨mailbox 2 fun f => { f with args := f.args.set 1 (2 ^ 28) }, by decide, by decide, by decide, granted_or _ _⟩,
    ⟨mailbox 3 fun f => { f with staged := some [1], resets := [0, 0, 0, 0] }, [1], rfl, rfl, by decide⟩,
    ⟨mailbox 3 fun f => { f with staged := some [1], resets := [] }, [1], rfl, rfl, by decide, by cases Config.imageAccepted [1] _ <;> decide⟩, ⟨mailbox 4, rfl⟩, ⟨mailbox 5, by decide, by decide⟩,
    ⟨let s := mailbox 5 fun f => { f with args := f.args.set 0 5 }; { s with launches := [(5, { lch with status := 3 })] }, { lch with status := 3 }, rfl, by decide, rfl, rfl, by decide⟩,
    ⟨let s := mailbox 5 fun f => { f with args := f.args.set 0 5 }; { s with launches := [(5, { lch with status := 3, lastDone := 10 ^ 9 })] }, { lch with status := 3, lastDone := 10 ^ 9 }, rfl, by decide, rfl, rfl, by decide⟩, ⟨mailbox 6, rfl⟩, ⟨mailbox 7, by decide⟩⟩

theorem witness_ManagementWindowSteps : (∃ s : State, s.firm.running = true ∧ s.firm.cmd = 0 ∧ s.firm.ptIdx.toNat < s.pages.count ∧ ∀ q : Fin 64, s.sched.lq[q].en = false) ∧
    (∃ s : State, s.firm.running = true ∧ s.firm.cmd ≠ 0 ∧ s.sched.lq[(63 : Fin 64)].en = true) ∧
    (∃ (s : State) (v : Word), s.firm.running = true ∧ s.trace.en = false ∧ v.getLsbD 0 = true) ∧ ∃ (s : State) (v : Word), s.firm.running = true ∧ s.trace.en = true ∧ v.getLsbD 0 = true :=
  ⟨⟨State.reset, rfl, rfl, by decide, by decide⟩, ⟨let s := mailbox 1; { s with sched := { s.sched with lq := s.sched.lq.set 63 queue0 } }, rfl, by decide, by decide⟩,
    ⟨State.reset, 1, rfl, rfl, by decide⟩, { State.reset with trace := { State.reset.trace with en := true } }, 1, rfl, rfl, by decide⟩

theorem witness_HostAndPeerSteps :
    (∃ (s : State) (lp : Bool) (pa : Nat) (bs : List Byte), s.firm.running = true ∧ (s.mem.failed = [] ∧ ∀ q, q ∈ s.mem.reqs → q.gid ≠ outsideGid) ∧ bs ≠ [] ∧ pa + bs.length = capOf lp ∧ (lp = true ∨ pa + bs.length ≤ s.pages.poolBase ∨ s.pages.poolBase + s.pages.poolSize ≤ pa)) ∧
    (∃ (s : State) (lp : Bool) (pa : Nat) (bs : List Byte), s.firm.running = true ∧ (s.mem.failed = [] ∧ ∀ q, q ∈ s.mem.reqs → q.gid ≠ outsideGid) ∧ capOf lp < pa + bs.length) ∧
    (∃ (s : State) (l : Fin 8) (lp : Bool) (pa n : Nat), s.firm.running = true ∧ (s.mem.failed = [] ∧ ∀ q, q ∈ s.mem.reqs → q.gid ≠ outsideGid) ∧ let k := s.links[l]
      k.en = true ∧ k.up = true ∧ k.base * 2 ^ 30 ≤ pa ∧ pa + n = (k.base + k.size) * 2 ^ 30 ∧ pa + n ≤ capOf lp ∧ lp = true) ∧
    (∃ (s : State) (l : Fin 8), s.firm.running = true ∧ (s.mem.failed = [] ∧ ∀ q, q ∈ s.mem.reqs → q.gid ≠ outsideGid) ∧ s.links[l].en = false) ∧
    (∃ (s : State) (l : Fin 8) (q : Request), s.firm.running = true ∧ (s.mem.failed = [] ∧ ∀ q, q ∈ s.mem.reqs → q.gid ≠ outsideGid) ∧ q ∈ s.mem.reqs ∧ q.space = 0 ∧ q.tgt = .peer l.val) ∧
    ∃ (s : State) (r : TraceRec) (rs : List TraceRec) (tg : Target) (pa : Nat), s.firm.running = true ∧ (s.mem.failed = [] ∧ ∀ q, q ∈ s.mem.reqs → q.gid ≠ outsideGid) ∧ s.trace.en = true ∧ s.trace.queue = r :: rs ∧ s.trace.gap = none ∧
      s.trace.cur = some (tg, pa) ∧ s.trace.slot = 2046 :=
  ⟨⟨State.reset, true, capOf true - 8, List.replicate 8 0, rfl, ⟨rfl, by decide⟩, by decide, by decide, Or.inl rfl⟩, ⟨State.reset, true, capOf true, [1], rfl, ⟨rfl, by decide⟩, by decide⟩,
    ⟨linked, 2, true, 2 ^ 31 - 8, 8, rfl, ⟨rfl, by decide⟩, by decide⟩, ⟨linked, 1, rfl, ⟨rfl, by decide⟩, by decide⟩,
    ⟨sending { request .store with tgt := .peer 2 }, 2, { request .store with tgt := .peer 2 }, rfl, ⟨rfl, by decide⟩, by decide, rfl, rfl⟩,
    { State.reset with trace := { State.reset.trace with en := true, cur := some (.hbm, 0x10000), slot := 2046, gap := none, queue := [{ kind := 1, tag := 2, core := 3, warp := 4, group := 5, time := 6, d0 := 7, d1 := 8 }] } },
    { kind := 1, tag := 2, core := 3, warp := 4, group := 5, time := 6, d0 := 7, d1 := 8 }, [], .hbm, 0x10000, rfl, ⟨rfl, by decide⟩, rfl, rfl, rfl, rfl, rfl⟩
/-! ### Steps and encodings -/

/-- The state in which the next step issues the instruction of some words. -/
def placed (w : Nat) : State := State.reset.withFetchWord 160 w
/-- The next step's state meets a condition. -/
def steps (s : State) (p : State → Warp → Bool) : Bool := match step s with | .next t => (match t.warp? 0 with | some w => p t w | none => false) | _ => false

/-- R30: a compact `nop` moves every thread on by four bytes. -/
theorem test_step_nop : steps (placed 0) (fun t w => (List.finRange 32).all fun k => w.threads[k].pc == 0x10004 && t.turns == []) = true := by decide +kernel
/-- R98, R409: `rte` runs in a handler. -/
theorem test_step_rte : steps (placed 0x00038205) (fun _ w => w.handler == 0 && w.threads[3].privl == false) = true := by decide +kernel
/-- R47: words that are no instruction. -/
theorem test_step_illegal : steps (placed 0x000FFE01) (fun _ w => w.threads[3].frec.map (fun r => (r.cause, r.addr)) == some (0x01, 0x10000)) = true := by decide +kernel

/-- A `nop` at 0x10000, without and with a marker, and a warp there. -/
def fresh : Warp := Warp.start 0 0 512 0x10000
def holding (n : Nat) (w : Warp) (l : Launch := { Launch.blank with codeVa := 0x10000, codeSize := 0x10000 }) : State := { placed n with warps := [(0, w)], launches := [(0, l)] }
def nop (s : Bool) : Instr := .nopCompact { ge := false, gn := false, gp := 0, s := s, a := 0, b := 0, d := 0 }
def owing (watch : Bool) : Warp := { fresh with pend := [{ id := 9, pc := 0x1000, dst := .vec 4, act := 1, zero := 0, left := 1, outs := [], key := none, old := [], isLoad := true, watch := watch, lines := [], hits := [], stamp := 0, rels := [], bound := 32, ldc := none, form := none }] }

/-- The turn of warp 0 of core 0, whose candidate stands at 0x10000 with all its threads. -/
def turned (s : State) (w : Warp) (set : Mask) : Prop := s.turns = [.issue 0 0] ∧ s.warp? (0 * 64 + 0) = some w ∧ w.upNext = some (0x10000, set)

/-- Its words are fetched and decode to an instruction. -/
def meetsCode (s : State) (w : Warp) (set : Mask) (ws : List Half) (i : Instr) : Prop := turned s w set ∧ s.fetch 0x10000 = .ok ws ∧
  decodeWords ((Mask.lanes set).all fun k => w.threads[k].privl) (ws.getD 0 0) (ws.getD 1 0) (ws.getD 2 0) (ws.getD 3 0) (ws.getD 4 0) = .ok i
/-- The issue of that turn. -/
def turnOf (set : Mask) : Issue := { core := 0, slot := 0, set := set, pc := 0x10000 }
/-- The launch of a warp halts. -/
def halts (s : State) (w : Warp) : Bool := match s.launchOf w with | some l => l.status == 3 | none => false

theorem witness_StepRunsTheDecodedInstruction :
    (∃ (s : State) (w : Warp) (set : Mask) (ws : List Half) (i : Instr), meetsCode s w set ws i ∧
      Instr.marked i = false ∧ ∃ t, exec i { ((({ s with turns := [] }).useTlb 0x10000).noteFetch 0x10000 ws.length) with issue := some (turnOf set) } = .next t) ∧
    (∃ (s : State) (w : Warp) (set : Mask) (ws : List Half) (i : Instr), meetsCode s w set ws i ∧
      Instr.marked i = true ∧ w.pend ≠ [] ∧ ∃ p, p ∈ w.pend ∧ p.watch = false) ∧
    (∃ (s : State) (w : Warp) (set : Mask) (ws : List Half) (i : Instr), meetsCode s w set ws i ∧
      Instr.marked i = true ∧ w.pend ≠ [] ∧ (∀ p, p ∈ w.pend → p.watch = true) ∧ w.mustStop s.ns (halts s w) = false) ∧
    (∃ (s : State) (w : Warp) (set : Mask) (ws : List Half) (i : Instr), meetsCode s w set ws i ∧
      Instr.marked i = true ∧ w.pend = [] ∧ w.mustStop s.ns (halts s w) = false ∧
      ∃ t, exec i { (((({ s with turns := [] }).useTlb 0x10000).noteFetch 0x10000 ws.length).passSafe 0 set 0x10000) with issue := some (turnOf set) } = .next t) ∧
    (∃ (s : State) (w : Warp) (set : Mask) (ws : List Half) (i : Instr), meetsCode s w set ws i ∧
      Instr.marked i = true ∧ w.pend = [] ∧ halts s w = true ∧ w.mustStop s.ns true = true) ∧
    (∃ (s : State) (w : Warp) (set : Mask) (ws : List Half) (i : Instr), meetsCode s w set ws i ∧
      Instr.marked i = true ∧ w.pend ≠ [] ∧ (∀ p, p ∈ w.pend → p.watch = true) ∧ halts s w = false ∧ w.mustStop s.ns false = true) ∧
    (∃ (s : State) (w : Warp) (set : Mask) (ws : List Half), turned s w set ∧ s.fetch 0x10000 = .ok ws ∧ decodeWords ((Mask.lanes set).all fun k => w.threads[k].privl) (ws.getD 0 0) (ws.getD 1 0) (ws.getD 2 0) (ws.getD 3 0) (ws.getD 4 0) = .error .illegal) ∧
    (∃ (s : State) (w : Warp) (set : Mask) (a : Word), turned s w set ∧ s.fetch 0x10000 = .error (0x04, a)) ∧
    ∃ (s : State) (w : Warp) (set : Mask) (i : Instr) (tg : Target) (pa : Nat), turned s w set ∧ i.coded = true ∧ i.wf = true ∧ s.mem.young = [] ∧ (s.mem.of tg).bytes pa (encodeBytes i).length = encodeBytes i ∧
      ∀ k, 4 * k < (encodeBytes i).length → s.resolve ((0x10000 : Word) + BitVec.ofNat 64 (4 * k)) .exec = .ok (tg, pa + 4 * k) ∧ s.lineBad tg (pa + 4 * k) = none ∧ s.peerFault tg (pa + 4 * k) = none := by
  refine ⟨⟨holding 0 fresh, fresh, BitVec.allOnes 32, [0], nop false, ⟨⟨rfl, rfl, by decide⟩, by rfl, by rfl⟩, rfl, _, by rfl⟩,
    ⟨holding 4 (owing false), owing false, BitVec.allOnes 32, [4], nop true, ⟨⟨rfl, rfl, by decide⟩, by rfl, by rfl⟩, rfl, by decide, by decide⟩,
    ⟨holding 4 (owing true), owing true, BitVec.allOnes 32, [4], nop true, ⟨⟨rfl, rfl, by decide⟩, by rfl, by rfl⟩, rfl, by decide, by decide, by decide⟩,
    ⟨holding 4 fresh, fresh, BitVec.allOnes 32, [4], nop true, ⟨⟨rfl, rfl, by decide⟩, by rfl, by rfl⟩, rfl, rfl, by decide, _, by rfl⟩,
    ⟨holding 4 { fresh with stopping := true } { Launch.blank with status := 3 }, { fresh with stopping := true }, BitVec.allOnes 32, [4], nop true, ⟨⟨rfl, rfl, by decide⟩, by rfl, by rfl⟩, rfl, rfl, by decide, by decide⟩,
    ⟨holding 4 { owing true with stopping := true }, { owing true with stopping := true }, BitVec.allOnes 32, [4], nop true, ⟨⟨rfl, rfl, by decide⟩, by rfl, by rfl⟩, rfl, by decide, by decide, by decide, by decide⟩,
    ⟨holding 0x000FFE01 fresh, fresh, BitVec.allOnes 32, [0x000FFE01, 0], ⟨rfl, rfl, by decide⟩, by rfl, by rfl⟩,
    ⟨{ holding 0 fresh with mem := State.reset.mem }, fresh, BitVec.allOnes 32, 0x10000, ⟨rfl, rfl, by decide⟩, by rfl⟩,
    holding 0 fresh, fresh, BitVec.allOnes 32, nop false, .hbm, 0x10000, ⟨rfl, rfl, by decide⟩, by rfl, by rfl, rfl, by rfl, fun k hk => ?_⟩
  have : (encodeBytes (nop false)).length = 4 := by rfl
  obtain rfl : k = 0 := by omega
  exact ⟨by rfl, by rfl, by rfl⟩

theorem witness_DecodingInvertsEncoding : (∃ i : Instr, i.coded = true ∧ i.wf = true) ∧ ∃ (w0 w1 : Half) (i : Instr), decodeWords true w0 w1 0 0 0 = .ok i :=
  ⟨⟨.iadd add, by decide⟩, 0x02188E01, 0x00004003, _, rfl⟩

theorem witness_PrintedWordsDecode : (∃ w0 : Half, lenOf w0 ≠ .w32 ∧ opRow (opcOf w0) = none) ∧ ∃ w0 : Half, lenOf w0 ≠ .w32 ∧ opRow (opcOf w0) ≠ none ∧ Half.field w0 30 2 ≠ 0 :=
  ⟨⟨0x000FFE01, by decide, by decide⟩, 0x42188E01, by decide, by decide, by decide⟩

theorem witness_StepsKeepMemoryCanonical : ∃ s t : State, MemoryCanonical s ∧ step s = .next t := by
  refine ⟨{ State.reset with turns := [.elapse 3] }, _, ?_, rfl⟩
  constructor
  · intro t
    cases t <;> rfl
  · decide
  · exact fun e he => absurd (show e ∈ [] from he) List.not_mem_nil
  · exact fun e he => absurd (show e ∈ [] from he) List.not_mem_nil
  · exact fun e he => absurd (show e ∈ [] from he) List.not_mem_nil

theorem witness_StepsKeepRingCounts : ∃ s t : State, RingsBalanced s ∧ s.groups ≠ [] ∧ step s = .next t := by
  refine ⟨{ State.reset with turns  := [.elapse 3]
                             groups := [(0, ringed { off := 0, slots := 4, size := 16, free := 1, full := 1, wr := 3, wc := 2, rd := 1, rc := 0, np := 1, nr := 1, done := [] })] }, _, ?_, by decide, rfl⟩
  constructor
  · intro e he r hr
    obtain rfl := List.mem_singleton.mp he
    obtain rfl := List.mem_singleton.mp hr
    rfl
  · exact fun e he => absurd (show e ∈ [] from he) List.not_mem_nil

/-- The quota's other targets, and a full mask. -/
theorem witness_QuotaAndFreeResults_forms :
    (∃ (x : Ext) (s : State), Meets x s fun c => Fits c s x.d (c.elemBound x [] x.d)) ∧
    (∃ (x : Ext) (s : State), Meets x s fun c => Fits c s x.d (c.elemBound x [x.srcB] x.d) ∧ c.w.quota ≤ c.w.admitted) ∧
    ∃ (x : Ext) (s : State), x.l64 ≠ 0 ∧ Meets x s fun c => c.act = fullMask := by
  refine ⟨⟨{ z with d := 4 }, machine (warpOf []) 3, ?_⟩, ⟨{ z with d := 4, b := 2 }, machine (warpOf [(2, uniform 128)]) 3, ?_⟩,
    ⟨{ z with len := .w160, l64 := 4 }, machine (warpOf [(2, uniform 128)]) fullMask, by decide, ?_⟩⟩ <;>
  · try unfold Fits
    exact Meets.of _ _ _ (by decide)

/-- Requests are out, and none goes to the link's peer. -/
theorem witness_HostAndPeerSteps_link : ∃ (s : State) (l : Nat), s.mem.reqs ≠ [] ∧ ∀ q, q ∈ s.mem.reqs → q.tgt ≠ .peer (l % 8) :=
  ⟨sending (request .store), 9, by decide, by decide⟩
end Sys2Proof.Tests
end

/-! Guard logic, transfers between guards and registers, and guard counts (spec 03, R91 to R94): each instruction is one of the shared
operations, so it gives its results as soon as the value that its arm writes is the value of its rule. -/

namespace Sys2Proof.Machine

/-! ### Arms -/

theorem exec_glop (x : Ext) (s : State) : exec (.glop x) s = execGlop x s := rfl

theorem exec_gtov (x : Ext) (s : State) : exec (.gtov x) s = execGtov x s := rfl

theorem exec_vtog (x : Ext) (s : State) : exec (.vtog x) s = execVtog x s := rfl

theorem exec_gcnt (x : Ext) (s : State) : exec (.gcnt x) s = execGcnt x s := rfl

/-! ### Values -/

/-- R92: a guard bit as a thread value. -/
theorem setWidth_ofBool_eq_ite (b : Bool) : (BitVec.ofBool b).setWidth 64 = if b then (1 : Word) else 0 := by
  cases b with
  | false => rfl
  | true => rfl

/-! ### Results -/

/-- A short `vectorOp` that writes a plain word to the destination register, under the elementwise bound over no sources, gives that word. -/
theorem givesWord_of_guardSources (i : Instr) (x : Ext) (s : State) (opc : Nat) (gs : List Nat) (f g : Ctx → Fin 32 → Word)
    (he : exec i s = .next (vectorOp x (fun q =>
      { key := { opc := opc, guards := gs, dst := some x.d }, dst := .vec x.d, out := fun n => plain (f q n) }) s))
    (hfg : ∀ q n, f q n = g q n) : GivesWord i x s [.none_, .none_, .none_] g := by
  have hout : ∀ q n, plain (f q n) = plain (g q n) := fun q n => congrArg plain (hfg q n)
  exact gives_of_vectorOp i x s _ _ _ _ _ he (fun _ => rfl) (fun _ => rfl) (fun _ => rfl) hout fun c d h => by cases h; rfl

/-- R91: a guard bit is the entry of the truth table that its two source bits select. -/
theorem glop_givesBit (x : Ext) (s : State) : GivesBit (.glop x) x s x.d.toNat fun c n =>
    (x.m 23 4).testBit (2 * ((c.guard x.a.toNat).getLsbD n).toNat + ((c.guard x.b.toNat).getLsbD n).toNat) :=
  givesBit_of_guardOp _ _ x _ _ _ s (exec_glop x s)

/-- R92: the mask form gives every active thread the whole guard, the bit form its own bit. -/
theorem gtov_givesWord (x : Ext) (s : State) : GivesWord (.gtov x) x s [.none_, .none_, .none_] fun c n =>
    if x.mb 23 then (c.guard x.a.toNat).setWidth 64 else if (c.guard x.a.toNat).getLsbD n then 1 else 0 :=
  givesWord_of_guardSources _ x s _ _ _ _ (exec_gtov x s) fun c n => by rw [setWidth_ofBool_eq_ite]

/-- R93: a guard bit is the outcome of the test on the thread's value. -/
theorem vtog_givesBit (x : Ext) (s : State) : GivesBit (.vtog x) x s x.d.toNat fun c n => vtogTest (x.m 23 2) (x.m 25 6) (c.reg x.a n) :=
  givesBit_of_guardOp _ _ x _ _ _ s (exec_vtog x s)

/-- R94: the count of the active threads whose bit is set, or of those below the thread. -/
theorem gcnt_givesWord (x : Ext) (s : State) : GivesWord (.gcnt x) x s [.none_, .none_, .none_] fun c n =>
    BitVec.ofNat 64 (guardCount c.act (c.guard x.a.toNat) (x.mb 23) n) :=
  givesWord_of_guardSources _ x s _ _ _ _ (exec_gcnt x s) fun _ _ => rfl

/-- Settles O10: one result lemma per instruction. The model's `vtogTest` and `guardCount` are the test and the count of the statement. -/
theorem guardInstructionResults : Obligations.GuardInstructionResults := by
  unfold Obligations.GuardInstructionResults
  intro x s
  exact ⟨glop_givesBit x s, gtov_givesWord x s, vtog_givesBit x s, gcnt_givesWord x s⟩

end Sys2Proof.Machine

/-! Control flow (spec 04, R105 to R121): a control instruction moves its active threads as its rule says and lets the rest of its set go on.
All are one shared operation, but for `nop`, which only goes on, and the indirect branch, which may also park threads. -/

namespace Sys2Proof.Machine

/-! ### Masks and threads -/

/-- R28: the active threads are threads of the set. -/
theorem activeMask_getLsbD_set (w : Warp) (set : Mask) (ge gn : Bool) (gp : BitVec 4) (i : Fin 32)
    (h : (activeMask w set ge gn gp).getLsbD i = true) : set.getLsbD i = true := by
  unfold activeMask at h
  split at h
  · rw [BitVec.getLsbD_and, Bool.and_eq_true] at h
    exact h.1
  · exact h

/-- R28: of the set that stands at an instruction, the active threads are a part. -/
theorem standing_act_set {x : Ext} {s : State} {c : Ctx} (h : standing x s = some c) (i : Fin 32) (hi : c.act.getLsbD i = true) :
    c.set.getLsbD i = true := by
  unfold standing at h
  split at h
  · cases h
  · split at h
    · cases h
    · cases h
      exact activeMask_getLsbD_set _ _ _ _ _ i hi

/-- A thread lies in a mask without another where it lies in the one and not in the other. -/
theorem Mask.getLsbD_and_not (a b : Mask) (i : Fin 32) : (a &&& ~~~ b).getLsbD i = (a.getLsbD i && !b.getLsbD i) := by
  rw [BitVec.getLsbD_and, BitVec.getLsbD_not, decide_eq_true i.isLt, Bool.true_and]

@[simp] theorem Warp.regs_modThreads (w : Warp) (m : Mask) (f : Fin 32 → Thread → Thread) : (w.modThreads m f).regs = w.regs := by
  rw [Warp.modThreads_rest]

@[simp] theorem Warp.guards_modThreads (w : Warp) (m : Mask) (f : Fin 32 → Thread → Thread) : (w.modThreads m f).guards = w.guards := by
  rw [Warp.modThreads_rest]

/-- A warp with one thread vector is a warp with another where the two agree at every thread. -/
theorem Warp.withThreads_ext (w : Warp) (a b : Vector Thread 32) (h : ∀ i : Fin 32, a[i] = b[i]) :
    { w with threads := a } = { w with threads := b } := by
  have hab : a = b := Vector.ext fun n hn => h ⟨n, hn⟩
  rw [hab]

theorem Ctx.getElem_branched (c : Ctx) (f : Fin 32 → Thread → Thread) (i : Fin 32) : (c.branched f)[i] =
    if c.act.getLsbD i then f i c.w.threads[i] else if c.set.getLsbD i then { c.w.threads[i] with pc := c.next } else c.w.threads[i] := by
  simp [Ctx.branched]

theorem Ctx.getElem_gone (c : Ctx) (i : Fin 32) :
    c.gone[i] = if c.set.getLsbD i then { c.w.threads[i] with pc := c.next } else c.w.threads[i] := by
  simp [Ctx.gone]

/-- R101: where the active threads go on as well, the whole set has gone on. -/
theorem Ctx.branched_next (c : Ctx) (h : ∀ i : Fin 32, c.act.getLsbD i = true → c.set.getLsbD i = true) :
    (c.branched fun _ t => { t with pc := c.next }) = c.gone := by
  refine Vector.ext fun n hn => ?_
  have hb := c.getElem_branched (fun _ t => { t with pc := c.next }) ⟨n, hn⟩
  have hg := c.getElem_gone ⟨n, hn⟩
  refine hb.trans (Eq.trans ?_ hg.symm)
  split
  · rename_i ha
    rw [if_pos (h _ ha)]
  · rfl

/-! ### The shared operation of control instructions -/

/-- The warp of an issue whose threads of `m` are changed and whose inactive threads go on (R101). -/
def Ctx.moved (c : Ctx) (m : Mask) (f : Fin 32 → Thread → Thread) : Warp :=
  (c.w.modThreads (c.set &&& ~~~ c.act) fun _ t => { t with pc := c.next }).modThreads m f

/-- No more than the threads differs. -/
theorem Ctx.moved_rest (c : Ctx) (m : Mask) (f : Fin 32 → Thread → Thread) : c.moved m f = { c.w with threads := (c.moved m f).threads } := by
  unfold Ctx.moved Warp.modThreads
  rfl

/-- With all active threads changed, the threads have branched. -/
theorem Ctx.moved_act (c : Ctx) (f : Fin 32 → Thread → Thread) : c.moved c.act f = { c.w with threads := c.branched f } := by
  rw [c.moved_rest]
  refine Warp.withThreads_ext c.w _ _ fun i => ?_
  unfold Ctx.moved
  rw [Ctx.getElem_branched, Warp.threads_modThreads, Warp.threads_modThreads, Mask.getLsbD_and_not]
  cases c.act.getLsbD i with
  | true => simp
  | false => simp

/-- An active thread that is not changed stays as it is. -/
theorem Ctx.moved_stays (c : Ctx) (m : Mask) (f : Fin 32 → Thread → Thread) (i : Fin 32) (ha : c.act.getLsbD i = true)
    (hm : m.getLsbD i = false) : (c.moved m f).threads[i] = c.w.threads[i] := by
  unfold Ctx.moved
  rw [Warp.threads_modThreads, Warp.threads_modThreads, Mask.getLsbD_and_not, ha, hm]
  simp

/-- What an issue leaves that goes on outside its active mask and then changes threads: that warp, and nothing else. -/
theorem Ctx.steered (c : Ctx) (s : State) (bound : Nat) (m : Mask) (f : Fin 32 → Thread → Thread) :
    let t := (c.advance (c.executed (s.setWarp c.wk c.w) bound) c.act).modWarp c.wk fun w => w.modThreads m f
    Elsewhere c.wk s t ∧ t.warp? c.wk = some (c.moved m f) := by
  constructor
  · exact (((Elsewhere.setWarp s c.wk c.w).trans (Elsewhere.executed c _ bound)).trans (Elsewhere.advance c _ c.act)).trans (Elsewhere.modWarp _ c.wk _)
  · have hw : (c.executed (s.setWarp c.wk c.w) bound).warp? c.wk = some c.w := by rw [State.warp?_executed, State.warp?_self]
    rw [State.warp?_modWarp, if_pos rfl, State.advance_warp c _ c.act c.w hw]
    rfl

/-- An instruction that is `controlOp` steers its active threads by what the operation does to them. -/
theorem steers_of_controlOp (i : Instr) (x : Ext) (s : State) (f : Ctx → Fin 32 → Thread → Thread) (srcs : List Src)
    (he : exec i s = .next (controlOp x s f srcs)) : Steers i x s f := by
  intro c h
  refine ⟨_, he, ?_⟩
  unfold controlOp
  rw [issuing_some x s _ c h, ← c.moved_act]
  exact c.steered s _ c.act (f c)

/-! ### Branches and loops -/

/-- R111. -/
theorem bra_steers (x : Ext) (s : State) : Steers (.bra x) x s fun c _ t => { t with pc := c.target x.l32 } :=
  steers_of_controlOp _ x s _ _ rfl

/-- R105, R115: the outer counter is set. -/
theorem loopSetO_steers (x : Ext) (s : State) : Steers (.loopSetO x) x s fun c i t => { t with lc0 := c.loopCount x i, pc := c.next } :=
  steers_of_controlOp _ x s _ _ rfl

/-- R105, R115: the inner counter and its reload value are set. -/
theorem loopSetI_steers (x : Ext) (s : State) :
    Steers (.loopSetI x) x s fun c i t => { t with lc1 := c.loopCount x i, reload := c.loopCount x i, pc := c.next } :=
  steers_of_controlOp _ x s _ _ rfl

/-- R106: the end of an inner loop. -/
theorem loopI_steers (x : Ext) (s : State) :
    Steers (.loopI x) x s fun c _ t => t.loopInner (c.target x.l32) fun t => { t with pc := c.next } :=
  steers_of_controlOp _ x s _ _ rfl

/-- R106: the end of an outer loop. -/
theorem loopO_steers (x : Ext) (s : State) : Steers (.loopO x) x s fun c _ t => t.loopOuter (c.target x.l32) c.next :=
  steers_of_controlOp _ x s _ _ rfl

/-- R106: the common end of an inner and an outer loop. -/
theorem loopIo_steers (x : Ext) (s : State) : Steers (.loopIo x) x s fun c _ t =>
    t.loopInner (c.target x.l32) fun t => t.loopOuter (c.target (x.l64.setWidth 32)) c.next :=
  steers_of_controlOp _ x s _ _ rfl

/-- R116: a loop is left, with its counter cleared. -/
theorem lbrk_steers (x : Ext) (s : State) : Steers (.lbrk x) x s fun c _ t =>
    if x.mb 23 then { t with lc1 := 0, pc := c.target x.l32 } else { t with lc0 := 0, pc := c.target x.l32 } :=
  steers_of_controlOp _ x s _ _ rfl

/-- R116: a loop is left where its counter is 0. -/
theorem lbrkZ_steers (x : Ext) (s : State) : Steers (.lbrkZ x) x s fun c _ t =>
    { t with pc := if (if x.mb 23 then t.lc1 else t.lc0) = 0 then c.target x.l32 else c.next } :=
  steers_of_controlOp _ x s _ _ rfl

/-- R118. -/
theorem yield_steers (x : Ext) (s : State) : Steers (.yield x) x s fun c _ t => { t with defer := true, pc := c.next } :=
  steers_of_controlOp _ x s _ _ rfl

/-! ### Nops (R121) -/

/-- A `nop` lets its set go on. -/
theorem nopOp_gone (x : Ext) (s : State) (c : Ctx) (h : standing x s = some c) :
    Elsewhere c.wk s (nopOp x s) ∧ (nopOp x s).warp? c.wk = some { c.w with threads := c.gone } := by
  unfold nopOp
  rw [issuing_some x s _ c h]
  constructor
  · exact ((Elsewhere.setWarp s c.wk c.w).trans (Elsewhere.executed c _ _)).trans (Elsewhere.advance c _ 0)
  · have hw : (c.executed (s.setWarp c.wk c.w)).warp? c.wk = some c.w := by rw [State.warp?_executed, State.warp?_self]
    rw [State.advance_warp c _ 0 c.w hw, Mask.and_not_zero]
    rfl

theorem nop_steers (x : Ext) (s : State) : Steers (.nop x) x s fun c _ t => { t with pc := c.next } := by
  intro c h
  refine ⟨nopOp x s, rfl, ?_⟩
  rw [c.branched_next (standing_act_set h)]
  exact nopOp_gone x s c h

theorem nopCompact_gone (k : Compact) (s : State) (c : Ctx) (h : standing (k.toExt 0) s = some c) :
    ∃ t, exec (.nopCompact k) s = .next t ∧ Elsewhere c.wk s t ∧ t.warp? c.wk = some { c.w with threads := c.gone } :=
  ⟨nopOp (k.toExt 0) s, rfl, nopOp_gone (k.toExt 0) s c h⟩

/-! ### Parking (R399) -/

/-- Counters and trace records change no warp. -/
@[simp] theorem State.warp?_noteRecords (s : State) (wk k : Nat) (m : Mask) : (s.noteRecords wk m).warp? k = s.warp? k := by
  unfold State.noteRecords
  dsimp only
  split
  · rfl
  · split
    · rfl
    · rfl

/-- A fault that threads take parks those threads of their warp. -/
theorem State.warp?_park (s : State) (wk : Nat) (f : FaultAt) (addr resume : Fin 32 → Word) (w : Warp) (hw : s.warp? wk = some w) :
    (s.park wk f addr resume).warp? wk = some (w.modThreads f.mask fun i t => t.take f w.widx i s.ns (addr i) (resume i)) := by
  unfold State.park
  split
  · rename_i h0
    rw [hw, Warp.modThreads_rest, h0]
    refine congrArg some (Warp.withThreads_ext w w.threads _ fun i => ?_)
    rw [Warp.threads_modThreads]
    simp
  · rw [State.warp?_noteRecords, State.warp?_modWarp, if_pos rfl, hw]
    rfl

/-- A thread that is not parked yet takes the fault. -/
theorem Thread.take_parkedWith (t : Thread) (f : FaultAt) (warp lane now : Nat) (addr resume : Word) (h : t.st ≠ .parked) :
    (t.take f warp lane now addr resume).parkedWith f.cause addr := by
  have hp : t.isParked = false := by simpa [Thread.isParked] using h
  unfold Thread.take
  rw [hp, if_neg Bool.false_ne_true]
  exact ⟨rfl, _, rfl, rfl, rfl⟩

@[simp] theorem Thread.take_pc (t : Thread) (f : FaultAt) (warp lane now : Nat) (addr resume : Word) :
    (t.take f warp lane now addr resume).pc = t.pc := by
  unfold Thread.take
  split
  · rfl
  · rfl

/-! ### The indirect branch (R112) -/

/-- The active threads whose target is a multiple of 4. -/
def Ctx.straight (c : Ctx) (x : Ext) : Mask := c.act &&& ~~~ c.crooked x

theorem Ctx.getLsbD_crooked (c : Ctx) (x : Ext) (i : Fin 32) :
    (c.crooked x).getLsbD i = (c.act.getLsbD i && (c.reg x.a i).toNat % 4 != 0) := getLsbD_maskOf _ i

/-- No thread is misaligned where every target is a multiple of 4. -/
theorem Ctx.crooked_zero (c : Ctx) (x : Ext) (h : ∀ i : Fin 32, c.act.getLsbD i = true → (c.reg x.a i).toNat % 4 = 0) : c.crooked x = 0 := by
  apply Mask.ext_lanes
  intro i
  rw [c.getLsbD_crooked]
  cases ha : c.act.getLsbD i with
  | false => simp
  | true => simp [h i ha]

/-- The threads of `straight` go where their register says; the misaligned ones then take the fault. -/
theorem brxOp_eq (x : Ext) (s : State) (c : Ctx) (h : standing x s = some c) : brxOp x s =
    c.fault ((c.advance (c.executed (s.setWarp c.wk c.w) (refinement [c.srcRuns x.srcA] c.act)) c.act).modWarp c.wk fun w =>
      w.modThreads (c.straight x) fun i t => { t with pc := c.reg x.a i }) 0x03 (c.crooked x) fun _ => 0 := by
  unfold brxOp
  rw [issuing_some x s _ c h]
  rfl

/-- With every target a multiple of 4, the active threads go there, and nothing else changes. -/
theorem brxOp_aligned (x : Ext) (s : State) (c : Ctx) (h : standing x s = some c)
    (ha : ∀ i : Fin 32, c.act.getLsbD i = true → (c.reg x.a i).toNat % 4 = 0) :
    Elsewhere c.wk s (brxOp x s) ∧
      (brxOp x s).warp? c.wk = some { c.w with threads := c.branched fun i t => { t with pc := c.reg x.a i } } := by
  have h0 := c.crooked_zero x ha
  have hs : c.straight x = c.act := by rw [Ctx.straight, h0, Mask.and_not_zero]
  rw [brxOp_eq x s c h, Ctx.fault, State.park_none _ _ _ _ _ h0, hs, ← c.moved_act]
  exact c.steered s _ c.act _

/-- The warp after an indirect branch: a misaligned thread is parked at the branch, and no register and no guard changes. -/
theorem brxOp_parks (x : Ext) (s : State) (c : Ctx) (h : standing x s = some c) :
    ∃ w, (brxOp x s).warp? c.wk = some w ∧ w.regs = c.w.regs ∧ w.guards = c.w.guards ∧
      ∀ i : Fin 32, c.act.getLsbD i = true → (c.reg x.a i).toNat % 4 ≠ 0 → c.w.threads[i].st ≠ .parked →
        w.threads[i].parkedWith 0x03 0 ∧ w.threads[i].pc = c.w.threads[i].pc := by
  have hp := c.steered s (refinement [c.srcRuns x.srcA] c.act) (c.straight x) fun i t => { t with pc := c.reg x.a i }
  rw [brxOp_eq x s c h]
  refine ⟨_, State.warp?_park _ c.wk _ _ _ _ hp.2, by simp [Ctx.moved], by simp [Ctx.moved], fun i ha hm hst => ?_⟩
  have hc : (c.crooked x).getLsbD i = true := by rw [c.getLsbD_crooked, ha]; simpa using hm
  have hs : (c.straight x).getLsbD i = false := by rw [Ctx.straight, Mask.getLsbD_and_not, hc]; simp
  rw [Warp.threads_modThreads, if_pos hc, c.moved_stays _ _ i ha hs]
  exact ⟨Thread.take_parkedWith _ _ _ _ _ _ _ hst, Thread.take_pc _ _ _ _ _ _ _⟩

/-- R112: both at once, in the terms of the statement. -/
theorem brx_branches_or_parks (x : Ext) (s : State) (c : Ctx) (h : standing x s = some c) :
    ∃ t w, exec (.brx x) s = .next t ∧ t.warp? c.wk = some w ∧ w.regs = c.w.regs ∧ w.guards = c.w.guards ∧
      ((∀ i : Fin 32, c.act.getLsbD i = true → (c.reg x.a i).toNat % 4 = 0) →
        Elsewhere c.wk s t ∧ w = { c.w with threads := c.branched fun i t => { t with pc := c.reg x.a i } }) ∧
      ∀ i : Fin 32, c.act.getLsbD i = true → (c.reg x.a i).toNat % 4 ≠ 0 → c.w.threads[i].st ≠ .parked →
        (∃ a, w.threads[i].parkedWith 0x03 a) ∧ w.threads[i].pc = c.w.threads[i].pc := by
  obtain ⟨w, hw, hregs, hguards, hpark⟩ := brxOp_parks x s c h
  refine ⟨brxOp x s, w, rfl, hw, hregs, hguards, fun ha => ?_, fun i hi hm hst => ?_⟩
  · obtain ⟨he, hb⟩ := brxOp_aligned x s c h ha
    exact ⟨he, Option.some.inj (hw.symm.trans hb)⟩
  · obtain ⟨hp, hpc⟩ := hpark i hi hm hst
    exact ⟨⟨0, hp⟩, hpc⟩

/-- Settles O15: one result lemma per instruction. The model's `target`, `loopCount`, `loopInner` and `loopOuter` are the destination, the count
and the loop ends of the statement. -/
theorem controlFlowResults : Obligations.ControlFlowResults := by
  unfold Obligations.ControlFlowResults
  refine ⟨fun x s => ?_, brx_branches_or_parks⟩
  exact ⟨bra_steers x s, loopSetO_steers x s, loopSetI_steers x s, loopI_steers x s, loopO_steers x s, loopIo_steers x s, lbrk_steers x s,
    lbrkZ_steers x s, yield_steers x s, nop_steers x s, fun k c h => nopCompact_gone k s c h⟩

end Sys2Proof.Machine
